-- ==== Sys2Proof/Word.lean ====
section
/-! DEFINITION. The byte and the two-byte number of the framed links (section 10.6), with their plainest parts. -/

namespace Sys2Proof

/-- One byte of a serial line. -/
abbrev Byte := BitVec 8

/-- A two-byte number as the frames carry it. -/
abbrev Word := BitVec 16

/-- "Multi-byte numbers are sent high byte first" (section 10.6). -/
abbrev Word.ofBytes (hi lo : Byte) : Word := hi ++ lo

/-- The high byte of a two-byte number. -/
abbrev Word.hi (w : Word) : Byte := w.extractLsb' 8 8

/-- The low byte of a two-byte number. -/
abbrev Word.lo (w : Word) : Byte := w.extractLsb' 0 8

end Sys2Proof
end

