-- ==== Sys2Proof/Config.lean ====
section
/-! DEFINITION. What the manual fixes for every LGA-6: the names of berths, modules, ports and field inputs, and the
constants of its rules. The manual leaves no value open, so there is no free value here. -/

namespace Sys2Proof

/-- The six numbers 0 to 5 that name a berth (B0 to B5), a vessel port (V0 to V5) or a converter module (C0 to C5)
(00_scope.md section 5.3). -/
inductive Ix where
  | i0 | i1 | i2 | i3 | i4 | i5
  deriving DecidableEq, Repr

/-- The six numbers in rising order. -/
abbrev Ix.all : List Ix := [.i0, .i1, .i2, .i3, .i4, .i5]

/-- One value for each of the six berths or modules. -/
structure Six (α : Type) where
  x0 : α
  x1 : α
  x2 : α
  x3 : α
  x4 : α
  x5 : α
  deriving DecidableEq, Repr

/-- A framed port: T, or Vn of berth n. -/
inductive Port where
  | v (n : Ix)
  | t
  deriving DecidableEq, Repr

/-- The ports V0 to V5 and T, in the order of the port codes (section 10.6). -/
abbrev Port.all : List Port := [.v .i0, .v .i1, .v .i2, .v .i3, .v .i4, .v .i5, .t]

/-- The pilot loop input (section 1.2). -/
inductive Plug where
  | present | absent
  deriving DecidableEq, Repr

/-- The breaker position input (section 1.2). -/
inductive Position where
  | opened | closed | inTravel
  deriving DecidableEq, Repr

/-- The bus field and the selector position input (R1, section 1.2). -/
inductive Bus where
  | none | a | b
  deriving DecidableEq, Repr

/-- The instrument-transformer and meter inputs of one outlet, as last reported. -/
structure OutletInputs where
  plug : Plug
  breaker : Position
  selector : Bus
  /-- instantaneous shore power, kW, 0-9,999 -/
  meterNow : Nat
  /-- ship-side voltage, per-mille of the outlet's nominal voltage, 0-1,500 -/
  shipVoltage : Nat
  /-- ship-side frequency, 0.001 Hz, 40,000-70,000 -/
  shipFrequency : Nat
  /-- phase of the ship side relative to the reference, 0.1 degree, -1,800 to 1,800 -/
  phase : Int
  /-- voltage of the outlet's bus, per-mille of the outlet's nominal voltage -/
  busVoltage : Nat
  deriving DecidableEq, Repr

/-- The two inputs of one converter module (R74). -/
structure ModuleInputs where
  ready : Bool
  fault : Bool
  deriving DecidableEq, Repr

/-- Every field input of the part. -/
structure Inputs where
  outlet : Six OutletInputs
  modules : Six ModuleInputs
  /-- bus A voltage, per-mille of bus A's nominal voltage -/
  busAVoltage : Nat
  /-- bus A frequency, 0.001 Hz -/
  busAFrequency : Nat
  /-- the shed line, as its filter has taken it: asserted or not -/
  shed : Bool
  /-- the insulation instrument's fault input -/
  instrumentFault : Bool
  deriving DecidableEq, Repr

/-- What a vessel-side measurement brings (R47): the ship side of one outlet and the bus it is compared with. -/
structure Measurement where
  shipVoltage : Nat
  shipFrequency : Nat
  phase : Int
  busVoltage : Nat
  deriving DecidableEq, Repr

/-- Which way a module input has moved (R74, R81, R82). -/
inductive ModuleSignal where
  | faultInput | readyInput
  deriving DecidableEq, Repr

namespace Config

/-- R3: the motion limit of a close command, ms. -/
abbrev closeMotion : Nat := 500
/-- R3: the motion limit of an open command, ms. -/
abbrev openMotion : Nat := 300
/-- R5: the selector limit, s. -/
abbrev selectorLimit : Nat := 4
/-- R58: the check timer of a DEAD check, s. -/
abbrev deadCheck : Nat := 3
/-- R58: the check timer of a LIVE check, s. -/
abbrev liveCheck : Nat := 1
/-- R73, R77: the start limit, s. -/
abbrev startLimit : Nat := 30
/-- R73, R80: the stop timer, s. -/
abbrev stopTimer : Nat := 10
/-- R75: the output of one module, kW. -/
abbrev moduleKw : Nat := 800
/-- R166: the limit of a waiting RELEASE, s. -/
abbrev releaseLimit : Nat := 60
/-- R35: below this voltage the ship side is DEAD. -/
abbrev deadBelow : Nat := 100
/-- R35, R36: from this voltage on the ship side is LIVE and bus A counts as present. -/
abbrev liveFrom : Nat := 800
/-- R38: 60.000 Hz in 0.001 Hz. -/
abbrev nominalB : Nat := 60000
/-- R34, R39: the band of the reference. -/
abbrev refLow : Nat := 59000
/-- R34, R39: the band of the reference. -/
abbrev refHigh : Nat := 61000
/-- R39: 0.20 Hz/s in FOLLOW. -/
abbrev followRate : Nat := 200
/-- R40: 0.05 Hz/s in RETURN. -/
abbrev returnRate : Nat := 50
/-- R39: the offset of the target while the phase difference is large. -/
abbrev followOffset : Nat := 20
/-- R39: 1.0 degree, in 0.01 degree. -/
abbrev phaseClose : Nat := 100
/-- A full turn in 0.01 degree. -/
abbrev fullTurn : Nat := 36000
/-- 0.001 Hz turns a phase by 0.36 degree in a second, which is 36 in 0.01 degree. -/
abbrev turnPerHz : Nat := 36
/-- R133: the minute tick. -/
abbrev minute : Nat := 60
/-- R137: the slots of the Order Store. -/
abbrev slots : Nat := 64
/-- R137: the chains a port may hold. -/
abbrev portChains : Nat := 4
/-- R175: so many waiting answers make the part discard a frame. -/
abbrev backlog : Nat := 8
/-- R173, R174: the largest payload. -/
abbrev maxPayload : Nat := 240
/-- Section 10.6: the start byte. -/
abbrev startByte : Byte := 165
/-- Section 10.6: the marker of a grid word. -/
abbrev gridMarker : Byte := 195
/-- More followers than one event can have: the bound on the settling of a step (log entry 20). -/
abbrev settleFuel : Nat := 4096

end Config

end Sys2Proof
end

