-- ==== Sys2Proof/Syntax.lean ====
section
/-! DEFINITION. The commands of the block: one constructor of `Instr` per row of spec/opcode_table.json, in the table's
order. An order row carries the port, the stop-on-error marker, the berth field where the kind names a berth, and the raw
argument bytes of section 10.6 (log entry 1); a frame row the port and the payload; an event row what the event reports. -/

namespace Sys2Proof

inductive Instr where
  | powerOn (inputs : Inputs)
  | declare (p : Port) (stop : Bool) (freq cls trans : Byte) (h e c d : Word)
  | connect (p : Port) (stop : Bool) (wait : Word)
  | genOpened (p : Port) (stop : Bool)
  | genClosed (p : Port) (stop : Bool)
  | disconnect (p : Port) (stop : Bool) (trans : Byte)
  | authorize (p : Port) (stop : Bool) (berth prio : Byte) (cap : Word)
  | withdraw (p : Port) (stop : Bool) (berth force : Byte)
  | setReserve (p : Port) (stop : Bool) (value : Word)
  | setParameter (p : Port) (stop : Bool) (start count : Byte) (v1 v2 v3 v4 v5 : Word)
  | moduleServiceIn (p : Port) (stop : Bool) (module : Byte)
  | moduleServiceOut (p : Port) (stop : Bool) (module : Byte)
  | checkBerth (p : Port) (stop : Bool) (berth : Byte)
  | ackTrip (p : Port) (stop : Bool) (berth : Byte)
  | lockoutOn (p : Port) (stop : Bool) (berth : Byte)
  | lockoutOff (p : Port) (stop : Bool) (berth : Byte)
  | release (p : Port) (stop : Bool)
  | panelReset (p : Port) (stop : Bool)
  | berthReset (p : Port) (stop : Bool) (berth : Byte)
  | raiseFlag (p : Port) (stop : Bool) (berth flag : Byte)
  | waitFlag (p : Port) (stop : Bool) (berth flag : Byte) (limit : Word)
  | proveClose (p : Port) (stop : Bool) (berth : Byte)
  | delay (p : Port) (stop : Bool) (duration : Word)
  | unknownOrderKind (p : Port) (stop : Bool) (berth kind : Byte)
  | chain (p : Port) (payload : List Byte)
  | cancel (p : Port) (payload : List Byte)
  | read (p : Port) (payload : List Byte)
  | noticeClear (p : Port) (payload : List Byte)
  | noticeSet (p : Port) (payload : List Byte)
  | noticeMask (p : Port) (payload : List Byte)
  | badKindFrame (p : Port) (kind : Byte) (payload : List Byte)
  | corruptFrame (p : Port)
  | frameReceiveError (p : Port)
  | frameGapTimeout (p : Port)
  | gridWord (hi lo check : Byte)
  | gridReceiveError
  | gridWordGapTimeout
  | stalenessExpiry
  | shedAsserted
  | shedReleased
  | plugPresent (n : Ix) (voltage : Nat)
  | plugAbsent (n : Ix)
  | breakerClosedReport (n : Ix)
  | breakerOpenReport (n : Ix)
  | breakerDisagreement (n : Ix) (position : Position)
  | closeMotionLimitExpiry (n : Ix)
  | openMotionLimitExpiry (n : Ix)
  | selectorPositionReport (n : Ix) (position : Bus)
  | selectorLimitExpiry (n : Ix)
  | admissionLimitExpiry (n : Ix)
  | syncLimitExpiry (n : Ix)
  | openTransitionLimitExpiry (n : Ix)
  | deadCountCompletion (n : Ix)
  | parallelLimitExpiry (n : Ix)
  | returnParallelLimitExpiry (n : Ix)
  | returnLimitExpiry (n : Ix)
  | shorePowerLow (n : Ix) (kw : Nat)
  | permitDeadTimeExpiry (n : Ix)
  | shipSideReport (n : Ix) (voltage : Nat)
  | busAVoltageCrossing (voltage : Nat)
  | busAAvailabilityChange
  | windowMetChange (n : Ix) (m : Measurement) (busAFrequency : Nat)
  | settleTimerExpiry (n : Ix)
  | referenceReaches60
  | checkTimerExpiry (reading : Nat)
  | instrumentFaultAsserted
  | instrumentFaultCleared
  | freshnessLapse (n : Ix)
  | roundRobinEligible (n : Ix)
  | lapseWarning (n : Ix)
  | checkLapsedTrip (n : Ix)
  | moduleReady (m : Ix)
  | startLimitExpiry (m : Ix)
  | stopTimerExpiry (m : Ix)
  | moduleFault (m : Ix) (signal : ModuleSignal)
  | moduleFaultCleared (m : Ix) (signal : ModuleSignal)
  | periodExpiry
  | minuteTick
  | meterReading (n : Ix) (reading : Option Int)
  | waitLimitExpiry (p : Port)
  | delayExpiry (p : Port)
  | releaseLimitExpiry
  | frameByteReceived (p : Port) (b : Byte)
  | gridByteReceived (b : Byte)
  | frameSent (p : Port)
  | supplyFailure (run : Option (Nat × List (Nat × Bool)))
  deriving DecidableEq, Repr

end Sys2Proof
end

