-- ==== Sys2Proof/WellFormed.lean ====
section
/-! DEFINITION. Which commands are well formed: every operand within the range the manual states for it. The machine gives
a meaning to the others as well (it clamps what the manual says it clamps). -/

namespace Sys2Proof

/-- The payload of an intact frame holds at most 240 bytes (R174). -/
def payloadOk (payload : List Byte) : Bool := decide (payload.length ≤ Config.maxPayload)

/-- A voltage in per-mille lies within 0-1,500 (R34). -/
def voltageOk (v : Nat) : Bool := decide (v ≤ 1500)

/-- A measured ship-side frequency lies within 40,000-70,000 (R34). -/
def frequencyOk (f : Nat) : Bool := decide (40000 ≤ f) && decide (f ≤ 70000)

/-- A phase difference lies within -180.0 to +180.0 degrees (R47). -/
def phaseOk (p : Int) : Bool := decide (-1800 ≤ p) && decide (p ≤ 1800)

/-- An instantaneous meter signal lies within 0-9,999 kW (section 1.2). -/
def meterOk (kw : Nat) : Bool := decide (kw ≤ 9999)

/-- The inputs of one outlet are within their ranges. -/
def OutletInputs.wf (o : OutletInputs) : Bool :=
  meterOk o.meterNow && voltageOk o.shipVoltage && frequencyOk o.shipFrequency && phaseOk o.phase && voltageOk o.busVoltage

/-- The field inputs are within their ranges. -/
def Inputs.wf (i : Inputs) : Bool :=
  i.outlet.x0.wf && i.outlet.x1.wf && i.outlet.x2.wf && i.outlet.x3.wf && i.outlet.x4.wf && i.outlet.x5.wf &&
    voltageOk i.busAVoltage && frequencyOk i.busAFrequency

/-- A measurement is within its ranges. -/
def Measurement.wf (m : Measurement) : Bool :=
  voltageOk m.shipVoltage && frequencyOk m.shipFrequency && phaseOk m.phase && voltageOk m.busVoltage

/-- A parameter run is of one to five values of 0-65,535 and begins at an index of 0-63 (R163). -/
def runOk (run : Nat × List (Nat × Bool)) : Bool :=
  decide (run.1 ≤ 63) && decide (1 ≤ run.2.length) && decide (run.2.length ≤ 5) && run.2.all fun v => decide (v.1 ≤ 65535)

/-- A command is well formed. -/
def Instr.wf : Instr → Bool
  | .powerOn inputs => inputs.wf
  | .declare .. | .connect .. | .genOpened .. | .genClosed .. | .disconnect .. | .authorize .. | .withdraw ..
  | .setReserve .. | .setParameter .. | .moduleServiceIn .. | .moduleServiceOut .. | .checkBerth .. | .ackTrip ..
  | .lockoutOn .. | .lockoutOff .. | .release .. | .panelReset .. | .berthReset .. | .raiseFlag .. | .waitFlag ..
  | .proveClose .. | .delay .. => true
  | .unknownOrderKind _ _ _ kind => decide (kind = 0) || decide (20 < kind.toNat)
  | .chain _ payload | .cancel _ payload | .read _ payload | .noticeClear _ payload | .noticeSet _ payload
  | .noticeMask _ payload => payloadOk payload
  | .badKindFrame _ kind payload => (decide (kind = 0) || decide (6 < kind.toNat)) && payloadOk payload
  | .corruptFrame _ | .frameReceiveError _ | .frameGapTimeout _ | .gridWord .. | .gridReceiveError | .gridWordGapTimeout
  | .stalenessExpiry | .shedAsserted | .shedReleased => true
  | .plugPresent _ voltage | .shipSideReport _ voltage | .busAVoltageCrossing voltage => voltageOk voltage
  | .plugAbsent _ | .breakerClosedReport _ | .breakerOpenReport _ | .breakerDisagreement .. | .closeMotionLimitExpiry _
  | .openMotionLimitExpiry _ | .selectorPositionReport .. | .selectorLimitExpiry _ | .admissionLimitExpiry _
  | .syncLimitExpiry _ | .openTransitionLimitExpiry _ | .deadCountCompletion _ | .parallelLimitExpiry _
  | .returnParallelLimitExpiry _ | .returnLimitExpiry _ => true
  | .shorePowerLow _ kw => meterOk kw
  | .permitDeadTimeExpiry _ | .busAAvailabilityChange => true
  | .windowMetChange _ m busAFrequency => m.wf && frequencyOk busAFrequency
  | .settleTimerExpiry _ | .referenceReaches60 | .checkTimerExpiry _ | .instrumentFaultAsserted | .instrumentFaultCleared
  | .freshnessLapse _ | .roundRobinEligible _ | .lapseWarning _ | .checkLapsedTrip _ | .moduleReady _
  | .startLimitExpiry _ | .stopTimerExpiry _ | .moduleFault .. | .moduleFaultCleared .. | .periodExpiry | .minuteTick
  | .meterReading .. | .waitLimitExpiry _ | .delayExpiry _ | .releaseLimitExpiry | .frameByteReceived .. | .gridByteReceived _
  | .frameSent _ => true
  | .supplyFailure run => run.all runOk

end Sys2Proof
end

