-- ==== Sys2Proof/Decode.lean ====
section
/-! DEFINITION. The decoder of the table's bits. This block has no instruction words: no row of spec/opcode_table.json gives
bits, so no word spells a command. (The byte forms of frames and orders are read in Machine/Operands.lean and
Machine/Frames.lean.) -/

namespace Sys2Proof

/-- The command that a word of `nbits` bits spells by the table's bits: none, since no row gives any. -/
def decodeTableWord (_nbits _w : Nat) : Option Instr := none

end Sys2Proof
end

