-- ==== Sys2Proof/Machine/State.lean ====
section
/-! DEFINITION. The state of the part as plain data: every record and collection the manual gives a block, the field inputs as
last reported, the timebase, and the queue of commands that wait. -/

namespace Sys2Proof.Machine

/-! ### Orders, chains and status records (chapters 8 to 10) -/

/-- An order with its raw arguments, by kind (section 10.6). -/
inductive Order where
  | declare (freq cls trans : Byte) (h e c d : Word)
  | connect (wait : Word)
  | genOpened
  | genClosed
  | disconnect (trans : Byte)
  | authorize (prio : Byte) (cap : Word)
  | withdraw (force : Byte)
  | setReserve (value : Word)
  | setParameter (start count : Byte) (v1 v2 v3 v4 v5 : Word)
  | moduleService (module direction : Byte)
  | checkBerth
  | ackTrip
  | lockout (on : Byte)
  | release
  | panelReset
  | berthReset
  | raiseFlag (flag : Byte)
  | waitFlag (flag : Byte) (limit : Word)
  | proveClose
  | delay (duration : Word)
  | unknown (kind : Byte)
  deriving DecidableEq, Repr

/-- One order record: the order, its stop-on-error marker and its berth field. -/
structure OrderRec where
  order : Order
  stop : Bool
  berth : Byte
  deriving DecidableEq, Repr

/-- The outcome of an ended order (R141). -/
inductive Verdict where
  | done | refused | failed | cancelled | skipped
  deriving DecidableEq, Repr

/-- The reason codes and notes, in the order of the table of R141, after "none". -/
inductive Code where
  | none | badArgument | badState | live | held | notPermitted | noPlug | tripped | locked | noDeclaration | voltageClass
  | notAuthorized | noHeadroom | checkFailed | syncTimeout | deadTimeout | parallelTimeout | returnTimeout | tooLate
  | notExpected | breakerFail | pilotLost | cancelled | reset | capacityNeeded | runOverrun | waitTimeout | stuck
  | forcedOpen | clamped | returnForced
  deriving DecidableEq, Repr

/-- A status record (R141). -/
structure Status where
  verdict : Verdict
  code : Code
  d1 : Nat
  d2 : Nat
  deriving DecidableEq, Repr

/-- The status of a slot (R137); a running order keeps the second at which it was taken. -/
inductive SlotStatus where
  | notTaken
  | running (takenAt : Nat)
  | ended (status : Status)
  deriving DecidableEq, Repr

/-- One slot of the Order Store. -/
structure Slot where
  record : OrderRec
  status : SlotStatus
  deriving DecidableEq, Repr

/-- A chain held: its serial, the count of its tag and its orders in position order. The serial is the model's own name for
the chain: a count comes back after 256 chains and then two chains held may share it, a serial never does. -/
structure Chain where
  serial : Nat
  count : Nat
  orders : List Slot
  deriving DecidableEq, Repr

/-- What the Order Engine keeps for one port: its chains (head first), its rolling count, how many chains it has accepted
since power-on (the serial of the next one), and the time left of a running DELAY or RELEASE, in seconds. -/
structure PortOrders where
  queue : List Chain
  rolling : Nat
  accepted : Nat
  timer : Option Nat
  deriving DecidableEq, Repr

/-- The name of one order held: port, serial of its chain, position from 1. -/
structure OrderRef where
  port : Port
  serial : Nat
  pos : Nat
  deriving DecidableEq, Repr

/-- A running WAIT_FLAG on a flag: its port and the seconds left of its limit (R150). -/
structure Waiter where
  port : Port
  left : Nat
  deriving DecidableEq, Repr

/-- One sync flag (R150); its source is a parameter. -/
structure SyncFlag where
  isSet : Bool
  waiters : List Waiter
  deriving DecidableEq, Repr

/-- The two flags of a berth. -/
structure FlagPair where
  f0 : SyncFlag
  f1 : SyncFlag
  deriving DecidableEq, Repr

/-- One value for each framed port. -/
structure PortMap (α : Type) where
  t : α
  v : Six α
  deriving DecidableEq, Repr

/-- The Order Engine. -/
structure OrderEngine where
  ports : PortMap PortOrders
  flags : Six FlagPair
  held : Bool
  deriving DecidableEq, Repr

/-! ### The Link Unit (chapter 10) -/

/-- The receive state of a framed port (R174). -/
inductive Receive where
  | hunt
  | kind
  | length (kind : Byte)
  | payload (kind len : Byte) (got : List Byte)
  | crcHigh (kind : Byte) (payload : List Byte)
  | crcLow (kind : Byte) (payload : List Byte) (high : Byte)
  deriving DecidableEq, Repr

/-- The eight notice classes, in the order of R177. -/
inductive NoticeClass where
  | trip | grant | returnAdvice | check | ceiling | module | overdraw | held
  deriving DecidableEq, Repr

/-- What a notice tells (R179): berth and code may be absent. -/
structure Notice where
  berth : Option Ix
  code : Option Nat
  value : Nat
  period : Nat
  deriving DecidableEq, Repr

/-- One notice class of one port (R179). -/
structure NoticeSlot where
  flag : Bool
  masked : Bool
  latest : Option Notice
  deriving DecidableEq, Repr

/-- The notice state of one port. -/
structure Notices where
  trip : NoticeSlot
  grant : NoticeSlot
  returnAdvice : NoticeSlot
  check : NoticeSlot
  ceiling : NoticeSlot
  module : NoticeSlot
  overdraw : NoticeSlot
  held : NoticeSlot
  deriving DecidableEq, Repr

/-- Why a frame is rejected (section 10.6). -/
inductive Reject where
  | badKind | badFrame | queueFull | storeFull | notPermitted | unknownTag | badTable | badIndex
  deriving DecidableEq, Repr

/-- A frame to be sent (sections 10.3 and 10.6). -/
inductive TxFrame where
  | accept (count : Nat) (free : Nat)
  | reject (kind : Byte) (reason : Reject)
  | completion (count : Nat) (records : List Status)
  | readReply (table start count : Nat) (records : List Byte)
  | notice (cls : NoticeClass) (content : Notice)
  deriving DecidableEq, Repr

/-- One framed port (R173). -/
structure LinkPort where
  isOpen : Bool
  receive : Receive
  transmit : List TxFrame
  notices : Notices
  deriving DecidableEq, Repr

/-! ### The Berth Sequencer (chapter 1) -/

/-- The states of a berth, in the order of R1. -/
inductive BerthState where
  | vacant | plugged | admitting | syncing | deadWait | closing | parallel | onShore | returnWait | returnParallel | opening
  | tripped | adopted | lockedOut
  deriving DecidableEq, Repr

/-- The breaker field (R3). -/
inductive Breaker where
  | opened | closeSent | closed | openSent
  deriving DecidableEq, Repr

/-- The declared supply frequency. -/
inductive Freq where
  | f50 | f60
  deriving DecidableEq, Repr

/-- The voltage classes, in the order of R1. -/
inductive VClass where
  | lv440 | mv6600 | mv11000
  deriving DecidableEq, Repr

/-- The declared transition. -/
inductive Transition where
  | closed | opened
  deriving DecidableEq, Repr

/-- What the ship has declared. -/
structure Declaration where
  freq : Freq
  cls : VClass
  trans : Transition
  h : Nat
  e : Nat
  c : Nat
  d : Nat
  deriving DecidableEq, Repr

/-- What the terminal has authorized. -/
structure Authorization where
  prio : Nat
  cap : Nat
  withdrawn : Bool
  deriving DecidableEq, Repr

/-- How a close command was reached (R14). -/
inductive Approach where
  | sync | dead
  deriving DecidableEq, Repr

/-- Why the breaker is being opened (R21). -/
inductive Purpose where
  | ret | force | trip | panel
  deriving DecidableEq, Repr

/-- The trip causes, in the order of R1. -/
inductive TripCause where
  | pilotLost | insulationLow | checkLapsed | parallelTimeout | overload | busLost | closeFail | breakerStuck
  deriving DecidableEq, Repr

/-- The dead count (R50): tenths of a second left while it runs. -/
inductive DeadCount where
  | stopped
  | running (left : Nat)
  | completed
  deriving DecidableEq, Repr

/-- One berth record (R1, R8, R52). A timer is `none` while it does not run. -/
structure Berth where
  state : BerthState
  plug : Plug
  declaration : Option Declaration
  authorization : Option Authorization
  /-- outlet rating O, kW (R2) -/
  rating : Nat
  bus : Bus
  /-- the selector is MOVING (else SETTLED) -/
  moving : Bool
  /-- the selector command output -/
  commanded : Bus
  breaker : Breaker
  approach : Option Approach
  purpose : Option Purpose
  tripCause : Option TripCause
  stuck : Bool
  /-- s -/
  admissionLimit : Option Nat
  /-- s -/
  syncLimit : Option Nat
  /-- s -/
  openTransitionLimit : Option Nat
  /-- s -/
  parallelLimit : Option Nat
  /-- s -/
  returnLimit : Option Nat
  /-- ms -/
  motionLimit : Option Nat
  /-- s -/
  selectorLimit : Option Nat
  deadCount : DeadCount
  /-- tenths of a second (R52) -/
  permitDeadTime : Option Nat
  consenting : Option OrderRef
  /-- the consenting DISCONNECT is marked RETURN_FORCED (R20) -/
  returnForced : Bool
  /-- the shore power at the open command from RETURN_PARALLEL (R159) -/
  openPower : Nat
  /-- met by PANEL_RESET in CLOSING, so the closed report makes it ADOPTED (R31) -/
  adoptOnClose : Bool
  /-- the ship close permit is ASSERTED -/
  permit : Bool
  forcedOpen : Bool
  declarationAwaited : Bool
  authorizationAwaited : Bool
  deriving DecidableEq, Repr

/-! ### The Phase Reference Unit (chapter 2) -/

/-- The bus B reference mode (R34). -/
inductive RefMode where
  | free
  | follow (n : Ix)
  | ret
  deriving DecidableEq, Repr

/-- The ship-side state (R35). -/
inductive ShipSide where
  | dead | between | live
  deriving DecidableEq, Repr

/-- The window state (R48). -/
inductive Window where
  | inactive | deferred | outside | settling | held
  deriving DecidableEq, Repr

/-- A request for the follow claim, with the second at which it was made (R42). -/
structure ClaimRequest where
  berth : Ix
  time : Nat
  deriving DecidableEq, Repr

/-- What the Phase Reference Unit keeps for one berth; the settle timer in tenths of a second. -/
structure ShipPhase where
  side : ShipSide
  window : Window
  settle : Option Nat
  /-- the phase difference between the ship side and the reference of its bus as it now stands, 0.01 degree (R39, R47; log
  entry 19) -/
  difference : Int
  deriving DecidableEq, Repr

/-- The Phase Reference Unit (R34). -/
structure PhaseUnit where
  busAPresent : Bool
  /-- seconds left of the running 1 s of R36 -/
  busATimer : Option Nat
  busBInUse : Bool
  mode : RefMode
  /-- 0.001 Hz -/
  frequency : Nat
  /-- the phase of the reference, 0.01 degree, 0-35,999 (R38; log entry 19) -/
  phase : Nat
  holder : Option ClaimRequest
  waiting : List ClaimRequest
  ships : Six ShipPhase
  deriving DecidableEq, Repr

/-! ### The Check Scanner (chapter 3) -/

/-- The status of a check record (R56). -/
inductive CheckStatus where
  | none | inFlight | passed | failed
  deriving DecidableEq, Repr

/-- The status a record had before a flight (R56). -/
inductive BeforeFlight where
  | none | passed | failed
  deriving DecidableEq, Repr

/-- The mode of a check (R59). -/
inductive CheckMode where
  | dead | live
  deriving DecidableEq, Repr

/-- Where a check came from (R58). -/
inductive CheckOrigin where
  | request | round
  deriving DecidableEq, Repr

/-- One check record (R56). -/
structure CheckRec where
  status : CheckStatus
  before : Option BeforeFlight
  mode : Option CheckMode
  age : Nat
  resistance : Option Nat
  lapseWarned : Bool
  deriving DecidableEq, Repr

/-- The check in flight (R58); its timer in seconds. -/
structure InFlight where
  berth : Ix
  mode : CheckMode
  origin : CheckOrigin
  timer : Nat
  deriving DecidableEq, Repr

/-- The scanner's state (R58): at most one check is in flight. -/
inductive Scanner where
  | idle
  | running (check : InFlight)
  | faulted
  deriving DecidableEq, Repr

/-- The Check Scanner. -/
structure CheckUnit where
  records : Six CheckRec
  queue : List Ix
  pointer : Ix
  scanner : Scanner
  roundList : List Ix
  roundClosed : Bool
  deriving DecidableEq, Repr

/-! ### The Converter Pool (chapter 4) -/

/-- The states of a module, in the order of R73. -/
inductive ModuleState where
  | off | starting | online | stopping | faulted | outOfService
  deriving DecidableEq, Repr

/-- Why a module entered FAULTED (R73). -/
inductive FaultCause where
  | startFail | tripped
  deriving DecidableEq, Repr

/-- One module record (R73). -/
structure Converter where
  state : ModuleState
  seconds : Nat
  cause : Option FaultCause
  outPending : Bool
  startLimit : Option Nat
  stopTimer : Option Nat
  deriving DecidableEq, Repr

/-- The Converter Pool. -/
structure Pool where
  modules : Six Converter
  pointer : Ix
  target : Nat
  stopCount : Nat
  deriving DecidableEq, Repr

/-! ### The Grid Interface (chapter 5) -/

/-- The word assembly (R90). -/
inductive Assembly where
  | hunt
  | collect (got : List Byte)
  deriving DecidableEq, Repr

/-- The ceiling state (R92). -/
inductive CeilingState where
  | noneReceived | current | stale
  deriving DecidableEq, Repr

/-- The shed mode (R94). -/
inductive ShedMode where
  | immediate | atSwitch
  deriving DecidableEq, Repr

/-- The Grid Interface (R89). The shed state is IN_EFFECT exactly while a mode is taken. -/
structure GridUnit where
  assembly : Assembly
  received : Option Nat
  state : CeilingState
  staleness : Option Nat
  /-- ceiling in force L, kW -/
  ceiling : Nat
  shedLine : Bool
  shed : Option ShedMode
  deriving DecidableEq, Repr

/-! ### The Grant Engine (chapters 6 and 7) -/

/-- One record of a grant set (R100). -/
structure GrantRec where
  firm : Nat
  flexible : Nat
  share : Nat
  bus : Bus
  deriving DecidableEq, Repr

/-- A grant set (R100). -/
structure GrantSet where
  recs : Six GrantRec
  effective : Nat
  a : Nat
  eta : Nat
  pending : Bool
  deriving DecidableEq, Repr

/-- One entry of the admission queue (R121). -/
structure QueueEntry where
  berth : Ix
  prio : Nat
  time : Nat
  deriving DecidableEq, Repr

/-- A charge record (R131). -/
structure Charge where
  e : Nat
  d : Nat
  acc : Nat
  warned : Bool
  deriving DecidableEq, Repr

/-- What the Grant Engine keeps for one berth besides its grants. -/
structure GrantBerth where
  admitted : Bool
  charge : Charge
  /-- the last meter reading and the period it covers (R128) -/
  reading : Option (Nat × Nat)
  /-- a reading has been taken since the last entry to ADOPTED (R129) -/
  sinceAdoption : Bool
  /-- an entry to ADOPTED has not yet been followed by a reading (R129; log entry 14) -/
  adoptionUnread : Bool
  /-- a period mark awaits its reading (R128) -/
  due : Bool
  overGrant : Nat
  overRating : Nat
  /-- the firm figure as the Grant Engine holds it: formed at the last computation (R109), or since then at the admission (R125) or
  the entry to ADOPTED (R102), and 0 without any of them (log entry 50) -/
  firm : Nat
  /-- connection time, s since power-on (R127) -/
  connected : Nat
  deriving DecidableEq, Repr

/-- The Grant Engine. -/
structure GrantUnit where
  active : GrantSet
  staged : GrantSet
  period : Nat
  /-- seconds to the next period expiry -/
  periodLeft : Nat
  /-- length of the period running and of the one before it, s -/
  periodLength : Nat
  lastLength : Nat
  /-- seconds to the next minute tick -/
  minuteLeft : Nat
  /-- terminal reserve Rt -/
  reserve : Nat
  overCeiling : Bool
  overCapacity : Bool
  queue : List QueueEntry
  berths : Six GrantBerth
  deriving DecidableEq, Repr

/-- The whole part. -/
structure State where
  /-- supply is applied (the model's own, log entry 7) -/
  powered : Bool
  /-- seconds since power-on -/
  now : Nat
  /-- the parameter table, index 0 first (R182) -/
  table : List Nat
  inputs : Inputs
  link : PortMap LinkPort
  oe : OrderEngine
  berths : Six Berth
  pru : PhaseUnit
  cs : CheckUnit
  cp : Pool
  gi : GridUnit
  ge : GrantUnit
  /-- the commands that wait, first in, first out (the model's own) -/
  pending : List Instr
  deriving DecidableEq, Repr

/-- Nothing in the manual stops the part, so there is no reason to stop with. -/
inductive Fault where
  deriving DecidableEq, Repr

/-- Why a command is turned away. -/
inductive Refusal where
  /-- raised by `exec` for a command without a meaning; safe; no arm of this model raises it -/
  | notModelled (mnemonic : String)
  deriving DecidableEq, Repr

/-! ### The part right after reset -/

namespace State

/-- Every berth or module alike. -/
abbrev six {α : Type} (a : α) : Six α := ⟨a, a, a, a, a, a⟩

/-- The field inputs at rest (log entry 6). -/
abbrev restInputs : Inputs :=
  { outlet := six
      { plug := .absent, breaker := .opened, selector := .none, meterNow := 0, shipVoltage := 0, shipFrequency := 60000,
        phase := 0, busVoltage := 0 }
    modules := six { ready := false, fault := false }
    busAVoltage := 0
    busAFrequency := 50000
    shed := false
    instrumentFault := false }

/-- The defaults of the parameter table (R183). -/
abbrev defaultTable : List Nat :=
  [12000, 4000, 120, 10, 200, 965, 240, 2000, 20, 100, 50, 100, 5, 90, 60, 10, 120, 0, 0, 0] ++
  [0, 0, 0, 0, 0, 0, 0, 0, 0, 0, 0, 0, 0, 0, 0, 0, 0, 0, 0, 0] ++
  [3000, 0, 0, 1, 3000, 0, 0, 1, 3000, 0, 0, 1, 3000, 0, 0, 1, 3000, 0, 0, 1, 3000, 0, 0, 1]

/-- A notice class after power-on (R180). -/
abbrev freshNotice : NoticeSlot := { flag := false, masked := false, latest := none }

/-- The notice state after power-on and at the opening of a port (R180). -/
abbrev freshNotices : Notices :=
  ⟨freshNotice, freshNotice, freshNotice, freshNotice, freshNotice, freshNotice, freshNotice, freshNotice⟩

/-- A framed port after power-on (R173). -/
abbrev freshPort (isOpen : Bool) : LinkPort :=
  { isOpen, receive := .hunt, transmit := [], notices := freshNotices }

/-- A sync flag after power-on (R153). -/
abbrev freshFlag : SyncFlag := { isSet := false, waiters := [] }

/-- A port's orders after power-on (R137). -/
abbrev freshOrders : PortOrders := { queue := [], rolling := 0, accepted := 0, timer := none }

/-- A berth with nothing plugged in and its breaker open (R30). -/
abbrev vacantBerth : Berth :=
  { state := .vacant, plug := .absent, declaration := none, authorization := none, rating := 3000, bus := .none,
    moving := false, commanded := .none, breaker := .opened, approach := none, purpose := none, tripCause := none,
    stuck := false, admissionLimit := none, syncLimit := none, openTransitionLimit := none, parallelLimit := none,
    returnLimit := none, motionLimit := none, selectorLimit := none, deadCount := .stopped, permitDeadTime := none,
    consenting := none, returnForced := false, openPower := 0, adoptOnClose := false, permit := false, forcedOpen := false,
    declarationAwaited := false, authorizationAwaited := false }

/-- A check record as it is set up (R56). -/
abbrev freshCheck : CheckRec :=
  { status := .none, before := none, mode := none, age := 0, resistance := none, lapseWarned := false }

/-- A module with both inputs clear (R86). -/
abbrev offModule : Converter :=
  { state := .off, seconds := 0, cause := none, outPending := false, startLimit := none, stopTimer := none }

/-- A grant record that grants nothing (R100). -/
abbrev noGrant : GrantRec := { firm := 0, flexible := 0, share := 0, bus := .none }

/-- A grant set that grants nothing. Its effective period is 0: R102 gives 0 for the active set at power-on and nothing for
the staged one, and the model takes 0 for both (DESIGN CHOICE, log entry 32). -/
abbrev emptySet (a eta : Nat) : GrantSet := { recs := six noGrant, effective := 0, a, eta, pending := false }

/-- An empty charge record (R131). -/
abbrev emptyCharge : Charge := { e := 0, d := 0, acc := 0, warned := false }

/-- The Grant Engine's record of a berth after power-on. -/
abbrev freshGrantBerth : GrantBerth :=
  { admitted := false, charge := emptyCharge, reading := none, sinceAdoption := false, adoptionUnread := false, due := false, overGrant := 0,
    overRating := 0, firm := 0, connected := 0 }

/-- The part right after reset: power-on (R185) with every field input at rest and the default parameter table (log
entry 6). `Tests/Slice0.lean` shows that POWER_ON with those inputs gives this state. -/
def reset : State where
  powered := true
  now := 0
  table := defaultTable
  inputs := restInputs
  link := { t := freshPort true, v := six (freshPort false) }
  oe := { ports := { t := freshOrders, v := six freshOrders }, flags := six ⟨freshFlag, freshFlag⟩, held := true }
  berths := six vacantBerth
  pru :=
    { busAPresent := false, busATimer := none, busBInUse := false, mode := .free, frequency := 60000, phase := 0, holder := none,
      waiting := [], ships := six { side := .between, window := .inactive, settle := none, difference := 0 } }
  cs := { records := six freshCheck, queue := [], pointer := .i0, scanner := .idle, roundList := [], roundClosed := true }
  cp := { modules := six offModule, pointer := .i0, target := 0, stopCount := 0 }
  gi :=
    { assembly := .hunt, received := none, state := .noneReceived, staleness := some 120, ceiling := 4000, shedLine := false,
      shed := none }
  ge :=
    { active := emptySet 4000 965, staged := emptySet 4000 965, period := 0, periodLeft := 10, periodLength := 10,
      lastLength := 10, minuteLeft := 60, reserve := 0, overCeiling := false, overCapacity := false, queue := [],
      berths := six freshGrantBerth }
  pending := []

end State

end Sys2Proof.Machine
end

