-- ==== Sys2Proof/Machine/Ops.lean ====
section
/-! DEFINITION. The named operations over the parts of the state: one record of six or of seven, one update of each block,
the arithmetic of section 5.2, and how a timer runs. -/

namespace Sys2Proof

/-! ### Six berths or modules, seven ports -/

/-- The number a name stands for. -/
def Ix.toNat : Ix → Nat
  | .i0 => 0 | .i1 => 1 | .i2 => 2 | .i3 => 3 | .i4 => 4 | .i5 => 5

/-- The name of a number, if it is 0 to 5. -/
def Ix.ofNat? : Nat → Option Ix
  | 0 => some .i0 | 1 => some .i1 | 2 => some .i2 | 3 => some .i3 | 4 => some .i4 | 5 => some .i5 | _ => none

/-- Circular order: B5 is followed by B0, C5 by C0 (R62, R77). -/
def Ix.next : Ix → Ix
  | .i0 => .i1 | .i1 => .i2 | .i2 => .i3 | .i3 => .i4 | .i4 => .i5 | .i5 => .i0

/-- The six names in circular order from `n` to the one before it (R62, R77). -/
def Ix.circle (n : Ix) : List Ix :=
  [n, n.next, n.next.next, n.next.next.next, n.next.next.next.next, n.next.next.next.next.next]

/-- The value of one berth or module. -/
def Six.get {α : Type} (v : Six α) : Ix → α
  | .i0 => v.x0 | .i1 => v.x1 | .i2 => v.x2 | .i3 => v.x3 | .i4 => v.x4 | .i5 => v.x5

/-- Replace the value of one berth or module. -/
def Six.set {α : Type} (v : Six α) (n : Ix) (a : α) : Six α :=
  match n with
  | .i0 => { v with x0 := a }
  | .i1 => { v with x1 := a }
  | .i2 => { v with x2 := a }
  | .i3 => { v with x3 := a }
  | .i4 => { v with x4 := a }
  | .i5 => { v with x5 := a }

/-- One value for each name. -/
def Six.ofFn {α : Type} (f : Ix → α) : Six α := ⟨f .i0, f .i1, f .i2, f .i3, f .i4, f .i5⟩

/-- The same change at every name. -/
def Six.map {α β : Type} (f : α → β) (v : Six α) : Six β := .ofFn fun n => f (v.get n)

/-- The values in rising order of their names. -/
def Six.toList {α : Type} (v : Six α) : List α := [v.x0, v.x1, v.x2, v.x3, v.x4, v.x5]

/-- A sum over the six names. -/
def sumSix (f : Ix → Nat) : Nat := f .i0 + f .i1 + f .i2 + f .i3 + f .i4 + f .i5

/-- How many of the six names satisfy a test. -/
def countSix (f : Ix → Bool) : Nat := sumSix fun n => if f n then 1 else 0

/-! ### Arithmetic (section 5.2) -/

/-- "ceil", which rounds up. -/
def ceilDiv (a b : Nat) : Nat := (a + b - 1) / b

/-- The nearer end of a range for a value outside it. -/
def clamp (lo hi a : Nat) : Nat := min hi (max lo a)

/-- The import of a bus-B power: ceil(x × 1000 / η) (R108). -/
def importB (eta x : Nat) : Nat := ceilDiv (x * 1000) eta

/-- The distance between two numbers. -/
def absDiff (a b : Nat) : Nat := (a - b) + (b - a)

/-- Move `a` toward `b` by at most `step`, without overshoot (R39, R40). -/
def approachBy (step a b : Nat) : Nat := if a ≤ b then min b (a + step) else max b (a - step)

/-- A count that stays at its largest value (R57, R73). -/
def countUp (top a : Nat) : Nat := if a < top then a + 1 else top

/-- A count in 16 bits: after 65535 comes 0 (section 5.4, R103). -/
def nextPeriod (k : Nat) : Nat := if 65535 ≤ k then 0 else k + 1

/-- A running timer loses `d` of its time left; a stopped one stays stopped. -/
def runDown (d : Nat) (timer : Option Nat) : Option Nat := timer.map (· - d)

/-- A running timer has no time left. -/
def timedOut (timer : Option Nat) : Bool := timer == some 0

namespace Machine

/-- The value of one framed port. -/
def PortMap.get {α : Type} (m : PortMap α) : Port → α
  | .t => m.t
  | .v n => m.v.get n

/-- Replace the value of one framed port. -/
def PortMap.set {α : Type} (m : PortMap α) (p : Port) (a : α) : PortMap α :=
  match p with
  | .t => { m with t := a }
  | .v n => { m with v := m.v.set n a }

/-- The same change at every port. -/
def PortMap.map {α β : Type} (f : α → β) (m : PortMap α) : PortMap β := { t := f m.t, v := m.v.map f }

namespace State

/-! ### One update of each block -/

/-- The record of one berth. -/
def berth (s : State) (n : Ix) : Berth := s.berths.get n

/-- Change the record of one berth. -/
def modBerth (n : Ix) (f : Berth → Berth) (s : State) : State := { s with berths := s.berths.set n (f (s.berths.get n)) }

/-- The Link Unit's record of one port. -/
def port (s : State) (p : Port) : LinkPort := s.link.get p

/-- Change the Link Unit's record of one port. -/
def modPort (p : Port) (f : LinkPort → LinkPort) (s : State) : State := { s with link := s.link.set p (f (s.link.get p)) }

/-- The Order Engine's record of one port. -/
def orders (s : State) (p : Port) : PortOrders := s.oe.ports.get p

/-- Change the Order Engine. -/
def modOe (f : OrderEngine → OrderEngine) (s : State) : State := { s with oe := f s.oe }

/-- Change the Order Engine's record of one port. -/
def modOrders (p : Port) (f : PortOrders → PortOrders) (s : State) : State :=
  s.modOe fun oe => { oe with ports := oe.ports.set p (f (oe.ports.get p)) }

/-- Change the Phase Reference Unit. -/
def modPru (f : PhaseUnit → PhaseUnit) (s : State) : State := { s with pru := f s.pru }

/-- What the Phase Reference Unit keeps for one berth. -/
def ship (s : State) (n : Ix) : ShipPhase := s.pru.ships.get n

/-- Change what the Phase Reference Unit keeps for one berth. -/
def modShip (n : Ix) (f : ShipPhase → ShipPhase) (s : State) : State :=
  s.modPru fun u => { u with ships := u.ships.set n (f (u.ships.get n)) }

/-- Change the Check Scanner. -/
def modCs (f : CheckUnit → CheckUnit) (s : State) : State := { s with cs := f s.cs }

/-- The check record of one berth. -/
def check (s : State) (n : Ix) : CheckRec := s.cs.records.get n

/-- Change the check record of one berth. -/
def modCheck (n : Ix) (f : CheckRec → CheckRec) (s : State) : State :=
  s.modCs fun u => { u with records := u.records.set n (f (u.records.get n)) }

/-- Change the Converter Pool. -/
def modCp (f : Pool → Pool) (s : State) : State := { s with cp := f s.cp }

/-- The record of one module. -/
def converter (s : State) (m : Ix) : Converter := s.cp.modules.get m

/-- Change the record of one module. -/
def modConverter (m : Ix) (f : Converter → Converter) (s : State) : State :=
  s.modCp fun u => { u with modules := u.modules.set m (f (u.modules.get m)) }

/-- Change the Grid Interface. -/
def modGi (f : GridUnit → GridUnit) (s : State) : State := { s with gi := f s.gi }

/-- Change the Grant Engine. -/
def modGe (f : GrantUnit → GrantUnit) (s : State) : State := { s with ge := f s.ge }

/-- What the Grant Engine keeps for one berth besides its grants. -/
def grantBerth (s : State) (n : Ix) : GrantBerth := s.ge.berths.get n

/-- Change what the Grant Engine keeps for one berth besides its grants. -/
def modGrantBerth (n : Ix) (f : GrantBerth → GrantBerth) (s : State) : State :=
  s.modGe fun g => { g with berths := g.berths.set n (f (g.berths.get n)) }

/-- Change the field inputs. -/
def modInputs (f : Inputs → Inputs) (s : State) : State := { s with inputs := f s.inputs }

/-- The field inputs of one outlet. -/
def outlet (s : State) (n : Ix) : OutletInputs := s.inputs.outlet.get n

/-- Change the field inputs of one outlet. -/
def modOutlet (n : Ix) (f : OutletInputs → OutletInputs) (s : State) : State :=
  s.modInputs fun i => { i with outlet := i.outlet.set n (f (i.outlet.get n)) }

/-- The inputs of one module. -/
def moduleInputs (s : State) (m : Ix) : ModuleInputs := s.inputs.modules.get m

/-- Change the inputs of one module. -/
def modModuleInputs (m : Ix) (f : ModuleInputs → ModuleInputs) (s : State) : State :=
  s.modInputs fun i => { i with modules := i.modules.set m (f (i.modules.get m)) }

/-- Change the parameter table. -/
def modTable (f : List Nat → List Nat) (s : State) : State := { s with table := f s.table }

/-- Do the same for each name of a list in turn. -/
def forEach {α : Type} (l : List α) (f : α → State → State) (s : State) : State := l.foldl (fun s a => f a s) s

end State

end Machine

end Sys2Proof
end

