-- ==== Sys2Proof/Machine/Settings.lean ====
section
/-! DEFINITION. The Settings Store (chapter 11): the entries of the parameter table, their ranges, and how a value is stored. -/

namespace Sys2Proof.Machine

/-- Index of the first per-berth entry of berth n: 40 + 4n (R183). -/
def berthEntry (n : Ix) : Nat := 40 + 4 * n.toNat

/-- The range of the entry at an index (R183). Enumerated entries store a position; 19-39 are unassigned. -/
def entryRange (i : Nat) : Nat × Nat :=
  match i with
  | 0 => (1000, 60000)
  | 1 => (0, 60000)
  | 2 => (30, 600)
  | 3 => (5, 60)
  | 4 => (10, 2000)
  | 5 => (800, 990)
  | 6 => (60, 900)
  | 7 => (100, 20000)
  | 8 => (5, 100)
  | 9 => (20, 500)
  | 10 => (10, 100)
  | 11 => (20, 200)
  | 12 => (1, 20)
  | 13 => (30, 300)
  | 14 => (10, 300)
  | 15 => (2, 30)
  | 16 => (30, 600)
  | 17 => (0, 1)
  | 18 => (0, 60000)
  | _ => if i < 40 then (0, 0) else
    match i % 4 with
    | 0 => (100, 6000)
    | 1 => (0, 2)
    | _ => (0, 5)

/-- A value lies within the range of its entry. -/
def entryOk (i v : Nat) : Bool := decide ((entryRange i).1 ≤ v) && decide (v ≤ (entryRange i).2)

/-- The value clamped to the range of its entry (R163, R184). -/
def entryClamp (i v : Nat) : Nat := clamp (entryRange i).1 (entryRange i).2 v

/-- The default of an entry (R183). -/
def entryDefault (i : Nat) : Nat := State.defaultTable.getD i 0

/-- R182: at power-on a stored value outside its range is replaced by the default. -/
def checkedTable (table : List Nat) : List Nat :=
  (List.range 64).map fun i => if entryOk i (table.getD i 0) then table.getD i 0 else entryDefault i

/-- The form of a parameter table: 64 values, each within the range of its entry (R182, R183, R184). -/
abbrev TableOk (table : List Nat) : Prop := table.length = 64 ∧ ∀ i, i < 64 → entryOk i (table.getD i 0) = true

/-- The berth whose stored rating or voltage class stands at an index, if one does (R163). -/
def berthOfEntry (i : Nat) : Option Ix :=
  if i < 40 ∨ 63 < i then none else if i % 4 < 2 then Ix.ofNat? ((i - 40) / 4) else none

namespace State

/-- The value stored at an index. -/
def param (s : State) (i : Nat) : Nat := s.table.getD i 0

/-- Site feeder rating M. -/
def feeder (s : State) : Nat := s.param 0
/-- Fallback ceiling F. -/
def fallback (s : State) : Nat := s.param 1
/-- Staleness limit, s. -/
def stalenessLimit (s : State) : Nat := s.param 2
/-- Allocation period P, s. -/
def allocation (s : State) : Nat := s.param 3
/-- Ramp step S. -/
def ramp (s : State) : Nat := s.param 4
/-- Converter efficiency, per-mille. -/
def efficiency (s : State) : Nat := s.param 5
/-- Check window W, s. -/
def checkWindow (s : State) : Nat := s.param 6
/-- Pass threshold, kΩ. -/
def passThreshold (s : State) : Nat := s.param 7
/-- Dead count Td, tenths of a second. -/
def deadTime (s : State) : Nat := s.param 8
/-- Sync frequency limit, 0.001 Hz. -/
def frequencyLimit (s : State) : Nat := s.param 9
/-- Sync voltage limit, per-mille. -/
def voltageLimit (s : State) : Nat := s.param 10
/-- Sync phase limit, 0.1 degree. -/
def phaseLimit (s : State) : Nat := s.param 11
/-- Settle time, tenths of a second. -/
def settleTime (s : State) : Nat := s.param 12
/-- Sync limit, s. -/
def syncTime (s : State) : Nat := s.param 13
/-- Open-transition limit, s. -/
def openTransitionTime (s : State) : Nat := s.param 14
/-- Parallel limit, s. -/
def parallelTime (s : State) : Nat := s.param 15
/-- Return limit, s. -/
def returnTime (s : State) : Nat := s.param 16
/-- The shed mode parameter. -/
def shedParam (s : State) : ShedMode := if s.param 17 = 0 then .immediate else .atSwitch
/-- Reserve at start. -/
def startReserve (s : State) : Nat := s.param 18
/-- The stored rating of a berth, kW. -/
def storedRating (s : State) (n : Ix) : Nat := s.param (berthEntry n)
/-- The stored voltage class of a berth. -/
def storedClass (s : State) (n : Ix) : VClass :=
  match s.param (berthEntry n + 1) with | 0 => .lv440 | 1 => .mv6600 | _ => .mv11000

end State

/-- The sources a sync flag can have (R150), NONE left out. -/
inductive FlagSource where
  | onShoreEntered | returned | checkPassed | grantSwitched | tripped
  deriving DecidableEq, Repr

/-- The position of a source in the list of R183. -/
def FlagSource.index : FlagSource → Nat
  | .onShoreEntered => 0 | .returned => 1 | .checkPassed => 2 | .grantSwitched => 3 | .tripped => 4

/-- The stored source of flag 0 or 1 of a berth, as its position (5 is NONE). -/
def State.flagSource (s : State) (n : Ix) (second : Bool) : Nat := s.param (berthEntry n + if second then 3 else 2)

end Sys2Proof.Machine
end

