-- ==== Sys2Proof/Machine/Link.lean ====
section
/-! DEFINITION. Sending (section 10.3) and notices (section 10.5): the transmit queue of a port, and the post of a notice. -/

namespace Sys2Proof

/-- Port codes: 0-5 for V0-V5 and 6 for T (section 10.6). -/
def Port.code : Port → Nat
  | .v n => n.toNat
  | .t => 6

namespace Machine

/-- The frames that count toward the backlog of R175. -/
def TxFrame.isAnswer : TxFrame → Bool
  | .accept .. | .reject .. | .readReply .. => true
  | .completion .. | .notice .. => false

/-- A waiting NOTICE frame of this class and code (R176). -/
def TxFrame.sameNotice (cls : NoticeClass) (code : Option Nat) : TxFrame → Bool
  | .notice c n => decide (c = cls) && decide (n.code = code)
  | _ => false

/-- R176: a NOTICE joins the tail, unless one of its class and code waits that has not begun transmission, which then takes
the new content. The head is in transmission (log entry 9). -/
def withNotice (cls : NoticeClass) (content : Notice) (queue : List TxFrame) : List TxFrame :=
  match queue with
  | [] => [.notice cls content]
  | head :: rest =>
    if rest.any (TxFrame.sameNotice cls content.code) then
      head :: rest.map fun f => if f.sameNotice cls content.code then .notice cls content else f
    else head :: (rest ++ [.notice cls content])

/-- The slot of a class. -/
def Notices.get (n : Notices) : NoticeClass → NoticeSlot
  | .trip => n.trip | .grant => n.grant | .returnAdvice => n.returnAdvice | .check => n.check
  | .ceiling => n.ceiling | .module => n.module | .overdraw => n.overdraw | .held => n.held

/-- Replace the slot of a class. -/
def Notices.set (n : Notices) (cls : NoticeClass) (a : NoticeSlot) : Notices :=
  match cls with
  | .trip => { n with trip := a }
  | .grant => { n with grant := a }
  | .returnAdvice => { n with returnAdvice := a }
  | .check => { n with check := a }
  | .ceiling => { n with ceiling := a }
  | .module => { n with module := a }
  | .overdraw => { n with overdraw := a }
  | .held => { n with held := a }

/-- The classes in the order of R177. -/
def NoticeClass.all : List NoticeClass := [.trip, .grant, .returnAdvice, .check, .ceiling, .module, .overdraw, .held]

/-- The position of a class in R177. -/
def NoticeClass.index : NoticeClass → Nat
  | .trip => 0 | .grant => 1 | .returnAdvice => 2 | .check => 3 | .ceiling => 4 | .module => 5 | .overdraw => 6 | .held => 7

/-- Change every slot by its class. -/
def Notices.mapAll (f : NoticeClass → NoticeSlot → NoticeSlot) (n : Notices) : Notices :=
  { trip := f .trip n.trip, grant := f .grant n.grant, returnAdvice := f .returnAdvice n.returnAdvice,
    check := f .check n.check, ceiling := f .ceiling n.ceiling, module := f .module n.module,
    overdraw := f .overdraw n.overdraw, held := f .held n.held }

/-- What a post does to an open port (R179). -/
def LinkPort.posted (cls : NoticeClass) (content : Notice) (lp : LinkPort) : LinkPort :=
  { lp with
    notices := lp.notices.set cls { lp.notices.get cls with flag := true, latest := some content }
    transmit := if (lp.notices.get cls).masked then lp.transmit else withNotice cls content lp.transmit }

namespace State

/-- A frame joins the tail of a port's transmit queue; a frame for a closed port is discarded (R176). -/
def send (p : Port) (f : TxFrame) (s : State) : State :=
  s.modPort p fun lp => if lp.isOpen then { lp with transmit := lp.transmit ++ [f] } else lp

/-- A notice is posted to a port; a post for a closed port is discarded (R179). -/
def post (p : Port) (cls : NoticeClass) (content : Notice) (s : State) : State :=
  s.modPort p fun lp => if lp.isOpen then lp.posted cls content else lp

/-- A notice that carries the period number at the post (R179). -/
def notify (p : Port) (cls : NoticeClass) (berth : Option Ix) (code value : Nat) (s : State) : State :=
  s.post p cls { berth, code := some code, value, period := s.ge.period }

/-- A notice to port T and to port Vn of its berth. -/
def notifyBoth (n : Ix) (cls : NoticeClass) (code value : Nat) (s : State) : State :=
  (s.notify .t cls (some n) code value).notify (.v n) cls (some n) code value

end State

end Machine

end Sys2Proof
end

