-- ==== Sys2Proof/Machine/Orders.lean ====
section
/-! DEFINITION. The Order Engine's own operations (chapter 8): slots, chains, how an order ends, and what its end does to its
chain. -/

namespace Sys2Proof.Machine

/-! ### Slots and chains -/

/-- The order has ENDED. -/
def Slot.isEnded (sl : Slot) : Bool :=
  match sl.status with
  | .ended _ => true
  | _ => false

/-- The order is RUNNING. -/
def Slot.isRunning (sl : Slot) : Bool :=
  match sl.status with
  | .running _ => true
  | _ => false

/-- The order ends, if it has not ENDED. -/
def Slot.close (st : Status) (sl : Slot) : Slot := if sl.isEnded then sl else { sl with status := .ended st }

/-- The status record of a slot; an order not ENDED has none and shows SKIPPED. -/
def Slot.statusRecord (sl : Slot) : Status :=
  match sl.status with
  | .ended st => st
  | _ => { verdict := .skipped, code := .none, d1 := 0, d2 := 0 }

/-- Every order has ENDED (R144). -/
def Chain.allEnded (c : Chain) : Bool := c.orders.all Slot.isEnded

/-- The position of the first order of which a test holds, from 1. -/
def positionOf (test : Slot → Bool) : List Slot → Option Nat
  | [] => none
  | sl :: rest => if test sl then some 1 else (positionOf test rest).map (· + 1)

/-- The slot at a position. -/
def Chain.slot? (c : Chain) (pos : Nat) : Option Slot := if pos = 0 then none else c.orders[pos - 1]?

/-- Change the slot at a position. -/
def Chain.modSlot (pos : Nat) (f : Slot → Slot) (c : Chain) : Chain :=
  match c.slot? pos with
  | some sl => { c with orders := c.orders.set (pos - 1) (f sl) }
  | none => c

/-- The ends that stop a chain: any but DONE, and a CANCELLED order skips nothing (R143). -/
def Verdict.stops : Verdict → Bool
  | .done | .cancelled => false
  | .refused | .failed | .skipped => true

/-- The record of a skipped order (R141). -/
def skippedBy (pos : Nat) : Status := { verdict := .skipped, code := .none, d1 := pos, d2 := 0 }

/-- Stop-on-error (R143): with the marker set and another outcome than DONE the rest of the chain ends SKIPPED. -/
def Chain.stopOnError (pos : Nat) (st : Status) (sl : Slot) (c : Chain) : Chain :=
  if sl.record.stop && st.verdict.stops then { c with orders := c.orders.map (Slot.close (skippedBy pos)) } else c

/-- The order at a position ends with a status record; an order that has ENDED keeps its own. -/
def Chain.endOrder (pos : Nat) (st : Status) (c : Chain) : Chain :=
  match c.slot? pos with
  | some sl => if sl.isEnded then c else (c.modSlot pos (Slot.close st)).stopOnError pos st sl
  | none => c

/-- Change the chain of a serial. -/
def modChain (serial : Nat) (f : Chain → Chain) (queue : List Chain) : List Chain :=
  queue.map fun c => if c.serial = serial then f c else c

/-- A CANCELLED record (R141). -/
def cancelledBy (code : Code) : Status := { verdict := .cancelled, code, d1 := 0, d2 := 0 }

/-- Every order of a chain that has not ENDED ends CANCELLED. -/
def Chain.cancelRest (code : Code) (c : Chain) : Chain :=
  { c with orders := c.orders.map (Slot.close (cancelledBy code)) }

namespace State

/-- The chain of a port with a serial. -/
def chain? (s : State) (p : Port) (serial : Nat) : Option Chain := (s.orders p).queue.find? fun c => c.serial = serial

/-- The slot of an order held. -/
def slot? (s : State) (r : OrderRef) : Option Slot := (s.chain? r.port r.serial).bind fun c => c.slot? r.pos

/-- The slots in use: the orders of the chains held (R137). -/
def portSlots (s : State) (p : Port) : Nat := ((s.orders p).queue.map fun c => c.orders.length).sum

/-- The slots in use in the whole Order Store. -/
def slotsInUse (s : State) : Nat := (Port.all.map s.portSlots).sum

/-- The free slots of the Order Store. -/
def freeSlots (s : State) : Nat := Config.slots - s.slotsInUse

/-- An order ends (R140, R143). A timer of the Order Engine that ran for it stops. -/
def endOrder (r : OrderRef) (st : Status) (s : State) : State :=
  s.modOrders r.port fun po => { po with queue := modChain r.serial (Chain.endOrder r.pos st) po.queue, timer := none }

/-- The running order of a port: the order of the head chain that is RUNNING (R137). -/
def running? (s : State) (p : Port) : Option (OrderRef × Slot) :=
  match (s.orders p).queue with
  | [] => none
  | c :: _ =>
    match positionOf Slot.isRunning c.orders with
    | some pos => (c.slot? pos).map fun sl => ({ port := p, serial := c.serial, pos }, sl)
    | none => none

/-- Seconds since an order's take, clamped at 65,535 (R158, R159, R169). -/
def elapsed (s : State) (r : OrderRef) : Nat :=
  match s.slot? r with
  | some { status := .running takenAt, .. } => min 65535 (s.now - takenAt)
  | _ => 0

/-- The consenting order of a berth ends with a verdict, a code and its second detail; its first detail is the seconds from
the take (R158, R159). The berth keeps no consenting order. -/
def endConsenting (n : Ix) (verdict : Verdict) (code : Code) (d2 : Nat) (s : State) : State :=
  match (s.berth n).consenting with
  | none => s
  | some r => (s.endOrder r { verdict, code, d1 := s.elapsed r, d2 }).modBerth n fun b => { b with consenting := none }

/-- The consenting order of a berth ends FAILED. -/
def failConsenting (n : Ix) (code : Code) (s : State) : State := s.endConsenting n .failed code 0

end State

end Sys2Proof.Machine
end

