-- ==== Sys2Proof/Machine/Flags.lean ====
section
/-! DEFINITION. The sync flags (sections 8.9 and 8.10): what an event does to a flag, its waiters, and its source. -/

namespace Sys2Proof.Machine

/-- Flag 0 or flag 1 of a pair. -/
def FlagPair.get (f : FlagPair) (second : Bool) : SyncFlag := if second then f.f1 else f.f0

/-- Replace flag 0 or flag 1 of a pair. -/
def FlagPair.set (f : FlagPair) (second : Bool) (a : SyncFlag) : FlagPair :=
  if second then { f with f1 := a } else { f with f0 := a }

/-- Change both flags of a pair. -/
def FlagPair.both (g : SyncFlag → SyncFlag) (f : FlagPair) : FlagPair := { f0 := g f.f0, f1 := g f.f1 }

/-- The waiter of a port leaves; the waiters behind it keep their order (R152). -/
def SyncFlag.dropWaiter (p : Port) (f : SyncFlag) : SyncFlag :=
  { f with waiters := f.waiters.filter fun w => decide (w.port ≠ p) }

/-- A CLEAR flag with no waiter. -/
def SyncFlag.clear : SyncFlag := { isSet := false, waiters := [] }

/-- What an event finds at a flag (R151): it sets it, hands it over to a port, or finds it SET. -/
inductive FlagEffect where
  | becameSet
  | handedOver (p : Port)
  | alreadySet
  deriving DecidableEq, Repr

/-- What an event finds at a flag (R151). -/
def SyncFlag.effect (f : SyncFlag) : FlagEffect :=
  if f.isSet then .alreadySet else
    match f.waiters with
    | [] => .becameSet
    | w :: _ => .handedOver w.port

/-- The flag after an event (R151). -/
def SyncFlag.after (f : SyncFlag) : SyncFlag :=
  if f.isSet then f else
    match f.waiters with
    | [] => { f with isSet := true }
    | _ :: rest => { f with waiters := rest }

namespace State

/-- A sync flag of a berth. -/
def flag (s : State) (n : Ix) (second : Bool) : SyncFlag := (s.oe.flags.get n).get second

/-- Replace a sync flag of a berth. -/
def setFlag (n : Ix) (second : Bool) (f : SyncFlag) (s : State) : State :=
  s.modOe fun oe => { oe with flags := oe.flags.set n ((oe.flags.get n).set second f) }

/-- The running order of a port ends with the seconds it has run as its first detail (R169). -/
def endRunning (p : Port) (verdict : Verdict) (code : Code) (s : State) : State :=
  match s.running? p with
  | none => s
  | some (r, _) => s.endOrder r { verdict, code, d1 := s.elapsed r, d2 := 0 }

/-- An event acts on a flag (R151): a CLEAR flag with waiters is handed to the earliest, whose WAIT_FLAG ends DONE; a CLEAR
flag without becomes SET; a SET flag stays SET. -/
def flagEvent (n : Ix) (second : Bool) (s : State) : State :=
  let f := s.flag n second
  let s := s.setFlag n second f.after
  match f.effect with
  | .handedOver p => s.endRunning p .done .none
  | .becameSet | .alreadySet => s

/-- A source event reaches each flag of its berth whose source is that event (R150). -/
def postSource (n : Ix) (src : FlagSource) (s : State) : State :=
  let s := if s.flagSource n false = src.index then s.flagEvent n false else s
  if s.flagSource n true = src.index then s.flagEvent n true else s

/-- A port leaves every waiter list. -/
def dropWaiter (p : Port) (s : State) : State :=
  s.modOe fun oe => { oe with flags := oe.flags.map (FlagPair.both (SyncFlag.dropWaiter p)) }

/-- BERTH_RESET clears the two flags of a berth; each waiter ends FAILED with reason RESET (R153). -/
def resetFlags (n : Ix) (s : State) : State :=
  let waiters := (s.flag n false).waiters ++ (s.flag n true).waiters
  let s := s.modOe fun oe => { oe with flags := oe.flags.set n ⟨.clear, .clear⟩ }
  s.forEach waiters fun w s => s.endRunning w.port .failed .reset

end State

end Sys2Proof.Machine
end

