-- ==== Sys2Proof/Machine/Grid.lean ====
section
/-! DEFINITION. The Grid Interface (chapter 5): the ceiling in force, ceiling words, staleness and the shed line. What a shed
does to the grant sets stands in Machine/Grants.lean. -/

namespace Sys2Proof.Machine

/-- The codes of the CEILING class (R181). -/
inductive CeilingCode where
  | fallbackOn | fallbackOff | shedOn | shedOff | overCeilingOn | overCeilingOff | overCapacityOn | overCapacityOff
  deriving DecidableEq, Repr

/-- The number of a CEILING code (R181). -/
def CeilingCode.number : CeilingCode → Nat
  | .fallbackOn => 1 | .fallbackOff => 2 | .shedOn => 3 | .shedOff => 4 | .overCeilingOn => 5 | .overCeilingOff => 6
  | .overCapacityOn => 7 | .overCapacityOff => 8

/-- The mode a SHED_ON notice carries: 0 for IMMEDIATE, 1 for AT_SWITCH (R181). -/
def ShedMode.number : ShedMode → Nat
  | .immediate => 0 | .atSwitch => 1

/-- A grid word is good when its check byte is the complement of the sum of the other two (R91). -/
def goodWord (hi lo check : Byte) : Bool := check == ~~~(hi + lo)

/-- The ceiling a word carries, in kW (R91). -/
def wordCeiling (hi lo : Byte) : Nat := 10 * (256 * hi.toNat + lo.toNat)

namespace State

/-- A CEILING notice goes to port T alone (R92, R181). -/
def notifyCeiling (code : CeilingCode) (value : Nat) (s : State) : State := s.notify .t .ceiling none code.number value

/-- The ceiling in force as R93 forms it. -/
def formedCeiling (s : State) : Nat :=
  match s.gi.state with
  | .current => min (s.gi.received.getD 0) s.feeder
  | .noneReceived | .stale => min s.fallback s.feeder

/-- L is formed anew (R93). -/
def reformCeiling (s : State) : State := s.modGi fun g => { g with ceiling := s.formedCeiling }

/-- The import available to ships, max(0, L - Rt). -/
def importAvailable (s : State) : Nat := s.gi.ceiling - s.ge.reserve

/-- A complete word is checked; a good one is accepted (R91, R92). -/
def takeWord (hi lo check : Byte) (s : State) : State :=
  if goodWord hi lo check then
    let received := min (wordCeiling hi lo) s.feeder
    let t := (s.modGi fun g =>
      { g with received := some received, staleness := some s.stalenessLimit, state := .current }).reformCeiling
    if s.gi.state = .stale then t.notifyCeiling .fallbackOff received else t
  else s

/-- The staleness timer expires: the state becomes STALE and L is formed from F (R92). -/
def becomeStale (s : State) : State :=
  let t := (s.modGi fun g => { g with state := .stale, staleness := none }).reformCeiling
  t.notifyCeiling .fallbackOn t.gi.ceiling

/-- The word in assembly is discarded (R90). -/
def dropWord (s : State) : State := s.modGi fun g => { g with assembly := .hunt }

/-- A byte arrives on port G without a receive error (R90). -/
def gridByte (b : Byte) (s : State) : State :=
  match s.gi.assembly with
  | .hunt => if b = Config.gridMarker then s.modGi fun g => { g with assembly := .collect [] } else s
  | .collect [] => s.modGi fun g => { g with assembly := .collect [b] }
  | .collect [hi] => s.modGi fun g => { g with assembly := .collect [hi, b] }
  | .collect (hi :: lo :: _) => s.dropWord.takeWord hi lo b

end State

end Sys2Proof.Machine
end

