-- ==== Sys2Proof/Machine/Grants.lean ====
section
/-! DEFINITION. The Grant Engine's sets (chapters 6 and 7): firm figures, the trim, the computation, and admission. -/

namespace Sys2Proof.Machine

/-! ### Who holds a grant -/

/-- The live states (chapter 7; R83). -/
def BerthState.isLive : BerthState → Bool
  | .parallel | .onShore | .returnWait | .returnParallel | .adopted => true
  | _ => false

/-- The states of a berth waiting to close (R11). -/
def BerthState.isWaiting : BerthState → Bool
  | .admitting | .syncing | .deadWait => true
  | _ => false

/-- The bus a declared frequency matches (R5). -/
def Freq.bus : Freq → Bus
  | .f50 => .a | .f60 => .b

/-- f = min(H, O) of the declaration (R109). -/
def Berth.declaredFirm (b : Berth) : Nat := match b.declaration with | some d => min d.h b.rating | none => 0

/-- The bus that matches the declared frequency. -/
def Berth.declaredBus (b : Berth) : Bus := match b.declaration with | some d => d.freq.bus | none => .none

/-- An adoption marker is set (R28). -/
def Berth.markerSet (b : Berth) : Bool := b.declarationAwaited || b.authorizationAwaited

/-- The berth's firm is formed from its meter (R109, R129). -/
def Berth.firmFromMeter (b : Berth) : Bool :=
  match b.state with
  | .adopted => true
  | .returnWait | .returnParallel => b.markerSet
  | _ => false

/-- The berth's firm is formed from its declaration (R109). -/
def Berth.firmFromDeclaration (b : Berth) (admitted : Bool) : Bool :=
  match b.state with
  | .admitting | .syncing | .deadWait | .closing => admitted
  | .parallel | .onShore => true
  | .returnWait | .returnParallel => !b.markerSet
  | _ => false

/-- A record with its bus at NONE when it grants nothing (R100). -/
def mkGrant (firm flexible share : Nat) (bus : Bus) : GrantRec :=
  { firm, flexible, share, bus := if firm = 0 ∧ flexible = 0 then .none else bus }

/-- The total of a record (R100). -/
def GrantRec.total (r : GrantRec) : Nat := r.firm + r.flexible

/-- The import of a power on a bus (R108). -/
def importOn (bus : Bus) (eta x : Nat) : Nat := if bus = .b then importB eta x else x

/-! ### The trim (R117) -/

namespace GrantSet

/-- A sum over the records of a bus. -/
def sumOn (g : GrantSet) (bus : Bus) (f : GrantRec → Nat) : Nat :=
  sumSix fun n => if (g.recs.get n).bus = bus then f (g.recs.get n) else 0

/-- The sum of the import shares. -/
def shares (g : GrantSet) : Nat := sumSix fun n => (g.recs.get n).share

/-- The import of the firm grants. -/
def firmImport (g : GrantSet) : Nat := g.sumOn .a GrantRec.firm + importB g.eta (g.sumOn .b GrantRec.firm)

/-- One bus-B record in the bus B step: `room` is handed out in proportion to flexible grants of `total`. -/
def cutOnB (eta room total : Nat) (r : GrantRec) : GrantRec :=
  if r.bus = .b then
    { r with flexible := r.flexible * room / total, share := importB eta (r.flexible * room / total) }
  else r

/-- The bus B step. -/
def trimB (kb : Nat) (g : GrantSet) : GrantSet :=
  let fb := g.sumOn .b GrantRec.firm
  let gb := g.sumOn .b GrantRec.flexible
  if 0 < gb ∧ kb < fb + gb then { g with recs := g.recs.map (cutOnB g.eta (kb - fb) gb) } else g

/-- One record in the import step. -/
def cutImport (eta room total : Nat) (r : GrantRec) : GrantRec :=
  { r with
    share := r.share * room / total
    flexible :=
      match r.bus with
      | .b => min r.flexible (r.share * room / total * eta / 1000)
      | .a | .none => r.share * room / total }

/-- The import step. -/
def trimImport (g : GrantSet) : GrantSet :=
  if 0 < g.shares ∧ g.a < g.firmImport + g.shares then
    { g with recs := g.recs.map (cutImport g.eta (g.a - g.firmImport) g.shares) }
  else g

/-- A trim of one set against a bus B capacity. -/
def trim (kb : Nat) (g : GrantSet) : GrantSet := (g.trimB kb).trimImport

/-- A trim with room 0: every flexible grant and every share becomes 0, and the buses stay (R117). -/
def noFlexible (g : GrantSet) : GrantSet :=
  { g with recs := g.recs.map fun r => { r with flexible := 0, share := 0 } }

/-- Every flexible grant and every share becomes 0 outside a trim, so that a record left without a grant has no bus (R96, R100,
R118). -/
def firmOnly (g : GrantSet) : GrantSet := { g with recs := g.recs.map fun r => mkGrant r.firm 0 0 r.bus }

/-- Replace the record of one berth. -/
def put (n : Ix) (r : GrantRec) (g : GrantSet) : GrantSet := { g with recs := g.recs.set n r }

/-- The berth's flexible grant has been reduced on the way from `old`. -/
def reducedFrom (old new : GrantSet) (n : Ix) : Bool :=
  decide ((new.recs.get n).flexible < (old.recs.get n).flexible)

end GrantSet

/-! ### The computation (R111 to R115) -/

/-- One eligible berth in a computation. -/
structure Claim where
  berth : Ix
  onB : Bool
  d : Nat
  cap : Nat
  need : Nat
  share : Nat
  g : Nat
  deriving DecidableEq, Repr

/-- The bus of a claim. -/
def Claim.bus (c : Claim) : Bus := if c.onB then .b else .a

/-- Departure order: smaller D first, and an equal D behind those already there (R112). -/
def insertDeparture (c : Claim) : List Claim → List Claim
  | [] => [c]
  | x :: rest => if c.d < x.d then c :: x :: rest else x :: insertDeparture c rest

/-- The leftover, one kW each to those whose amount before scaling was above 0 (R113, R114). -/
def handOut : Nat → List (Nat × Nat) → List Nat
  | _, [] => []
  | left, (before, x) :: rest =>
    if 0 < left ∧ 0 < before then (x + 1) :: handOut (left - 1) rest else x :: handOut left rest

/-- Amounts cut in proportion to fit a room, the kilowatts lost to rounding handed out in order (R113, R114). -/
def scaleTo (room : Nat) (amounts : List Nat) : List Nat :=
  if amounts.sum ≤ room then amounts
  else
    let scaled := amounts.map fun x => x * room / amounts.sum
    handOut (room - scaled.sum) (amounts.zip scaled)

/-- Tier one on bus B: the needs of bus-B berths fit RB (R113). -/
def tierOneB (rb : Nat) (l : List Claim) : List Claim :=
  List.zipWith (fun c x => if c.onB then { c with need := x } else c) l
    (scaleTo rb (l.map fun c => if c.onB then c.need else 0))

/-- Tier one on import: each berth's share, and its grant g (R114). -/
def tierOne (eta r : Nat) (l : List Claim) : List Claim :=
  List.zipWith (fun c x => { c with share := x, g := if c.onB then x * eta / 1000 else x }) l
    (scaleTo r (l.map fun c => importOn c.bus eta c.need))

/-- The fill y of one berth from R2 and RB2 (R115). -/
def Claim.fill (eta r2 rb2 : Nat) (c : Claim) : Nat :=
  if c.onB then min c.cap (min (c.g + rb2) ((c.share + r2) * eta / 1000)) else min c.cap (c.g + r2)

/-- Tier two in departure order: the flexible grant and the import share of each berth (R115). -/
def tierTwo (eta : Nat) : Nat → Nat → List Claim → List (Ix × Nat × Nat)
  | _, _, [] => []
  | r2, rb2, c :: rest =>
    let y := c.fill eta r2 rb2
    let share := importOn c.bus eta y
    (c.berth, y, share) :: tierTwo eta (r2 + c.share - share) (if c.onB then rb2 - (y - c.g) else rb2) rest

/-- The flexible grants of a computation with rooms R and RB. -/
def flexibleGrants (eta r rb : Nat) (l : List Claim) : List (Ix × Nat × Nat) :=
  let one := tierOne eta r (tierOneB rb l)
  tierTwo eta (r - (one.map Claim.share).sum) (rb - ((one.filter Claim.onB).map Claim.g).sum) one

namespace State

/-! ### Capacity, firm figures and rooms -/

/-- The modules ONLINE. -/
def online (s : State) : Nat := countSix fun m => decide ((s.converter m).state = .online)

/-- The modules STARTING. -/
def starting (s : State) : Nat := countSix fun m => decide ((s.converter m).state = .starting)

/-- The available count: neither FAULTED nor OUT_OF_SERVICE (R73, R75). -/
def available (s : State) : Nat :=
  countSix fun m => decide ((s.converter m).state ≠ .faulted) && decide ((s.converter m).state ≠ .outOfService)

/-- KB (R75). -/
def busBCapacity (s : State) : Nat := Config.moduleKw * s.online

/-- The berth is live. -/
def isLive (n : Ix) (s : State) : Bool := (s.berth n).state.isLive

/-- The berth is admitted (R121). -/
def isAdmitted (n : Ix) (s : State) : Bool := (s.grantBerth n).admitted

/-- The firm figure of an ADOPTED berth (R129). -/
def adoptedFirm (s : State) (n : Ix) : Nat :=
  match (s.grantBerth n).sinceAdoption, (s.grantBerth n).reading with
  | true, some (reading, _) => min reading (s.berth n).rating
  | _, _ => (s.berth n).rating

/-- The firm figure f of a berth, formed now, and the bus of its record (R109). -/
def firmFigure (s : State) (n : Ix) : Nat × Bus :=
  let b := s.berth n
  if b.firmFromMeter then (s.adoptedFirm n, b.bus)
  else if b.firmFromDeclaration (s.isAdmitted n) then (b.declaredFirm, b.declaredBus)
  else (0, .none)

/-- The sum of the firm figures formed now on a bus, of the berths other than `skip`: at a computation (R109), and at an admission
test, which leaves the figures held as they are (R123, R129; DESIGN CHOICE, log entry 50). -/
def firmOnBut (s : State) (bus : Bus) (skip : Option Ix) : Nat :=
  sumSix fun n => if some n ≠ skip ∧ (s.firmFigure n).2 = bus then (s.firmFigure n).1 else 0

/-- The sum of the firm figures that the Grant Engine holds on a bus, of the berths other than `skip`: a new O, H or reading has
reached them at the computation after it, not before (R125, R129, R160; log entry 50). -/
def heldOnBut (s : State) (bus : Bus) (skip : Option Ix) : Nat :=
  sumSix fun n => if some n ≠ skip ∧ (s.firmFigure n).2 = bus then (s.grantBerth n).firm else 0

/-- FirmB as the Grant Engine holds it, for the tests of R79 and R85 (log entry 50). -/
def heldFirmB (s : State) : Nat := s.heldOnBut .b none

/-- FirmA (R109). -/
def firmA (s : State) : Nat := s.firmOnBut .a none
/-- FirmB (R109). -/
def firmB (s : State) : Nat := s.firmOnBut .b none
/-- FirmImport (R109). -/
def firmImport (s : State) : Nat := s.firmA + importB s.efficiency s.firmB

/-! ### Notices about grants -/

/-- A GRANT notice to Vn: GRANT_STAGED 1, GRANT_TRIMMED 2, GRANT_RESTAGED 3, CHARGE_SHORT 4 (R181). -/
def notifyGrant (n : Ix) (code value period : Nat) (s : State) : State :=
  s.post (.v n) .grant { berth := some n, code := some code, value, period }

/-- CHARGE_SHORT to Vn and to T, once, as soon as D is 0 with E above 0 (R133). -/
def warnShort (n : Ix) (s : State) : State :=
  let c := (s.grantBerth n).charge
  if c.d = 0 ∧ 0 < c.e ∧ ¬c.warned then
    ((s.modGrantBerth n fun g => { g with charge := { g.charge with warned := true } }).notify (.v n) .grant (some n) 4
      c.e).notify .t .grant (some n) 4 c.e
  else s

/-! ### Trims of the two sets (R118, R119) -/

/-- The active set is replaced by a trimmed one; GRANT_TRIMMED to each Vn whose flexible grant fell. -/
def cutActive (f : GrantSet → GrantSet) (s : State) : State :=
  let t := s.modGe fun g => { g with active := f g.active }
  t.forEach Ix.all fun n u =>
    if s.ge.active.reducedFrom t.ge.active n then u.notifyGrant n 2 (t.ge.active.recs.get n).total u.ge.period else u

/-- The staged set is replaced by a trimmed one; GRANT_RESTAGED while it is pending. -/
def cutStaged (f : GrantSet → GrantSet) (s : State) : State :=
  let t := s.modGe fun g => { g with staged := f g.staged }
  t.forEach Ix.all fun n u =>
    if s.ge.staged.reducedFrom t.ge.staged n ∧ t.ge.staged.pending then
      u.notifyGrant n 3 (t.ge.staged.recs.get n).total t.ge.staged.effective
    else u

/-- The active set is trimmed against the present KB. -/
def trimActive (s : State) : State := s.cutActive (GrantSet.trim s.busBCapacity)

/-- The active and then the staged set are trimmed. -/
def trimBoth (s : State) : State := s.trimActive.cutStaged (GrantSet.trim s.busBCapacity)

/-- A shed in mode IMMEDIATE: both sets with room 0 (R95). -/
def cutAll (s : State) : State := (s.cutActive GrantSet.noFlexible).cutStaged GrantSet.noFlexible

/-- A shed in mode AT_SWITCH: a pending staged set loses its flexible grants (R96). -/
def zeroStaged (s : State) : State :=
  if s.ge.staged.pending then s.modGe fun g => { g with staged := g.staged.firmOnly } else s

/-- What a shed assertion does to the grant sets (R95, R96). -/
def shedGrants (mode : ShedMode) (s : State) : State :=
  match mode with
  | .immediate => s.cutAll
  | .atSwitch => s.zeroStaged

/-! ### What a berth's events do to its records (R101) -/

/-- The same record in both sets, and its firm grant as the firm figure held. -/
def putBoth (n : Ix) (r : GrantRec) (s : State) : State :=
  s.modGe fun g =>
    { g with active := g.active.put n r, staged := g.staged.put n r
             berths := g.berths.set n { g.berths.get n with firm := r.firm } }

/-- Both grants of a berth become 0 in both sets. -/
def zeroGrants (n : Ix) (s : State) : State := s.putBoth n State.noGrant

/-- The berth's flexible grant becomes 0 in both sets, its firm grant is kept (R101). -/
def dropFlexible (n : Ix) (s : State) : State :=
  let cut := fun (g : GrantSet) => g.put n (mkGrant (g.recs.get n).firm 0 0 (g.recs.get n).bus)
  s.modGe fun g => { g with active := cut g.active, staged := cut g.staged }

/-- The berth's queue entry leaves (R122). -/
def leaveQueue (n : Ix) (s : State) : State :=
  s.modGe fun g => { g with queue := g.queue.filter fun e => decide (e.berth ≠ n) }

/-- The admission of a berth ends, or its entry leaves: marker clear and both records zero (R125, R101). -/
def endAdmission (n : Ix) (s : State) : State :=
  ((s.leaveQueue n).modGrantBerth n fun g => { g with admitted := false }).zeroGrants n

/-- Both overdraw counts become 0 (R134). -/
def clearOverdraw (n : Ix) (s : State) : State := s.modGrantBerth n fun g => { g with overGrant := 0, overRating := 0 }

/-- The charge record becomes empty and the overdraw counts 0 (R131, R134). -/
def clearCharge (n : Ix) (s : State) : State := (s.modGrantBerth n fun g => { g with charge := emptyCharge }).clearOverdraw n

/-- A berth enters a live state from one that is not live (R127). -/
def setConnected (n : Ix) (s : State) : State := s.modGrantBerth n fun g => { g with connected := s.now }

/-- Entry to ADOPTED: firm O and no flexible grant in both sets, no reading since and the first one awaited, no admission, and
the trim of both sets (R101, R102, R118, R125, R129). -/
def adoptGrants (n : Ix) (s : State) : State :=
  (((s.endAdmission n).modGrantBerth n fun g => { g with sinceAdoption := false, adoptionUnread := true }).putBoth n
    (mkGrant (s.berth n).rating 0 0 (s.berth n).bus)).trimBoth

/-! ### Admission (R121 to R125) -/

/-- Whether entry `e` stands ahead of entry `x` (R121). -/
def ahead (e x : QueueEntry) : Bool :=
  decide (e.prio < x.prio) ||
    (decide (e.prio = x.prio) &&
      (decide (e.time < x.time) || (decide (e.time = x.time) && decide (e.berth.toNat < x.berth.toNat))))

/-- The place of an entry by R121. -/
def insertEntry (e : QueueEntry) : List QueueEntry → List QueueEntry
  | [] => [e]
  | x :: rest => if ahead e x then e :: x :: rest else x :: insertEntry e rest

/-- The ceiling of the admission test (R123). -/
def admissionCeiling (s : State) : Nat := min s.ge.active.a s.importAvailable

/-- The admission test for a berth as candidate (R123), with the other firm figures formed anew (log entry 50). -/
def admissionTest (s : State) (n : Ix) : Bool :=
  let f := (s.berth n).declaredFirm
  let onB := (s.berth n).declaredBus == .b
  let firmA := s.firmOnBut .a (some n) + if onB then 0 else f
  let firmB := s.firmOnBut .b (some n) + if onB then f else 0
  decide (firmA + importB s.efficiency firmB ≤ s.admissionCeiling) && !s.ge.overCeiling &&
    (!onB || (decide (firmB ≤ Config.moduleKw * s.available) && !s.ge.overCapacity))

/-- The admission of a berth (R125); it stops the admission limit (R10). -/
def admission (n : Ix) (s : State) : State :=
  ((((s.leaveQueue n).modGrantBerth n fun g => { g with admitted := true }).modBerth n fun b =>
    { b with admissionLimit := none }).putBoth n (mkGrant (s.berth n).declaredFirm 0 0 (s.berth n).declaredBus)).trimBoth

/-- The queue is served from its head until it is empty or a head fails (R124); `k` bounds the entries. -/
def serveUpTo : Nat → State → State
  | 0, s => s
  | k + 1, s =>
    match s.ge.queue with
    | [] => s
    | e :: _ => if s.admissionTest e.berth then serveUpTo k (s.admission e.berth) else s

/-- The queue is served (R124). -/
def serveQueue (s : State) : State := serveUpTo s.ge.queue.length s

/-- A berth joins the queue and the queue is served (R122). -/
def joinQueue (n : Ix) (s : State) : State :=
  let prio := match (s.berth n).authorization with | some a => a.prio | none => 3
  serveQueue <| s.modGe fun g => { g with queue := insertEntry { berth := n, prio, time := s.now } g.queue }

/-- An AUTHORIZE gives a queue entry its new class and place, with its entry time (R122). -/
def requeue (n : Ix) (prio : Nat) (s : State) : State :=
  match s.ge.queue.find? fun e => decide (e.berth = n) with
  | none => s
  | some e => (s.leaveQueue n).modGe fun g => { g with queue := insertEntry { e with prio } g.queue }

/-! ### The period's switch and computation (R103 to R106, R126, R127) -/

/-- The berth is eligible for a flexible grant (R111). -/
def eligible (s : State) (n : Ix) : Bool :=
  decide ((s.berth n).state = .onShore) && decide (0 < (s.grantBerth n).charge.e) &&
    (match (s.berth n).authorization with | some a => !a.withdrawn | none => false) && s.gi.shed.isNone && !s.oe.held

/-- The urgency of a berth (R112). -/
def urgency (s : State) (n : Ix) : Nat := ceilDiv ((s.grantBerth n).charge.e * 60) (max (s.grantBerth n).charge.d 1)

/-- The charge cap of a berth (R112). -/
def chargeCap (s : State) (n : Ix) : Nat :=
  let c := match (s.berth n).declaration with | some d => d.c | none => 0
  min c (min ((s.berth n).rating - (s.firmFigure n).1) ((s.ge.active.recs.get n).flexible + s.ramp))

/-- The claim of an eligible berth (R112). -/
def claimOf (s : State) (n : Ix) : Option Claim :=
  if s.eligible n then
    some { berth := n, onB := (s.firmFigure n).2 == .b, d := (s.grantBerth n).charge.d, cap := s.chargeCap n,
           need := min (s.urgency n) (s.chargeCap n), share := 0, g := 0 }
  else none

/-- The eligible berths in departure order. -/
def claims (s : State) : List Claim := (Ix.all.filterMap s.claimOf).foldl (fun l c => insertDeparture c l) []

/-- R: the room left on import (R110). -/
def importRoom (s : State) : Nat := s.ge.active.a - s.firmImport
/-- RB: the room left on bus B (R110). -/
def busBRoom (s : State) : Nat := s.busBCapacity - s.firmB

/-- The flexible grants of this computation. -/
def computed (s : State) : List (Ix × Nat × Nat) := flexibleGrants s.efficiency s.importRoom s.busBRoom s.claims

/-- The record of one berth in the new staged set (R105). -/
def stagedRec (s : State) (grants : List (Ix × Nat × Nat)) (n : Ix) : GrantRec :=
  let (flexible, share) := match grants.find? fun x => decide (x.1 = n) with | some x => x.2 | none => (0, 0)
  mkGrant (s.firmFigure n).1 flexible share (s.firmFigure n).2

/-- The new staged set (R105). -/
def stagedSet (s : State) : GrantSet :=
  { recs := .ofFn (s.stagedRec s.computed), effective := nextPeriod s.ge.period, a := s.ge.active.a, eta := s.efficiency,
    pending := true }

/-- The switch (R104): A in force, the pending set, GRANT_SWITCHED, and the switch trim. -/
def switchSets (s : State) : State :=
  let t := s.modGe fun g =>
    if g.staged.pending then
      { g with active := { g.staged with a := s.importAvailable, pending := false }, staged := { g.staged with pending := false } }
    else { g with active := { g.active with a := s.importAvailable } }
  let t := if s.ge.staged.pending then
      t.forEach Ix.all fun n u =>
        if 0 < (t.ge.active.recs.get n).total ∨ 0 < (s.ge.active.recs.get n).total then u.postSource n .grantSwitched else u
    else t
  t.trimActive

/-- One over flag is judged, with its CEILING notice at a change (R110, R126). -/
def judgeFlag (old : Bool) (need room : Nat) (on off : CeilingCode) (s : State) : State :=
  if old = false ∧ room < need then s.notifyCeiling on (need - room)
  else if old = true ∧ need ≤ room then s.notifyCeiling off (room - need)
  else s

/-- Both flags are judged (R110, R126). Where both change at one computation the OVER_CEILING notice is posted first: no rule
orders the two (DESIGN CHOICE, log entry 39). -/
def judgeFlags (s : State) : State :=
  let needA := s.firmImport
  let needB := s.firmB
  let kb := s.busBCapacity
  let a := s.ge.active.a
  let t := s.modGe fun g => { g with overCeiling := decide (a < needA), overCapacity := decide (kb < needB) }
  (t.judgeFlag s.ge.overCeiling needA a .overCeilingOn .overCeilingOff).judgeFlag s.ge.overCapacity needB kb
    .overCapacityOn .overCapacityOff

/-- The rank of a berth for return advice: its class, or below class 3 (R127). -/
def adviceRank (s : State) (n : Ix) : Nat :=
  match (s.berth n).authorization with
  | some a => if a.withdrawn then 4 else a.prio
  | none => 4

/-- The candidate `m` comes after `n` in the choice of R127 (`m` the higher berth number). -/
def advisedOver (s : State) (m n : Ix) : Bool :=
  decide (s.adviceRank n < s.adviceRank m) ||
    (decide (s.adviceRank n = s.adviceRank m) && decide ((s.grantBerth n).connected ≤ (s.grantBerth m).connected))

/-- The candidate of R127 among the berths of which a test holds. -/
def advised (s : State) (test : Ix → Bool) : Option Ix :=
  (Ix.all.filter test).foldl (fun best m =>
    match best with
    | none => some m
    | some n => if s.advisedOver m n then some m else some n) none

/-- One RETURN_ADVICE, to Vn and T: OVER_CEILING 3, OVER_CAPACITY 4 (R127, R181). -/
def advise (test : Ix → Bool) (code deficit : Nat) (s : State) : State :=
  match s.advised test with
  | some n => (s.notify (.v n) .returnAdvice (some n) code deficit).notify .t .returnAdvice (some n) code deficit
  | none => s

/-- The return advice of a pass (R127). -/
def adviseReturns (s : State) : State :=
  let candidate := fun n => decide ((s.berth n).state = .onShore) || decide ((s.berth n).state = .adopted)
  let t := if s.ge.overCeiling then s.advise candidate 3 (s.firmImport - s.ge.active.a) else s
  if s.ge.overCapacity then
    t.advise (fun n => candidate n && decide ((s.berth n).bus = .b)) 4 (s.firmB - s.busBCapacity)
  else t

/-- GRANT_STAGED to each berth with a total in the new staged set or in the active set (R106). -/
def announceStaged (s : State) : State :=
  s.forEach Ix.all fun n u =>
    if 0 < (s.ge.staged.recs.get n).total ∨ 0 < (s.ge.active.recs.get n).total then
      u.notifyGrant n 1 (s.ge.staged.recs.get n).total s.ge.staged.effective
    else u

/-- The records of the berths with the firm figures of this computation (R109). -/
def formedFigures (s : State) : Six GrantBerth := .ofFn fun n => { s.grantBerth n with firm := (s.firmFigure n).1 }

/-- The compute step (R105, R106, R110, R126, R127). -/
def compute (s : State) : State :=
  (s.modGe fun g => { g with staged := s.stagedSet, berths := s.formedFigures }).judgeFlags.adviseReturns.announceStaged

/-- DB: the bus B demand (R107). -/
def busBDemand (s : State) (claims : List Claim) : Nat := s.firmB + ((claims.filter Claim.onB).map Claim.cap).sum

end State

end Sys2Proof.Machine
end

