-- ==== Sys2Proof/Machine/Reference.lean ====
section
/-! DEFINITION. The Phase Reference Unit (chapter 2): the follow claim, the bus B reference mode, bus B in use, and the sync
windows. -/

namespace Sys2Proof.Machine

/-- An angle in 0.01 degree brought into the half turn on either side of 0. R47 lets a difference of exactly half a turn be -180.0
or +180.0: a tick makes it -180.00, so that FOLLOW takes the reference to lead and steers below the ship's frequency (R39; DESIGN
CHOICE, log entry 45). -/
def wrapAngle (a : Int) : Int := (a + 18000) % 36000 - 18000

/-- How far a frequency in 0.001 Hz turns in one second, in 0.01 degree. -/
def turn (frequency : Nat) : Nat := Config.turnPerHz * frequency

/-- The state a ship-side voltage gives (R35). -/
def sideOf (voltage : Nat) : ShipSide :=
  if voltage < Config.deadBelow then .dead else if voltage < Config.liveFrom then .between else .live

namespace State

/-! ### Windows -/

/-- Change the window state of a berth; a window that is not SETTLING has no settle timer (R48). -/
def setWindow (n : Ix) (w : Window) (settle : Option Nat) (s : State) : State :=
  s.modShip n fun p => { p with window := w, settle }

/-- The window of a berth is met at this instant (R47). The reference voltage is the berth's own busVoltage, the bus measured
at the outlet and reported by WINDOW_MET_CHANGE, for bus A as for bus B; the busAVoltage that BUS_A_VOLTAGE_CROSSING reports
serves R36 alone, and nothing keeps the two equal (DESIGN CHOICE, log entry 33). -/
def windowMet (s : State) (n : Ix) : Bool :=
  let o := s.outlet n
  let within := fun (reference : Nat) =>
    decide (absDiff o.shipFrequency reference ≤ s.frequencyLimit) &&
      decide (absDiff o.shipVoltage o.busVoltage ≤ s.voltageLimit) && decide ((s.ship n).difference.natAbs ≤ 10 * s.phaseLimit)
  decide ((s.ship n).side = .live) &&
    match (s.berth n).bus with
    | .a => s.pru.busAPresent && within s.inputs.busAFrequency
    | .b => decide (0 < s.online) && within s.pru.frequency
    | .none => false

/-- Deferral begins for the waiters: DEFERRED, with the settle timer stopped (R46). -/
def deferWaiters (s : State) : State := s.forEach s.pru.waiting fun r t => t.setWindow r.berth .deferred none

/-- Deferral ends: each DEFERRED waiter becomes OUTSIDE and is judged again (R46, R48). -/
def endDeferral (s : State) : State :=
  s.forEach s.pru.waiting fun r t =>
    if (t.ship r.berth).window = .deferred then t.setWindow r.berth .outside none else t

/-! ### The mode and the claim -/

/-- The mode becomes FREE at 60.000 Hz; the phase goes on from where it stands (R38). -/
def freeReference (s : State) : State := s.modPru fun u => { u with mode := .free, frequency := Config.nominalB }

/-- The claim is granted (R43). -/
def grantClaim (r : ClaimRequest) (s : State) : State :=
  let t := s.modPru fun u =>
    { u with holder := some r, waiting := u.waiting.filter fun x => decide (x.berth ≠ r.berth), mode := .follow r.berth }
  let t := t.deferWaiters
  match (t.ship r.berth).window with
  | .inactive | .deferred => t.setWindow r.berth .outside none
  | .outside | .settling | .held => t

/-- The head of the list is granted the claim when no berth holds it and bus B is not in use (R43). -/
def grantHead (s : State) : State :=
  match s.pru.holder, s.pru.waiting with
  | none, r :: _ => if s.pru.busBInUse then s else s.grantClaim r
  | _, _ => s

/-- A bus-B berth entering SYNCING requests the claim (R42); while another holds it the berth is DEFERRED (R48). -/
def requestClaim (n : Ix) (s : State) : State :=
  let t := s.setWindow n (if s.pru.holder.isSome then .deferred else .outside) none
  grantHead <| t.modPru fun u => { u with waiting := u.waiting ++ [{ berth := n, time := s.now }] }

/-- The berth's request leaves the list (R42). -/
def leaveClaims (n : Ix) (s : State) : State :=
  s.modPru fun u => { u with waiting := u.waiting.filter fun x => decide (x.berth ≠ n) }

/-- The berth holds the claim. -/
def holdsClaim (s : State) (n : Ix) : Bool := match s.pru.holder with | some r => decide (r.berth = n) | none => false

/-- The holder releases the claim; `ownClose` at its own close command, which brings bus B into use (R41, R44). RETURN that
is entered with the reference already at 60.000 Hz stays RETURN until the next tick or REFERENCE_REACHES_60: no rule says
whether a frequency that stands there "reaches" it (DESIGN CHOICE, log entry 34). -/
def releaseClaim (ownClose : Bool) (s : State) : State :=
  let t := s.modPru fun u => { u with holder := none }
  if s.pru.busBInUse || ownClose then (t.modPru fun u => { u with mode := .ret }).endDeferral
  else t.freeReference.endDeferral.grantHead

/-- A berth leaves SYNCING: its window is INACTIVE and its claim or request ends (R42, R44, R48). -/
def leaveSyncing (n : Ix) (ownClose : Bool) (s : State) : State :=
  let t := (s.leaveClaims n).setWindow n .inactive none
  if s.holdsClaim n then t.releaseClaim ownClose else t

/-- The claim is revoked as bus B comes into use: the holder becomes the first waiter (R45). RETURN is entered, and left, as
in `releaseClaim` (log entry 34). -/
def revokeClaim (s : State) : State :=
  match s.pru.holder with
  | none => s
  | some r => (s.modPru fun u => { u with holder := none, waiting := r :: u.waiting, mode := .ret }).endDeferral

/-- Bus B in use by the berth records (R37). -/
def busBUsed (s : State) : Bool :=
  decide (0 < countSix fun n => decide ((s.berth n).bus = .b) && decide ((s.berth n).breaker ≠ .opened))

/-- Bus B in use follows the berth records: coming into use revokes a claim, leaving use ends a RETURN and grants the head
(R37, R41, R43, R45). -/
def followBusB (s : State) : State :=
  let t := s.modPru fun u => { u with busBInUse := s.busBUsed }
  match s.pru.busBInUse, s.busBUsed with
  | false, true => t.revokeClaim
  | true, false => (if s.pru.mode = .ret then t.freeReference else t).grantHead
  | _, _ => t

/-- The reference of R38 to R40 moves for one second. -/
def steer (s : State) : State :=
  match s.pru.mode with
  | .free => s
  | .ret => s.modPru fun u => { u with frequency := approachBy Config.returnRate u.frequency Config.nominalB }
  | .follow n =>
    if (s.ship n).side = .live then
      let o := s.outlet n
      let difference := (s.ship n).difference
      let target :=
        if difference.natAbs ≤ Config.phaseClose then o.shipFrequency
        else if 0 < difference then o.shipFrequency + Config.followOffset
        else o.shipFrequency - Config.followOffset
      s.modPru fun u =>
        { u with frequency := approachBy Config.followRate u.frequency (clamp Config.refLow Config.refHigh target) }
    else s

/-- The frequency of a bus: bus A's as last reported, bus B's that of the reference. -/
def busFrequency (s : State) : Bus → Option Nat
  | .a => some s.inputs.busAFrequency
  | .b => some s.pru.frequency
  | .none => none

/-- A phase difference that moves from `old` to `new` while FOLLOW closes it at its offset stops at 1.0 degree, where the
steering drops the offset (R39). -/
def stopAtClose (old new : Int) : Int :=
  if Config.phaseClose < old then max Config.phaseClose new
  else if old < -Config.phaseClose then min (-Config.phaseClose) new
  else new

/-- The reference follows berth `n` at the offset of R39. -/
def atOffset (s : State) (n : Ix) : Bool :=
  decide (s.pru.mode = .follow n) && decide (absDiff s.pru.frequency (s.outlet n).shipFrequency = Config.followOffset)

/-- The phase difference of a berth after a second at the frequencies that stand (R38, R39). It is meaningful while the ship
side is LIVE on a bus (R34), and stays otherwise. -/
def differenceAfter (s : State) (n : Ix) : Int :=
  let old := (s.ship n).difference
  match s.busFrequency (s.berth n).bus with
  | some reference =>
    if (s.ship n).side = .live then
      let new := old + turn (s.outlet n).shipFrequency - turn reference
      wrapAngle (if s.atOffset n then stopAtClose old new else new)
    else old
  | none => old

/-- The phases of a second: the reference turns by its frequency, and each phase difference by that of its two sides (R38,
R39). -/
def turnPhases (s : State) : State :=
  s.modPru fun u =>
    { u with phase := (u.phase + turn u.frequency) % Config.fullTurn
             ships := .ofFn fun n => { u.ships.get n with difference := s.differenceAfter n } }

end State

end Sys2Proof.Machine
end

