-- ==== Sys2Proof/Machine/Scanner.lean ====
section
/-! DEFINITION. The Check Scanner (chapter 3) up to its results: freshness, the request queue, the choice and the start of a
check, aborts and drops, and the start-up round. What a result or a lapse does to a berth stands in Machine/Checks.lean. -/

namespace Sys2Proof.Machine

/-- The duration of a check (R58). -/
def CheckMode.seconds : CheckMode → Nat
  | .dead => Config.deadCheck | .live => Config.liveCheck

/-- The status a record keeps while a check is in flight (R56). -/
def CheckStatus.kept : CheckStatus → BeforeFlight
  | .passed => .passed | .failed => .failed | .none | .inFlight => .none

/-- The status an aborted record returns to (R58). -/
def BeforeFlight.status : BeforeFlight → CheckStatus
  | .passed => .passed | .failed => .failed | .none => .none

/-- What filing a request finds (R60). -/
inductive Filed where
  | appended | merged | inFlight
  deriving DecidableEq, Repr

namespace State

/-! ### Records -/

/-- The record of a berth is fresh (R57). -/
def fresh (s : State) (n : Ix) : Bool :=
  let c := s.check n
  decide (c.age ≤ s.checkWindow) &&
    match c.status with
    | .passed => true
    | .inFlight => decide (c.mode = some .live) && decide (c.before = some .passed)
    | .none | .failed => false

/-- The record is set up (R56). -/
def setUpCheck (n : Ix) (s : State) : State := s.modCheck n fun _ => freshCheck

/-- The mode of a check started now (R59). -/
def checkMode (s : State) (n : Ix) : CheckMode :=
  if (s.berth n).breaker = .opened ∧ (s.ship n).side ≠ .live then .dead else .live

/-- The check in flight. -/
def inFlight (s : State) : Option InFlight :=
  match s.cs.scanner with
  | .running c => some c
  | .idle | .faulted => none

/-! ### The choice (R58, R61, R62) -/

/-- A check of a berth starts (R58). -/
def startCheck (n : Ix) (origin : CheckOrigin) (s : State) : State :=
  let mode := s.checkMode n
  (s.modCheck n fun c => { c with status := .inFlight, before := some c.status.kept, mode := some mode }).modCs fun u =>
    { u with scanner := .running { berth := n, mode, origin, timer := mode.seconds }, pointer := n.next }

/-- The record is eligible for the round-robin search (R62). -/
def roundRobin (s : State) (n : Ix) : Bool :=
  let c := s.check n
  decide ((s.berth n).plug = .present) && decide ((s.berth n).state ≠ .vacant) &&
    match c.status with
    | .none => true
    | .passed => decide (s.checkWindow / 2 ≤ c.age)
    | .inFlight | .failed => false

/-- The choice of the next check, made while the scanner is IDLE (R61). -/
def chooseCheck (s : State) : State :=
  match s.cs.scanner with
  | .running _ | .faulted => s
  | .idle =>
    match s.cs.queue with
    | n :: rest => (s.modCs fun u => { u with queue := rest }).startCheck n .request
    | [] =>
      match s.cs.pointer.circle.find? s.roundRobin with
      | some n => s.startCheck n .round
      | none => s

/-- The instrument is freed: IDLE, or FAULTED while its fault input is asserted (R58). -/
def freeInstrument (s : State) : State :=
  s.modCs fun u => { u with scanner := if s.inputs.instrumentFault then .faulted else .idle }

/-- The berth's entry leaves the request queue (R60). -/
def dropRequest (n : Ix) (s : State) : State := s.modCs fun u => { u with queue := u.queue.filter fun x => decide (x ≠ n) }

/-- A berth is placed at the head of the request queue (R65, R68). -/
def requestFirst (n : Ix) (s : State) : State :=
  s.modCs fun u => { u with queue := n :: u.queue.filter fun x => decide (x ≠ n) }

/-- What filing a request for a berth finds (R60). -/
def filing (s : State) (n : Ix) : Filed :=
  if s.cs.queue.contains n then .merged
  else if s.inFlight.any fun c => decide (c.berth = n) then .inFlight
  else .appended

/-- A request is filed; an append that finds the scanner IDLE is followed by the choice (R60, R61). -/
def fileRequest (n : Ix) (s : State) : State :=
  match s.filing n with
  | .appended => (s.modCs fun u => { u with queue := u.queue ++ [n] }).chooseCheck
  | .merged | .inFlight => s

/-! ### Aborts and drops -/

/-- The check in flight ends without a result and its record returns to the status before flight (R58). -/
def abortRecord (n : Ix) (s : State) : State :=
  s.modCheck n fun c => { c with status := (c.before.getD .none).status, before := none }

/-- A DEAD check of a berth in flight is aborted as its circuit is energized (R65). -/
def abortDead (n : Ix) (s : State) : State :=
  match s.cs.scanner with
  | .running c =>
    if c.berth = n ∧ c.mode = .dead then ((s.abortRecord n).freeInstrument.requestFirst n).chooseCheck else s
  | .idle | .faulted => s

/-- A check of a berth in flight is dropped and its entry leaves the queue (R66). -/
def dropCheck (n : Ix) (s : State) : State :=
  let t := s.dropRequest n
  if s.inFlight.any fun c => decide (c.berth = n) then t.freeInstrument.chooseCheck else t

/-- The record of a berth is cleared (R66): it is set up anew, its entry leaves the queue and its check is dropped. A record
set up with its plug present is eligible for the search (R61). -/
def clearCheck (n : Ix) (s : State) : State :=
  let t := (s.setUpCheck n).dropCheck n
  if (s.berth n).plug = .present then t.chooseCheck else t

/-- PANEL_RESET (R70): the check in flight is aborted, not requeued, and the queue is cleared. -/
def resetScanner (s : State) : State :=
  let t := s.modCs fun u => { u with queue := [] }
  match s.cs.scanner with
  | .running c => (t.abortRecord c.berth).freeInstrument.chooseCheck
  | .idle | .faulted => t

end State

end Sys2Proof.Machine
end

