-- ==== Sys2Proof/Machine/Breaker.lean ====
section
/-! DEFINITION. The shore breaker, the selector and the ship close permit of a berth (R3, R5, R51, R52), and the interlock
conditions (R6). -/

namespace Sys2Proof.Machine

namespace State

/-! ### The ship close permit -/

/-- The permit is withdrawn, which stops the permit dead time (R51). -/
def withdrawPermit (n : Ix) (s : State) : State := s.modBerth n fun b => { b with permit := false, permitDeadTime := none }

/-- The permit is asserted (R52, R53). -/
def assertPermit (n : Ix) (s : State) : State := s.modBerth n fun b => { b with permit := true, permitDeadTime := none }

/-- The permit dead time starts while the permit is withdrawn and the plug present (R52). -/
def startPermitDeadTime (n : Ix) (s : State) : State :=
  if (s.berth n).permit = false ∧ (s.berth n).plug = .present then
    s.modBerth n fun b => { b with permitDeadTime := some s.deadTime }
  else s

/-! ### The breaker (R3) -/

/-- The breaker field leaves OPEN or moves on outside OPEN: no permit dead time runs, and a DEAD check is aborted (R52, R65). -/
def leaveOpen (n : Ix) (field : Breaker) (s : State) : State :=
  ((s.modBerth n fun b => { b with breaker := field, permitDeadTime := none }).abortDead n).followBusB

/-- The breaker field becomes OPEN: the permit dead time starts, and a SETTLED selector's bus field follows its input
(R5, R52). -/
def reachOpen (n : Ix) (s : State) : State :=
  ((s.modBerth n fun b =>
    { b with breaker := .opened, bus := if b.moving then b.bus else (s.outlet n).selector }).startPermitDeadTime n).followBusB

/-- The open command without its effect on the permit (R3). -/
def commandOpen (n : Ix) (s : State) : State :=
  match (s.berth n).breaker with
  | .openSent => s
  | .opened =>
    if (s.outlet n).breaker = .opened then s
    else (s.modBerth n fun b => { b with motionLimit := some Config.openMotion }).leaveOpen n .openSent
  | .closeSent | .closed => (s.modBerth n fun b => { b with motionLimit := some Config.openMotion }).leaveOpen n .openSent

/-- An open command that withdraws the permit (R3, R51). -/
def openCommand (n : Ix) (s : State) : State := (s.commandOpen n).withdrawPermit n

/-! ### The selector (R5) -/

/-- The selector settles on a bus. -/
def settleSelector (n : Ix) (bus : Bus) (s : State) : State :=
  (s.modBerth n fun b => { b with moving := false, bus, selectorLimit := none }).followBusB

/-- The selector is commanded to the matching bus (R5). -/
def selectorCommand (n : Ix) (s : State) : State :=
  s.modBerth n fun b =>
    { b with moving := true, bus := .none, commanded := b.declaredBus, selectorLimit := some Config.selectorLimit }

/-- The selector command is due (R5). -/
def selectorDue (s : State) (n : Ix) : Bool :=
  let b := s.berth n
  decide (b.state = .admitting) && b.consenting.isSome && !b.moving && decide (b.bus ≠ b.declaredBus) &&
    decide (b.breaker = .opened)

/-! ### The interlock conditions (R6) -/

/-- Condition 4: declared for this outlet. -/
def declaredForOutlet (s : State) (n : Ix) : Bool :=
  match (s.berth n).declaration with | some d => decide (d.cls = s.storedClass n) | none => false

/-- Condition 5: authorized. -/
def authorized (s : State) (n : Ix) : Bool :=
  match (s.berth n).authorization with | some a => !a.withdrawn | none => false

/-- Condition 6: selector ready. -/
def selectorReady (s : State) (n : Ix) : Bool :=
  let b := s.berth n
  b.declaration.isSome && !b.moving && decide (b.bus = b.declaredBus)

/-- Condition 7: bus available. -/
def busAvailable (s : State) (n : Ix) : Bool :=
  match (s.berth n).bus with
  | .a => s.pru.busAPresent
  | .b => decide (0 < s.available)
  | .none => false

/-- Condition 10: capacity online, counting this berth's f once. Its f is min(H, O) as it stands, and the other firm
figures of bus B are those that the Grant Engine holds (DESIGN CHOICE, log entry 50). -/
def capacityOnline (s : State) (n : Ix) : Bool :=
  match (s.berth n).bus with
  | .a => true
  | .b => decide (s.heldOnBut .b (some n) + (s.berth n).declaredFirm ≤ s.busBCapacity)
  | .none => false

/-- Conditions 6, 7, 8 and 10 hold (R10, R12, R13). -/
def readyToClose (s : State) (n : Ix) : Bool :=
  s.selectorReady n && s.busAvailable n && s.fresh n && s.capacityOnline n

/-- What every close command needs besides (R14). -/
def mayClose (s : State) (n : Ix) : Bool :=
  decide ((s.berth n).plug = .present) && !s.oe.held && s.isAdmitted n && s.readyToClose n

/-- The close command (R3, R14). A SYNCING berth releases its claim as it leaves (R44). -/
def closeCommand (n : Ix) (approach : Approach) (s : State) : State :=
  let t := if (s.berth n).state = .syncing then s.leaveSyncing n true else s
  let t := t.modBerth n fun b =>
    { b with state := .closing, approach := some approach, syncLimit := none, openTransitionLimit := none,
             deadCount := .stopped, motionLimit := some Config.closeMotion }
  (t.withdrawPermit n).leaveOpen n .closeSent

end State

end Sys2Proof.Machine
end

