-- ==== Sys2Proof/Machine/Berth.lean ====
section
/-! DEFINITION. The Berth Sequencer's steps (chapter 1): trips, the ends of the waiting states, the entries into the later
states, and how a berth is cleared. -/

namespace Sys2Proof.Machine

/-- The position of a trip cause in R1, which is its code in a TRIP notice (R181). -/
def TripCause.index : TripCause → Nat
  | .pilotLost => 0 | .insulationLow => 1 | .checkLapsed => 2 | .parallelTimeout => 3 | .overload => 4 | .busLost => 5
  | .closeFail => 6 | .breakerStuck => 7

/-- The reason a trip gives to a consenting order (R22). -/
def TripCause.reason : TripCause → Code
  | .pilotLost => .pilotLost
  | .insulationLow | .checkLapsed => .checkFailed
  | .parallelTimeout => .parallelTimeout
  | .overload | .busLost => .tripped
  | .closeFail => .breakerFail
  | .breakerStuck => .stuck

/-- Every sequence timer but the motion limit and the selector limit is stopped (R8, R22). -/
def Berth.stopTimers (b : Berth) : Berth :=
  { b with admissionLimit := none, syncLimit := none, openTransitionLimit := none, parallelLimit := none,
           returnLimit := none, deadCount := .stopped }

/-- O by R2, for a stored rating. -/
def Berth.ratingFor (stored : Nat) (b : Berth) : Nat :=
  match b.authorization with | some a => min stored a.cap | none => stored

namespace State

/-- O is worked out again (R2). -/
def rerate (n : Ix) (s : State) : State := s.modBerth n fun b => { b with rating := b.ratingFor (s.storedRating n) }

/-- A berth leaves the live states or loses its admission: grants zero, overdraw counts 0 (R101, R125, R134). -/
def departLive (n : Ix) (s : State) : State := (s.endAdmission n).clearOverdraw n

/-! ### Trips (R22) -/

/-- The effects of a trip that leaves the berth in a state with a purpose; `value` is the value of its TRIP notice. -/
def tripTo (n : Ix) (cause : TripCause) (value : Nat) (dest : BerthState) (purpose : Option Purpose) (s : State) : State :=
  let t := s.modBerth n fun b =>
    { b.stopTimers with tripCause := some cause, state := dest, purpose, approach := none, adoptOnClose := false }
  let t := if (s.berth n).breaker = .opened then t else t.commandOpen n
  let t := ((t.leaveSyncing n false).withdrawPermit n).departLive n
  ((t.failConsenting n cause.reason).notifyBoth n .trip cause.index value).postSource n .tripped

/-- A trip of a berth (R22). -/
def trip (n : Ix) (cause : TripCause) (s : State) : State :=
  match (s.berth n).state, (s.berth n).purpose with
  | .tripped, _ => s
  | .opening, some .trip => s.tripTo n ((s.berth n).tripCause.getD cause) 0 .opening (some .trip)
  | _, _ => s.tripTo n cause 0 .tripped none

/-- The number BREAKER_STUCK carries for the cause it replaces: 0 where it replaces none (R22, R181). -/
def replacedCause (s : State) (n : Ix) : Nat :=
  match (s.berth n).tripCause with
  | some .breakerStuck | none => 0
  | some c => c.index

/-- The motion limit of an open command expires (R21, R22). -/
def openStuck (n : Ix) (s : State) : State :=
  let t := s.modBerth n fun b => { b with stuck := true, motionLimit := none }
  match (s.berth n).state with
  | .tripped =>
    (t.modBerth n fun b => { b with tripCause := some .breakerStuck }).notifyBoth n .trip TripCause.breakerStuck.index
      (s.replacedCause n)
  | _ => t.tripTo n .breakerStuck (s.replacedCause n) .tripped none

/-! ### The waiting states -/

/-- A berth leaves ADMITTING, SYNCING or DEAD_WAIT without closing (R11). -/
def abandon (n : Ix) (dest : BerthState) (s : State) : State :=
  ((s.modBerth n fun b => { b.stopTimers with state := dest }).leaveSyncing n false).endAdmission n

/-- A berth's consenting CONNECT fails and it leaves the waiting states (R11). -/
def failWaiting (n : Ix) (code : Code) (dest : BerthState) (s : State) : State := (s.failConsenting n code).abandon n dest

/-- The position of a berth in the admission queue, 1 for the head, 0 if it has no entry (R158). -/
def queuePosition (s : State) (n : Ix) : Nat :=
  match s.ge.queue.findIdx? fun e => decide (e.berth = n) with
  | some i => i + 1
  | none => 0

/-- The admission limit expires (R10, R158). -/
def headroomFailed (n : Ix) (s : State) : State :=
  (s.endConsenting n .failed .noHeadroom (s.queuePosition n)).abandon n .plugged

/-- An accepted CONNECT puts its berth in ADMITTING (R9). -/
def enterAdmitting (n : Ix) (r : OrderRef) (minutes : Nat) (s : State) : State :=
  let t := (s.modBerth n fun b => { b with state := .admitting, consenting := some r, returnForced := false, openPower := 0,
                                           purpose := none, approach := none }).joinQueue n
  let t := if t.isAdmitted n then t else t.modBerth n fun b => { b with admissionLimit := some (60 * minutes) }
  let t := if t.selectorDue n then t.selectorCommand n else t
  let t := if t.fresh n then t else t.fileRequest n
  if t.isAdmitted n then t else if minutes = 0 then t.headroomFailed n else t

/-- Entry to SYNCING (R12). -/
def enterSyncing (n : Ix) (s : State) : State :=
  let t := s.modBerth n fun b => { b with state := .syncing, syncLimit := some s.syncTime }
  if (s.berth n).bus = .b then t.requestClaim n else t.setWindow n .outside none

/-- Entry to DEAD_WAIT (R13, R50). -/
def enterDeadWait (n : Ix) (s : State) : State :=
  s.modBerth n fun b =>
    { b with state := .deadWait, openTransitionLimit := some s.openTransitionTime,
             deadCount := if (s.ship n).side = .dead then .running s.deadTime else .stopped }

/-- The step out of ADMITTING (R10). -/
def leaveAdmitting (n : Ix) (s : State) : State :=
  match (s.berth n).declaration with
  | some { trans := .closed, .. } => if (s.ship n).side = .live then s.enterSyncing n else s.enterDeadWait n
  | _ => s.enterDeadWait n

/-- The ship side becomes dead in SYNCING (R12). -/
def syncToDead (n : Ix) (s : State) : State :=
  ((s.modBerth n fun b => { b with syncLimit := none }).leaveSyncing n false).enterDeadWait n

/-! ### Closing, shore supply and return -/

/-- Entry to ON_SHORE that posts its flag source (R18). -/
def enterOnShore (n : Ix) (s : State) : State :=
  (s.modBerth n fun b => { b with state := .onShore }).postSource n .onShoreEntered

/-- Entry to ADOPTED (R28, R31, R102). -/
def enterAdopted (n : Ix) (s : State) : State :=
  (s.modBerth n fun b =>
    { b with state := .adopted, declarationAwaited := true, authorizationAwaited := true, adoptOnClose := false }).adoptGrants n

/-- The closed report in CLOSING (R15, R31). -/
def closedReport (n : Ix) (s : State) : State :=
  let b := s.berth n
  let t := ((s.modBerth n fun b => { b with motionLimit := none, approach := none }).leaveOpen n .closed).setConnected n
  if b.adoptOnClose then t.enterAdopted n
  else
    match b.approach with
    | some .sync => t.modBerth n fun b => { b with state := .parallel, parallelLimit := some s.parallelTime }
    | some .dead | none => (t.endConsenting n .done .none 2).enterOnShore n

/-- GEN_OPENED taken in PARALLEL (R16). -/
def genOpened (n : Ix) (s : State) : State :=
  ((s.modBerth n fun b => { b with parallelLimit := none }).endConsenting n .done .none 1).enterOnShore n

/-- The open report ends a motion (R21, R23). -/
def openReport (n : Ix) (s : State) : State :=
  let b := s.berth n
  let t := (s.modBerth n fun b => { b with motionLimit := none, stuck := false }).reachOpen n
  match b.state, b.purpose with
  | .opening, some .ret =>
    let note := if b.returnForced then Code.returnForced else Code.none
    ((t.modBerth n fun b => { b with state := .plugged, purpose := none, returnForced := false }).endConsenting n .done note
      b.openPower).postSource n .returned
  | .opening, some .trip => t.modBerth n fun b => { b with state := .tripped, purpose := none }
  | .opening, _ => t.modBerth n fun b => { b with state := .plugged, purpose := none }
  | _, _ => t

/-- DISCONNECT CLOSED: the closed return begins (R18, R53, R101). -/
def enterReturnWait (n : Ix) (r : OrderRef) (s : State) : State :=
  ((s.modBerth n fun b =>
    { b with state := .returnWait, returnLimit := some s.returnTime, consenting := some r, returnForced := false,
             openPower := 0 }).assertPermit n).dropFlexible n

/-- The berth is opened from a live state or from CLOSING with a purpose (R18, R26, R31). -/
def enterOpening (n : Ix) (purpose : Purpose) (s : State) : State :=
  ((s.modBerth n fun b =>
    { b.stopTimers with state := .opening, purpose := some purpose, approach := none, adoptOnClose := false,
                        returnForced := false, openPower := 0 }).openCommand n).departLive n

/-- GEN_CLOSED taken in RETURN_WAIT (R19). -/
def enterReturnParallel (n : Ix) (s : State) : State :=
  s.modBerth n fun b => { b with state := .returnParallel, returnLimit := none, parallelLimit := some s.parallelTime }

/-- The return wait ends without a return: ADOPTED while a marker is set, else ON_SHORE (R19, R29). -/
def backFromReturn (n : Ix) (s : State) : State :=
  (s.modBerth n fun b =>
    { b with state := if b.markerSet then .adopted else .onShore, returnLimit := none }).withdrawPermit n

/-- The open command from RETURN_PARALLEL, which leaves the permit asserted (R20, R53). -/
def openFromReturn (n : Ix) (forced : Bool) (s : State) : State :=
  ((s.modBerth n fun b =>
    { b with state := .opening, purpose := some .ret, parallelLimit := none, returnForced := forced,
             openPower := (s.outlet n).meterNow }).commandOpen n).departLive n

/-- The instantaneous shore power is below 5 % of O (R20). -/
def shorePowerLow (s : State) (n : Ix) : Bool := decide ((s.outlet n).meterNow * 20 < (s.berth n).rating)

/-! ### Clearing -/

/-- What clears the berth's optional parts and its records in the other blocks (R25, R32). -/
def clearParts (n : Ix) (s : State) : State :=
  (((s.modBerth n fun b =>
    { b with declaration := none, authorization := none, forcedOpen := false, declarationAwaited := false,
             authorizationAwaited := false, rating := s.storedRating n }).clearCheck n).clearCharge n)

/-- BERTH_RESET of the berth record (R32): every sequence timer but a selector limit stops, and no approach, purpose or
consenting order is left. -/
def resetSequence (n : Ix) (s : State) : State :=
  s.modBerth n fun b => { b.stopTimers with motionLimit := none, approach := none, purpose := none, consenting := none }

/-- A berth enters VACANT and is cleared (R25, R128, R129). -/
def enterVacant (n : Ix) (s : State) : State :=
  ((s.modBerth n fun b => { b with state := .vacant, tripCause := none }).clearParts n).modGrantBerth n fun g =>
    { g with reading := none, sinceAdoption := false, adoptionUnread := false }

end State

end Sys2Proof.Machine
end

