-- ==== Sys2Proof/Machine/Checks.lean ====
section
/-! DEFINITION. What the Check Scanner's results and lapses do (R63, R64, R67), the start-up round, and the end of HELD
(R69, R166). -/

namespace Sys2Proof.Machine

namespace State

/-! ### The start-up round and RELEASE -/

/-- HELD clears, and RELEASED goes to T and to every open vessel port (R166). -/
def releasePart (s : State) : State :=
  (s.modOe fun oe => { oe with held := false }).forEach (.t :: Ix.all.map Port.v) fun p t => t.notify p .held none 1 0

/-- The running order of port T is a RELEASE. -/
def releaseWaits (s : State) : Bool :=
  match s.running? .t with
  | some (_, sl) => decide (sl.record.order = .release)
  | none => false

/-- The round closes: a waiting RELEASE ends DONE and HELD clears (R69, R166). -/
def closeRound (s : State) : State :=
  let t := s.modCs fun u => { u with roundClosed := true }
  if s.releaseWaits then (t.endRunning .t .done .none).releasePart else t

/-- A berth leaves the round list, and the round closes as the list becomes empty (R69). -/
def leaveRound (n : Ix) (s : State) : State :=
  let t := s.modCs fun u => { u with roundList := u.roundList.filter fun x => decide (x ≠ n) }
  if s.cs.roundClosed = false ∧ t.cs.roundList = [] then t.closeRound else t

/-! ### Results (R63, R64) -/

/-- CHECK notices to T and Vn: CHECK_FAILED 1, LAPSE_WARNING 2 (R181). -/
def notifyCheck (n : Ix) (code value : Nat) (s : State) : State := s.notifyBoth n .check code value

/-- A PASSED result (R63). -/
def checkPassed (n : Ix) (reading : Nat) (s : State) : State :=
  (s.modCheck n fun c => { c with status := .passed, before := none, age := 0, resistance := some reading,
                                  lapseWarned := false }).postSource n .checkPassed

/-- A FAILED result (R64). -/
def checkFailed (n : Ix) (reading : Nat) (s : State) : State :=
  let t := (s.modCheck n fun c => { c with status := .failed, before := none, resistance := some reading }).notifyCheck n 1
    reading
  if (s.berth n).breaker = .opened then
    if (s.berth n).state.isWaiting then t.failWaiting n .checkFailed .plugged else t
  else t.trip n .insulationLow

/-- The instrument fault input is asserted at the same instant as what happens now: its assertion is the very next command (R68;
DESIGN CHOICE, log entry 43). -/
def faultFollows (s : State) : Bool := decide (s.pending.head? = some .instrumentFaultAsserted)

/-- The scanner becomes FAULTED (R68). -/
def faultScanner (s : State) : State := s.modCs fun u => { u with scanner := .faulted }

/-- The instrument is freed by a completion (R58). With the fault asserted at the same instant the scanner is FAULTED from here on,
so that no check starts and the assertion finds nothing to abort (R68, completion first; log entry 43). -/
def freeCompleted (s : State) : State := if s.faultFollows then s.faultScanner else s.freeInstrument

/-- The check in flight completes with the instrument's reading (R58, R63, R64, R69), and the next is chosen. -/
def completeCheck (reading : Nat) (s : State) : State :=
  match s.cs.scanner with
  | .running c =>
    let r := min reading 65000
    let t := s.freeCompleted
    let t := if s.passThreshold ≤ r then t.checkPassed c.berth r else t.checkFailed c.berth r
    (t.leaveRound c.berth).chooseCheck
  | .idle | .faulted => s

/-! ### Lapse (R67) -/

/-- The lapse warning, once (R67). -/
def warnLapse (n : Ix) (s : State) : State :=
  if s.checkWindow < (s.check n).age ∧ (s.check n).lapseWarned = false then
    (s.modCheck n fun c => { c with lapseWarned := true }).notifyCheck n 2 (s.check n).age
  else s

/-- The lapse of a berth whose breaker field is CLOSE_SENT or CLOSED: the warning, then the trip (R67). -/
def lapse (n : Ix) (s : State) : State :=
  match (s.berth n).breaker with
  | .closeSent | .closed =>
    if 2 * s.checkWindow < (s.check n).age then (s.warnLapse n).trip n .checkLapsed else s.warnLapse n
  | .opened | .openSent => s

/-- The age of a record has reached a figure (log entry 27): the search may find it (R61), and a lapse is due (R67). -/
def ageReaches (n : Ix) (age : Nat) (s : State) : State :=
  ((s.modCheck n fun c => { c with age := max c.age (min age 65535) }).chooseCheck).lapse n

/-- The age of a record has passed 2W (R67). A record whose age restarted at this instant is not past it, so that a PASSED completion
taken first leaves nothing to trip for. An age of 0 is taken for such a restart, and not for an age that is yet to be brought (DESIGN
CHOICE, log entry 27). -/
def lapseTripDue (n : Ix) (s : State) : State :=
  if (s.check n).age = 0 then s else s.ageReaches n (2 * s.checkWindow + 1)

/-! ### The instrument's fault input (R68) -/

/-- The fault input becomes asserted (R68): INSTRUMENT_FAULT 3 to T. A scanner FAULTED before its input is asserted is one that a
completion of this instant left so (log entry 43), with nothing to abort. -/
def instrumentFails (s : State) : State :=
  let t := s.modInputs fun i => { i with instrumentFault := true }
  match s.cs.scanner with
  | .faulted => if s.inputs.instrumentFault then t else t.notify .t .check none 3 0
  | .idle => t.faultScanner.notify .t .check none 3 0
  | .running c =>
    let t := (t.abortRecord c.berth).faultScanner
    let t := if c.origin = .request then t.requestFirst c.berth else t
    t.notify .t .check (some c.berth) 3 0

/-- The fault input clears (R68): INSTRUMENT_CLEAR 4 to T, and the next check is chosen. -/
def instrumentClears (s : State) : State :=
  let t := s.modInputs fun i => { i with instrumentFault := false }
  match s.cs.scanner with
  | .faulted => ((t.modCs fun u => { u with scanner := .idle }).notify .t .check none 4 0).chooseCheck
  | .idle | .running _ => t

end State

end Sys2Proof.Machine
end

