-- ==== Sys2Proof/Machine/Follow.lean ====
section
/-! DEFINITION. What a berth does next: the berth rules that act "at the first instant" (R5, R10, R12, R13, R20, R28, R48, R83),
one after another until no berth has anything left to do. -/

namespace Sys2Proof.Machine

namespace State

/-- BUS_LOST: live on bus B while KB is 0 (R83). -/
def busLost (s : State) (n : Ix) : Bool :=
  s.isLive n && decide ((s.berth n).bus = .b) && decide (s.online = 0)

/-- A judged window becomes met (R48). -/
def windowEntered (s : State) (n : Ix) : Bool := decide ((s.ship n).window = .outside) && s.windowMet n

/-- A judged window ceases to be met (R48). -/
def windowLeft (s : State) (n : Ix) : Bool :=
  (decide ((s.ship n).window = .settling) || decide ((s.ship n).window = .held)) && !s.windowMet n

/-- The berth leaves ADMITTING (R10). -/
def admittingDone (s : State) (n : Ix) : Bool :=
  decide ((s.berth n).state = .admitting) && s.isAdmitted n && s.readyToClose n

/-- The close command from SYNCING is due (R12). -/
def syncCloseDue (s : State) (n : Ix) : Bool :=
  decide ((s.berth n).state = .syncing) && decide ((s.ship n).window = .held) && s.mayClose n

/-- The close command from DEAD_WAIT is due (R13). -/
def deadCloseDue (s : State) (n : Ix) : Bool :=
  decide ((s.berth n).state = .deadWait) && decide ((s.berth n).deadCount = .completed) &&
    decide ((s.ship n).side = .dead) && s.mayClose n

/-- The open command of a return is due (R20). -/
def returnOpenDue (s : State) (n : Ix) : Bool := decide ((s.berth n).state = .returnParallel) && s.shorePowerLow n

/-- The adoption is complete (R28). -/
def adoptionDone (s : State) (n : Ix) : Bool := decide ((s.berth n).state = .adopted) && !(s.berth n).markerSet

/-- The next thing a berth does at this instant, if there is one. Where it could do several, the first of this list comes first: no
rule orders them (DESIGN CHOICE, log entry 53). -/
def berthNext (n : Ix) (s : State) : Option State :=
  if s.busLost n then some (s.trip n .busLost)
  else if s.selectorDue n then some (s.selectorCommand n)
  else if s.windowEntered n then some (s.setWindow n .settling (some s.settleTime))
  else if s.windowLeft n then some (s.setWindow n .outside none)
  else if s.admittingDone n then some (s.leaveAdmitting n)
  else if s.syncCloseDue n then some (s.closeCommand n .sync)
  else if s.deadCloseDue n then some (s.closeCommand n .dead)
  else if s.returnOpenDue n then some (s.openFromReturn n false)
  else if s.adoptionDone n then some (s.enterOnShore n)
  else none

/-- The next thing that a berth does at this instant, the lowest berth first (log entry 5). -/
def berthReact (s : State) : Option State := Ix.all.findSome? fun n => s.berthNext n

/-- At most `k` steps of the berths. -/
def followUpTo : Nat → State → State
  | 0, s => s
  | k + 1, s =>
    match s.berthReact with
    | some t => followUpTo k t
    | none => s

/-- Everything that the berths do at this instant (log entries 5 and 20). -/
def follow (s : State) : State := followUpTo Config.settleFuel s

end State

end Sys2Proof.Machine
end

