-- ==== Sys2Proof/Machine/Pool.lean ====
section
/-! DEFINITION. The Converter Pool (chapter 4): starts, stops, faults and service of the six modules. The trips of R83 follow
in Machine/Settle.lean as soon as KB is 0. -/

namespace Sys2Proof.Machine

/-- A module enters OFF, FAULTED or OUT_OF_SERVICE: running seconds 0, no marker, no timer (R73). -/
def Converter.rest (state : ModuleState) (cause : Option FaultCause) : Converter :=
  { state, seconds := 0, cause, outPending := false, startLimit := none, stopTimer := none }

/-- A module enters STOPPING, which withdraws its run command (R80). -/
def Converter.stop (outPending : Bool) (c : Converter) : Converter :=
  { c with state := .stopping, outPending, startLimit := none, stopTimer := some Config.stopTimer }

/-- The run command output of a module, by its state (R73, R74): asserted in STARTING and ONLINE, withdrawn in every other. -/
def ModuleState.runCommand : ModuleState → Bool
  | .starting | .online => true
  | .off | .stopping | .faulted | .outOfService => false

namespace State

/-- The run command output of a module (R73, R77, R78, R80, R81, R86): a function of its state, so an entry to STARTING asserts
it and an entry to OFF, STOPPING, FAULTED or OUT_OF_SERVICE withdraws it. -/
def runCommand (s : State) (m : Ix) : Bool := (s.converter m).state.runCommand

/-- What the Converter Pool passes to a module: the mode, the frequency and the phase of the bus B reference while its run
command is asserted (R38, R74). -/
def modulePassed (s : State) (m : Ix) : Option (RefMode × Nat × Nat) :=
  if s.runCommand m then some (s.pru.mode, s.pru.frequency, s.pru.phase) else none

/-- A MODULE notice to T: START_FAIL 1, MODULE_TRIPPED 2, FAULT_CLEARED 3, with the module number (R181). -/
def notifyModule (m : Ix) (code : Nat) (s : State) : State := s.notify .t .module none code m.toNat

/-- The start test (R77): the module that enters STARTING has its run command asserted. -/
def startTest (s : State) : State :=
  if s.online + s.starting < s.cp.target ∧ s.starting = 0 then
    match s.cp.pointer.circle.find? fun m => decide ((s.converter m).state = .off) with
    | some m =>
      (s.modConverter m fun c => { c with state := .starting, seconds := 0, startLimit := some Config.startLimit }).modCp
        fun u => { u with pointer := m.next }
    | none => s
  else s

/-- A fall of KB trims both sets (R75, R118). A fall to 0 trims before the BUS_LOST trips, which follow in settling; R83 allows either
order. A flexible grant of a berth about to be tripped is therefore trimmed, with its notice, and not only zeroed by the trip (DESIGN
CHOICE, log entry 57). -/
def trimAfterFall (before : Nat) (s : State) : State := if s.online < before then s.trimBoth else s

/-- A FAULTED module whose inputs are both clear enters OUT_OF_SERVICE (R82); the start test follows (R77). -/
def clearFault (m : Ix) (s : State) : State :=
  if (s.converter m).state = .faulted ∧ (s.moduleInputs m).fault = false ∧ (s.moduleInputs m).ready = false then
    ((s.modConverter m fun c => .rest .outOfService c.cause).notifyModule m 3).startTest
  else s

/-- A module enters FAULTED, which withdraws its run command: the notice, and the trim of a fallen KB (R78, R81). -/
def enterFault (m : Ix) (cause : FaultCause) (code : Nat) (s : State) : State :=
  ((s.modConverter m fun _ => .rest .faulted (some cause)).notifyModule m code).trimAfterFall s.online

/-- A module enters FAULTED (R78, R81), and R82 and the start test follow. -/
def faultModule (m : Ix) (cause : FaultCause) (code : Nat) (s : State) : State :=
  ((s.enterFault m cause code).clearFault m).startTest

/-- The fault input of a module is asserted (R81). -/
def moduleFaultInput (m : Ix) (s : State) : State :=
  let t := s.modModuleInputs m fun i => { i with fault := true }
  if (s.converter m).state = .faulted then t else t.faultModule m .tripped 2

/-- The ready input of a module is withdrawn (R74, R81, R82). -/
def moduleReadyLost (m : Ix) (s : State) : State :=
  let t := s.modModuleInputs m fun i => { i with ready := false }
  if (s.converter m).state = .online then t.faultModule m .tripped 2 else t.clearFault m

/-- The fault input of a module clears (R82). -/
def moduleFaultClears (m : Ix) (s : State) : State :=
  (s.modModuleInputs m fun i => { i with fault := false }).clearFault m

/-- The ready input of a module is asserted (R74, R78). -/
def moduleReadyInput (m : Ix) (s : State) : State :=
  let t := s.modModuleInputs m fun i => { i with ready := true }
  if (s.converter m).state = .starting then
    (t.modConverter m fun c => { c with state := .online, startLimit := none }).startTest
  else t

/-- The ready report of a module is taken at the same instant as what happens now: it is the very next command (log entry
31). -/
def readyFollows (s : State) (m : Ix) : Bool := decide (s.pending.head? = some (.moduleReady m))

/-- The start limit of a module expires (R78): START_FAIL. With the ready report at the same instant the ready input is not
withdrawn, so R82 does not take the module on, and the report finds it FAULTED. -/
def startFails (m : Ix) (s : State) : State :=
  if s.readyFollows m then (s.enterFault m .startFail 1).startTest else s.faultModule m .startFail 1

/-- The stop timer of a module expires (R80). -/
def stopEnds (m : Ix) (s : State) : State :=
  (s.modConverter m fun c => .rest (if c.outPending then .outOfService else .off) c.cause).startTest

/-! ### Publication (R76, R79) -/

/-- A bus-B berth is live or admitted. -/
def anyOnB (s : State) : Bool := decide (0 < countSix fun n => decide ((s.firmFigure n).2 = .b))

/-- The target of a demand (R76). -/
def targetFor (s : State) (demand : Nat) : Nat :=
  let count := ceilDiv demand Config.moduleKw
  min s.available (if count = 0 ∧ s.anyOnB = true then 1 else count)

/-- The ONLINE module with the most running seconds, the lower number between equals (R79). -/
def longestRunning (s : State) : Option Ix :=
  (Ix.all.filter fun m => decide ((s.converter m).state = .online)).foldl (fun best m =>
    match best with
    | none => some m
    | some x => if (s.converter x).seconds < (s.converter m).seconds then some m else some x) none

/-- The capacity left after one module is stopped still carries FirmB, as the Grant Engine holds it at the test (R79, R85; log
entry 50). -/
def canSpare (s : State) : Bool := decide (s.heldFirmB ≤ Config.moduleKw * (s.online - 1))

/-- The hysteresis stop (R79). -/
def tryStop (s : State) : State :=
  if s.cp.stopCount = 6 ∧ s.canSpare = true then
    match s.longestRunning with
    | some m =>
      ((s.modConverter m (Converter.stop false)).modCp fun u => { u with stopCount := 0 }).trimAfterFall s.online
    | none => s
  else s

/-- A publication (R76, R79, R77). -/
def publish (demand : Nat) (s : State) : State :=
  let t := s.modCp fun u =>
    { u with target := s.targetFor demand
             stopCount := if s.targetFor demand < s.online then min 6 (u.stopCount + 1) else 0 }
  (if s.targetFor demand < s.online then t.tryStop else t).startTest

/-! ### Service orders (R84, R85, R164) -/

/-- The details of a MODULE_SERVICE that ends DONE (R164). -/
def serviceDone (s : State) : Status := { verdict := .done, code := .none, d1 := s.available, d2 := s.online }

/-- A module enters a resting state by a service order, and the start test follows. -/
def serveModule (m : Ix) (f : Converter → Converter) (s : State) : State :=
  ((s.modConverter m f).trimAfterFall s.online).startTest

/-- MODULE_SERVICE IN (R84). -/
def moduleIn (m : Ix) (s : State) : State × Status :=
  let t :=
    match (s.converter m).state with
    | .outOfService => s.serveModule m fun _ => .rest .off none
    | .stopping => s.modConverter m fun c => { c with outPending := false }
    | .off | .starting | .online | .faulted => s
  if (s.converter m).state = .faulted then (s, { verdict := .refused, code := .badState, d1 := 0, d2 := 0 })
  else (t, t.serviceDone)

/-- MODULE_SERVICE OUT (R85). -/
def moduleOut (m : Ix) (s : State) : State × Status :=
  let t :=
    match (s.converter m).state with
    | .off => s.serveModule m fun c => .rest .outOfService c.cause
    | .starting => s.serveModule m (Converter.stop true)
    | .online => if s.canSpare then s.serveModule m (Converter.stop true) else s
    | .stopping => s.modConverter m fun c => { c with outPending := true }
    | .outOfService | .faulted => s
  if (s.converter m).state = .online ∧ s.canSpare = false then
    (s, { verdict := .refused, code := .capacityNeeded, d1 := s.heldFirmB, d2 := s.busBCapacity })
  else (t, t.serviceDone)

end State

end Sys2Proof.Machine
end

