-- ==== Sys2Proof/Machine/Metering.lean ====
section
/-! DEFINITION. The period expiry and the minute tick (R103, R133), meter readings, charge accounting and overdraw (chapter
7). -/

namespace Sys2Proof.Machine

/-- The period before a period number. -/
def lastPeriod (k : Nat) : Nat := if k = 0 then 65535 else k - 1

/-- The metered figure of a reading, clamped to 0–9,999 kW (R128): a reading below 0 counts as 0. -/
def clampReading (r : Int) : Nat := min r.toNat 9999

/-- Charge accounting: `added` kW·s come to the accumulator, and whole kWh are taken from E (R132). -/
def Charge.account (added : Nat) (c : Charge) : Charge :=
  { c with acc := (c.acc + added) % 3600, e := c.e - (c.acc + added) / 3600 }

namespace State

/-- The period expiry (R103). -/
def periodExpiry (s : State) : State :=
  let t := s.modGe fun g =>
    { g with period := nextPeriod g.period, periodLeft := s.allocation, lastLength := g.periodLength,
             periodLength := s.allocation, berths := g.berths.map fun b => { b with due := true } }
  let t := t.switchSets
  let claims := t.claims
  let t := t.compute.serveQueue
  t.publish (t.busBDemand claims)

/-- The minute tick (R133). Where several berths fall short at one tick their CHARGE_SHORT notices are posted from B0 to B5: no rule
orders them, and the content left at port T is that of the highest berth (DESIGN CHOICE, log entry 46). -/
def minuteTick (s : State) : State :=
  (s.modGe fun g => { g with minuteLeft := Config.minute }).forEach Ix.all fun n t =>
    if (t.berth n).plug = .present then
      (t.modGrantBerth n fun g => { g with charge := { g.charge with d := g.charge.d - 1 } }).warnShort n
    else t

/-- The over-grant test (R134). -/
def overGrantTest (n : Ix) (metered : Nat) (s : State) : State :=
  if (s.berth n).firmFromMeter then s
  else if (s.ge.active.recs.get n).total * 110 < metered * 100 then
    if 2 ≤ (s.grantBerth n).overGrant then
      ((s.modGrantBerth n fun g => { g with overGrant := 0 }).notify (.v n) .overdraw (some n) 1 metered).notify .t .overdraw
        (some n) 1 metered
    else s.modGrantBerth n fun g => { g with overGrant := g.overGrant + 1 }
  else s.modGrantBerth n fun g => { g with overGrant := 0 }

/-- The over-rating test (R134). -/
def overRatingTest (n : Ix) (metered : Nat) (s : State) : State :=
  if (s.berth n).rating < metered then
    if 1 ≤ (s.grantBerth n).overRating then s.trip n .overload
    else s.modGrantBerth n fun g => { g with overRating := g.overRating + 1 }
  else s.modGrantBerth n fun g => { g with overRating := 0 }

/-- What a reading does for a live berth: accounting, then the two tests (R132, R134). -/
def liveReading (n : Ix) (metered : Nat) (s : State) : State :=
  let added := (metered - (s.ge.active.recs.get n).firm) * s.ge.lastLength
  ((s.modGrantBerth n fun g => { g with charge := g.charge.account added }).overGrantTest n metered).overRatingTest n metered

end State

/-- The first reading after an entry to ADOPTED is recorded (R129). -/
def GrantBerth.readSince (g : GrantBerth) : GrantBerth :=
  if g.adoptionUnread then { g with sinceAdoption := true, adoptionUnread := false } else g

namespace State

/-- A reading arrives in answer to a period mark, or the meter reports it invalid (R128, R129). The reading is booked to the
period that the last mark ended, and answers that mark, also where it answers an earlier mark and is taken after the expiry
that gave the new one (R136 row 5, expiry first): the part cannot tell the two apart (DESIGN CHOICE, log entry 40). -/
def takeReading (n : Ix) (reading : Option Int) (s : State) : State :=
  if (s.grantBerth n).due then
    let t := s.modGrantBerth n fun g => { g with due := false }
    match reading with
    | none => t
    | some r =>
      if (s.berth n).plug = .present then
        let t := t.modGrantBerth n fun g => { g.readSince with reading := some (clampReading r, lastPeriod s.ge.period) }
        if s.isLive n then t.liveReading n (clampReading r) else t
      else t
  else s

end State

end Sys2Proof.Machine
end

