-- ==== Sys2Proof/Machine/Operands.lean ====
section
/-! DEFINITION. The order record of section 10.6: read from its sixteen bytes and written to them; the kinds, their classes
and the ranges of their arguments (R142, R156). -/

namespace Sys2Proof.Machine

/-- The class of an order kind (R142). -/
inductive OrderClass where
  | vessel | terminal | common
  deriving DecidableEq, Repr

/-- The class of an order; an unknown kind has none (R142, R156). -/
def Order.class? : Order → Option OrderClass
  | .declare .. | .connect .. | .genOpened | .genClosed | .disconnect .. => some .vessel
  | .authorize .. | .withdraw .. | .setReserve .. | .setParameter .. | .moduleService .. | .checkBerth | .ackTrip
  | .lockout .. | .release | .panelReset | .berthReset => some .terminal
  | .raiseFlag .. | .waitFlag .. | .proveClose | .delay .. => some .common
  | .unknown _ => none

/-- The kind names a berth in its berth field (R142, R156). -/
def Order.namesBerth : Order → Bool
  | .authorize .. | .withdraw .. | .checkBerth | .ackTrip | .lockout .. | .berthReset | .raiseFlag .. | .waitFlag ..
  | .proveClose => true
  | _ => false

/-- The kind byte, DECLARE 1 to DELAY 20 (section 10.6). -/
def Order.kindByte : Order → Byte
  | .declare .. => 1
  | .connect .. => 2
  | .genOpened => 3
  | .genClosed => 4
  | .disconnect .. => 5
  | .authorize .. => 6
  | .withdraw .. => 7
  | .setReserve .. => 8
  | .setParameter .. => 9
  | .moduleService .. => 10
  | .checkBerth => 11
  | .ackTrip => 12
  | .lockout .. => 13
  | .release => 14
  | .panelReset => 15
  | .berthReset => 16
  | .raiseFlag .. => 17
  | .waitFlag .. => 18
  | .proveClose => 19
  | .delay .. => 20
  | .unknown kind => kind

/-- The argument bytes, unused bytes left out (section 10.6). -/
def Order.argBytes : Order → List Byte
  | .declare freq cls tr h e c d =>
    [freq, cls, tr, h.hi, h.lo, e.hi, e.lo, c.hi, c.lo, d.hi, d.lo]
  | .connect wait => [wait.hi, wait.lo]
  | .disconnect tr => [tr]
  | .authorize prio cap => [prio, cap.hi, cap.lo]
  | .withdraw force => [force]
  | .setReserve value => [value.hi, value.lo]
  | .setParameter start count v1 v2 v3 v4 v5 =>
    [start, count, v1.hi, v1.lo, v2.hi, v2.lo, v3.hi, v3.lo, v4.hi, v4.lo, v5.hi, v5.lo]
  | .moduleService module direction => [module, direction]
  | .lockout on => [on]
  | .raiseFlag flag => [flag]
  | .waitFlag flag limit => [flag, limit.hi, limit.lo]
  | .delay duration => [duration.hi, duration.lo]
  | .genOpened | .genClosed | .checkBerth | .ackTrip | .release | .panelReset | .berthReset | .proveClose | .unknown _ => []

/-- An order from its kind byte and the argument byte at each position from 0 (section 10.6). -/
def Order.ofBytes (kind : Byte) (arg : Nat → Byte) : Order :=
  let word := fun i => Word.ofBytes (arg i) (arg (i + 1))
  match kind.toNat with
  | 1 => .declare (arg 0) (arg 1) (arg 2) (word 3) (word 5) (word 7) (word 9)
  | 2 => .connect (word 0)
  | 3 => .genOpened
  | 4 => .genClosed
  | 5 => .disconnect (arg 0)
  | 6 => .authorize (arg 0) (word 1)
  | 7 => .withdraw (arg 0)
  | 8 => .setReserve (word 0)
  | 9 => .setParameter (arg 0) (arg 1) (word 2) (word 4) (word 6) (word 8) (word 10)
  | 10 => .moduleService (arg 0) (arg 1)
  | 11 => .checkBerth
  | 12 => .ackTrip
  | 13 => .lockout (arg 0)
  | 14 => .release
  | 15 => .panelReset
  | 16 => .berthReset
  | 17 => .raiseFlag (arg 0)
  | 18 => .waitFlag (arg 0) (word 1)
  | 19 => .proveClose
  | 20 => .delay (word 0)
  | _ => .unknown kind

/-- The sixteen bytes of an order record: kind, flags, berth, thirteen argument bytes. -/
def OrderRec.toBytes (r : OrderRec) : List Byte :=
  [r.order.kindByte, if r.stop then 1 else 0, r.berth] ++ (r.order.argBytes ++ List.replicate (13 - r.order.argBytes.length) 0)

/-- An order record read from sixteen bytes; bit 0 of the flags is stop-on-error. -/
def OrderRec.ofBytes (bytes : List Byte) : OrderRec :=
  { order := .ofBytes (bytes.getD 0 0) fun i => bytes.getD (3 + i) 0
    stop := (bytes.getD 1 0).getLsbD 0
    berth := bytes.getD 2 0 }

/-- `k` order records from consecutive bytes. -/
def recordsOf : Nat → List Byte → List OrderRec
  | 0, _ => []
  | k + 1, bytes => .ofBytes (bytes.take 16) :: recordsOf k (bytes.drop 16)

/-- An argument lies outside its enumeration, or outside a range that the order does not clamp (R156 step 4). -/
def Order.badArgument : Order → Bool
  | .declare freq cls tr _ _ _ _ => (freq != 50 && freq != 60) || decide (2 < cls.toNat) || decide (1 < tr.toNat)
  | .connect wait => decide (60 < wait.toNat)
  | .disconnect tr => decide (1 < tr.toNat)
  | .authorize prio _ => decide (3 < prio.toNat)
  | .withdraw force => decide (1 < force.toNat)
  | .setParameter start count _ _ _ _ _ => decide (63 < start.toNat) || decide (count.toNat = 0) || decide (5 < count.toNat)
  | .moduleService module direction => decide (5 < module.toNat) || decide (1 < direction.toNat)
  | .lockout on => decide (1 < on.toNat)
  | .raiseFlag flag => decide (1 < flag.toNat)
  | .waitFlag flag limit => decide (1 < flag.toNat) || decide (limit.toNat = 0)
  | .delay duration => decide (duration.toNat = 0)
  | _ => false

/-- The port may not submit the order (R142). -/
def OrderRec.notPermitted (p : Port) (r : OrderRec) : Bool :=
  match r.order.class?, p with
  | some .vessel, .t => true
  | some .terminal, .v _ => true
  | some .common, .v n => r.order.namesBerth && decide (r.berth.toNat ≠ n.toNat)
  | _, _ => false

/-- The checks common to every order, steps 1 to 4 of R156: the reason of the first that fails. -/
def OrderRec.commonCheck (p : Port) (r : OrderRec) : Option Code :=
  if r.order.class?.isNone then some .badArgument
  else if r.notPermitted p then some .notPermitted
  else if p = .t ∧ r.order.namesBerth = true ∧ 5 < r.berth.toNat then some .badArgument
  else if r.order.badArgument then some .badArgument
  else none

/-- The berth an order concerns: n of port Vn for a vessel order, else the berth field (R142). -/
def OrderRec.berthIx (p : Port) (r : OrderRec) : Ix :=
  match p with
  | .v n => n
  | .t => (Ix.ofNat? r.berth.toNat).getD .i0

/-- Frequency by its argument byte, 50 or 60. -/
def Freq.ofByte (b : Byte) : Freq := if b = 50 then .f50 else .f60

/-- Voltage class by its position. -/
def VClass.ofByte (b : Byte) : VClass := match b.toNat with | 0 => .lv440 | 1 => .mv6600 | _ => .mv11000

/-- Transition by its position. -/
def Transition.ofByte (b : Byte) : Transition := if b = 0 then .closed else .opened

end Sys2Proof.Machine
end

