-- ==== Sys2Proof/Machine/Catalogue.lean ====
section
/-! DEFINITION. The order catalogue (chapter 9): what each order does at its take. A take answers the state and, for an order
that ends at its take, its status record. -/

namespace Sys2Proof.Machine

/-- The outcome of a take: the state, and the status record of an order that ends at once (R140). -/
abbrev Take := State × Option Status

/-- A REFUSED record (R156). -/
def refusedFor (code : Code) : Status := { verdict := .refused, code, d1 := 0, d2 := 0 }

/-- A DONE record. -/
def doneWith (d1 d2 : Nat) : Status := { verdict := .done, code := .none, d1, d2 }

/-- A DONE record with the note CLAMPED when a count of clamped arguments is above 0 (R156). -/
def doneClamped (clamped d1 d2 : Nat) : Status :=
  { verdict := .done, code := if 0 < clamped then .clamped else .none, d1, d2 }

/-- The order is refused and changes nothing (R156). -/
def refuse (code : Code) (s : State) : Take := (s, some (refusedFor code))

/-- A value clamped to 0 through a top. -/
def clampTop (top a : Nat) : Nat := min a top

/-- 1 for a value that is clamped. -/
def clipped (top a : Nat) : Nat := if top < a then 1 else 0

/-- The states in which BERTH_RESET is refused (R32). -/
def BerthState.resetRefused : BerthState → Bool
  | .closing | .parallel | .onShore | .returnWait | .returnParallel | .opening | .adopted => true
  | _ => false

/-- R31 issues an open command for a berth in this state. -/
def BerthState.panelOpens : BerthState → Bool
  | .parallel | .returnWait | .returnParallel => true
  | _ => false

namespace State

/-! ### Vessel orders -/

/-- DECLARE is judged against the berth's state (R28, R157). -/
def declareRefused (n : Ix) (new : Declaration) (s : State) : Option Code :=
  let b := s.berth n
  let differs := fun (test : Declaration → Bool) => match b.declaration with | some d => test d | none => false
  let supply := fun (d : Declaration) => decide (d.freq ≠ new.freq) || decide (d.cls ≠ new.cls)
  let onBoard := if differs supply then some Code.live else none
  match b.state with
  | .admitting | .syncing | .deadWait =>
    if differs fun d => supply d || decide (d.trans ≠ new.trans) then some .badState else none
  | .closing | .parallel | .onShore | .returnWait | .returnParallel | .opening => onBoard
  | .tripped => if b.breaker = .opened then none else onBoard
  | .adopted =>
    if b.declaration.isNone then
      if new.freq.bus = b.bus ∧ new.cls = s.storedClass n then none else some .live
    else onBoard
  | .vacant | .plugged | .lockedOut => none

/-- DECLARE (R157). -/
def takeDeclare (n : Ix) (freq cls tr : Byte) (h e c d : Word) (s : State) : Take :=
  let new : Declaration :=
    { freq := .ofByte freq, cls := .ofByte cls, trans := .ofByte tr, h := clampTop 6000 h.toNat, e := clampTop 20000 e.toNat,
      c := clampTop 6000 c.toNat, d := clampTop 1440 d.toNat }
  let clamped := clipped 6000 h.toNat + clipped 20000 e.toNat + clipped 6000 c.toNat + clipped 1440 d.toNat
  match s.declareRefused n new with
  | some code => refuse code s
  | none =>
    ((((s.modBerth n fun b => { b with declaration := some new, declarationAwaited := false }).modGrantBerth n fun g =>
      { g with charge := { e := new.e, d := new.d, acc := 0, warned := false } }).warnShort n),
      some (doneClamped clamped clamped 0))

/-- The checks of R7: the reason of the first that fails. -/
def connectRefused (n : Ix) (s : State) : Option Code :=
  if s.oe.held then some .held
  else
    match (s.berth n).state with
    | .parallel | .onShore | .returnWait | .returnParallel | .adopted => some .live
    | .tripped => some .tripped
    | .lockedOut => some .locked
    | .admitting | .syncing | .deadWait | .closing | .opening => some .badState
    | .vacant | .plugged =>
      if (s.berth n).declaration.isNone then some .noDeclaration
      else if s.declaredForOutlet n = false then some .voltageClass
      else if s.authorized n = false then some .notAuthorized
      else none

/-- CONNECT (R7, R9). -/
def takeConnect (n : Ix) (r : OrderRef) (minutes : Word) (s : State) : Take :=
  match s.connectRefused n with
  | some code => refuse code s
  | none => (s.enterAdmitting n r minutes.toNat, none)

/-- GEN_OPENED (R16, R17). -/
def takeGenOpened (n : Ix) (s : State) : Take :=
  match (s.berth n).state with
  | .parallel => (s.genOpened n, some (doneWith 0 0))
  | .opening | .tripped =>
    if (s.berth n).tripCause = some .parallelTimeout then refuse .tooLate s else refuse .notExpected s
  | _ => refuse .notExpected s

/-- GEN_CLOSED (R17, R19). -/
def takeGenClosed (n : Ix) (s : State) : Take :=
  match (s.berth n).state with
  | .returnWait => (s.enterReturnParallel n, some (doneWith 0 0))
  | _ => refuse .notExpected s

/-- DISCONNECT (R18). -/
def takeDisconnect (n : Ix) (r : OrderRef) (tr : Byte) (s : State) : Take :=
  match (s.berth n).state with
  | .onShore | .adopted =>
    if tr = 0 then (s.enterReturnWait n r, none)
    else ((s.enterOpening n .ret).modBerth n fun b => { b with consenting := some r }, none)
  | .tripped => refuse .tripped s
  | .lockedOut => refuse .locked s
  | _ => refuse .badState s

/-! ### Terminal orders -/

/-- AUTHORIZE (R2, R26, R28, R122, R160). -/
def takeAuthorize (n : Ix) (prio : Byte) (cap : Word) (s : State) : Take :=
  if (s.berth n).plug = .absent then refuse .noPlug s
  else
    let stored := s.storedRating n
    let a : Authorization := { prio := prio.toNat, cap := clampTop stored cap.toNat, withdrawn := false }
    let t := ((s.modBerth n fun b => { b with authorization := some a, forcedOpen := false, authorizationAwaited := false }).rerate
      n).requeue n prio.toNat
    (t, some (doneClamped (clipped stored cap.toNat) (t.berth n).rating 0))

/-- The effects of WITHDRAW without force (R26): RETURN_ADVICE WITHDRAWN 1 to Vn. -/
def withdrawAuthorization (n : Ix) (s : State) : State :=
  let t := (s.modBerth n fun b =>
    { b with authorization := b.authorization.map fun a => { a with withdrawn := true } }).notify (.v n) .returnAdvice (some n)
      1 0
  if (s.berth n).state.isWaiting then t.failWaiting n .notAuthorized .plugged else t

/-- The berth is opened by force (R26): RETURN_ADVICE FORCED_OPEN 2 to Vn. -/
def forceOpen (n : Ix) (s : State) : State :=
  (((s.failConsenting n .forcedOpen).modBerth n fun b => { b with forcedOpen := true }).enterOpening n .force).notify (.v n)
    .returnAdvice (some n) 2 0

/-- WITHDRAW (R26, R161). With force the RETURN_ADVICE WITHDRAWN goes to Vn before FORCED_OPEN: no rule orders the two, and the
content left is FORCED_OPEN (DESIGN CHOICE, log entry 48). -/
def takeWithdraw (n : Ix) (force : Byte) (s : State) : Take :=
  let t := s.withdrawAuthorization n
  if force = 1 ∧ (s.isLive n = true ∨ (s.berth n).state = .closing) then (t.forceOpen n, some (doneWith 1 0))
  else (t, some (doneWith 0 0))

/-- SET_RESERVE (R162). -/
def takeSetReserve (value : Word) (s : State) : Take :=
  let rt := clampTop s.feeder value.toNat
  (s.modGe fun g => { g with reserve := rt }, some (doneClamped (clipped s.feeder value.toNat) rt 0))

/-- The berth whose entry stands at an index is in use, so the entry is not written (R163). -/
def entryBlocked (s : State) (i : Nat) : Bool :=
  match berthOfEntry i with
  | some n =>
    match (s.berth n).state with
    | .vacant | .plugged | .tripped | .lockedOut => false
    | _ => true
  | none => false

/-- What the write of an entry sets off at once (R2, R71, R93, R183): L, O, the lapses of W, and what the berths do next under
a new W or a new window limit, all of it before the next value of the run is written (R163, R184). At a write of W the next
check is chosen first, and the berths that lapse are warned and tripped from B0 to B5: no rule orders them, and the CHECK and TRIP
contents left at port T are those of the highest berth (DESIGN CHOICE, log entry 49). -/
def entryWritten (i : Nat) (s : State) : State :=
  if i = 0 ∨ i = 1 then s.reformCeiling
  else if i = 6 then (s.chooseCheck.forEach Ix.all fun n t => t.lapse n).follow
  else if i = 9 ∨ i = 10 ∨ i = 11 then s.follow
  else if i < 40 then s
  else if i % 4 = 0 then match berthOfEntry i with | some n => s.rerate n | none => s
  else s

/-- One value is clamped to its entry's range and stored (R184). -/
def storeEntry (i v : Nat) (s : State) : State := (s.modTable fun l => l.set i (entryClamp i v)).entryWritten i

/-- A run of values from an index; `stored` and `clamped` count those before it (R163). -/
def writeRun : Nat → List Nat → Nat → Nat → State → State × Status
  | _, [], stored, clamped, s => (s, doneClamped clamped clamped stored)
  | i, v :: rest, stored, clamped, s =>
    if 63 < i then (s, { verdict := .failed, code := .runOverrun, d1 := stored, d2 := clamped })
    else if s.entryBlocked i then (s, { verdict := .failed, code := .live, d1 := i, d2 := stored })
    else writeRun (i + 1) rest (stored + 1) (clamped + if entryOk i v then 0 else 1) (s.storeEntry i v)

/-- SET_PARAMETER (R163, R184). -/
def takeSetParameter (start count : Byte) (values : List Word) (s : State) : Take :=
  let (t, st) := writeRun start.toNat ((values.take count.toNat).map BitVec.toNat) 0 0 s
  (t, some st)

/-- MODULE_SERVICE (R84, R85, R164). -/
def takeModuleService (module direction : Byte) (s : State) : Take :=
  let m := (Ix.ofNat? module.toNat).getD .i0
  let (t, st) := if direction = 0 then s.moduleIn m else s.moduleOut m
  (t, some st)

/-- CHECK_BERTH (R60, R165). -/
def takeCheckBerth (n : Ix) (s : State) : Take :=
  if (s.berth n).plug = .absent then refuse .noPlug s
  else
    let st :=
      match s.filing n with
      | .appended => doneWith (s.cs.queue.length + 1) 0
      | .merged => doneWith (s.cs.queue.idxOf n + 1) 1
      | .inFlight => doneWith 0 2
    (s.fileRequest n, some st)

/-- ACK_TRIP (R23). -/
def takeAckTrip (n : Ix) (s : State) : Take :=
  let b := s.berth n
  if b.state ≠ .tripped then refuse .badState s
  else if b.stuck = true ∨ b.breaker ≠ .opened then refuse .stuck s
  else if b.plug = .present then
    (s.modBerth n fun b => { b with state := .plugged, tripCause := none }, some (doneWith 0 0))
  else (s.enterVacant n, some (doneWith 0 0))

/-- LOCKOUT on (R27). -/
def takeLockoutOn (n : Ix) (s : State) : Take :=
  match (s.berth n).state with
  | .vacant | .plugged => (s.modBerth n fun b => { b with state := .lockedOut }, some (doneWith 0 0))
  | .admitting | .syncing | .deadWait => (s.failWaiting n .locked .lockedOut, some (doneWith 0 0))
  | .closing | .parallel | .onShore | .returnWait | .returnParallel | .adopted => refuse .live s
  | .opening | .tripped => refuse .badState s
  | .lockedOut => (s, some (doneWith 0 0))

/-- LOCKOUT off (R27). A berth that goes to VACANT is cleared (R25). -/
def takeLockoutOff (n : Ix) (s : State) : Take :=
  let t :=
    if (s.berth n).state = .lockedOut then
      if (s.berth n).plug = .present then s.modBerth n fun b => { b with state := .plugged } else s.enterVacant n
    else s
  (t, some (doneWith 0 0))

/-- RELEASE (R166). -/
def takeRelease (s : State) : Take :=
  if s.oe.held = false then (s, some (doneWith 0 0))
  else if s.cs.roundClosed then (s.releasePart, some (doneWith 0 0))
  else (s.modOrders .t fun po => { po with timer := some Config.releaseLimit }, none)

/-- BERTH_RESET (R32). -/
def takeBerthReset (n : Ix) (s : State) : Take :=
  if (s.berth n).state.resetRefused then refuse .live s
  else
    let t := if (s.berth n).state.isWaiting then s.failWaiting n .reset .plugged else s
    (((t.resetSequence n).clearParts n).resetFlags n, some (doneWith 0 0))

/-! ### PANEL_RESET (R154, R167) -/

/-- R31 for one berth; the admission, the claim and the order of a waiting berth are gone with it. -/
def panelBerth (n : Ix) (s : State) : State :=
  match (s.berth n).state with
  | .admitting | .syncing | .deadWait => s.abandon n .plugged
  | .closing => s.modBerth n fun b => { b with adoptOnClose := true }
  | .parallel | .returnWait | .returnParallel => s.enterOpening n .panel
  | .onShore | .adopted => s.enterAdopted n
  | .opening | .tripped | .lockedOut | .vacant | .plugged => s

/-- The Phase Reference Unit at PANEL_RESET: FREE at 60.000 Hz, no claim, no window (R54). -/
def resetReference (s : State) : State :=
  (s.modPru fun u =>
    { u with holder := none, waiting := [],
             ships := u.ships.map fun p => { p with window := .inactive, settle := none } }).freeReference

/-- The completion of a chain is passed to the Link Unit (R144). -/
def passCompletion (p : Port) (c : Chain) (s : State) : State :=
  s.send p (.completion c.count (c.orders.map Slot.statusRecord))

/-- Every chain of a port ends with its unended orders CANCELLED, and its completions are passed in queue order. -/
def endPort (code : Code) (p : Port) (s : State) : State :=
  (s.forEach (s.orders p).queue fun c t => t.passCompletion p (c.cancelRest code)).modOrders p fun po =>
    { po with queue := [], timer := none }

/-- The chains ended by PANEL_RESET besides its own (R167). -/
def otherChains (s : State) : Nat := (Port.all.map fun p => (s.orders p).queue.length).sum - 1

/-- The blocks at PANEL_RESET but the Order Engine and the Link Unit (R31, R54, R70, R87, R102, R121). The berths come in turn,
B0 to B5, and an adopted one trims both sets before the next is reached: no rule orders them (DESIGN CHOICE, log entry 38). -/
def panelBlocks (s : State) : State :=
  (((s.modGe fun g => { g with queue := [] }).modCp fun u => { u with stopCount := 0 }).resetReference.resetScanner).forEach
    Ix.all panelBerth

/-- PANEL_RESET (R154): the Link Unit's flags, the chains with its own completed first, the flags, HELD, then the blocks. -/
def takePanelReset (r : OrderRef) (s : State) : Take :=
  let opens := countSix fun n => (s.berth n).state.panelOpens
  let st := doneWith s.otherChains opens
  let t : State :=
    { s with
      link := s.link.map fun lp =>
        { lp with notices := lp.notices.mapAll fun _ x => { x with flag := false, latest := none } } }
  let t := t.endOrder r st
  let t := (Port.t :: Ix.all.map Port.v).foldl (fun u p => u.endPort .reset p) t
  let t := t.modOe fun oe => { oe with flags := .ofFn fun _ => ⟨.clear, .clear⟩, held := true }
  let t := t.forEach Ix.all fun n u => u.modBerth n fun b => { b with consenting := none, returnForced := false }
  (t.panelBlocks, none)

/-! ### Common orders -/

/-- RAISE_FLAG (R151, R168). -/
def takeRaiseFlag (n : Ix) (flag : Byte) (s : State) : Take :=
  let second := decide (flag = 1)
  let st :=
    match (s.flag n second).effect with
    | .becameSet => doneWith 0 0
    | .handedOver p => doneWith 1 p.code
    | .alreadySet => doneWith 2 0
  (s.flagEvent n second, some st)

/-- WAIT_FLAG (R152, R169). -/
def takeWaitFlag (n : Ix) (p : Port) (flag : Byte) (limit : Word) (s : State) : Take :=
  let second := decide (flag = 1)
  let f := s.flag n second
  if f.isSet then (s.setFlag n second { f with isSet := false }, some (doneWith 0 0))
  else (s.setFlag n second { f with waiters := f.waiters ++ [{ port := p, left := limit.toNat }] }, none)

/-- Condition 9 for PROVE_CLOSE (R171). -/
def proveAdmitted (s : State) (n : Ix) : Bool :=
  s.isAdmitted n || s.isLive n ||
    match s.ge.queue with
    | [] => s.admissionTest n
    | e :: _ =>
      if e.berth = n then s.admissionTest n
      else !(s.ge.queue.any fun x => decide (x.berth = n)) && s.admissionTest n

/-- Condition 11 for PROVE_CLOSE (R49). -/
def proveTransition (s : State) (n : Ix) : Bool :=
  match (s.berth n).declaration with
  | none => false
  | some d =>
    if d.trans = .closed ∧ (s.ship n).side ≠ .dead then s.windowMet n else decide ((s.berth n).deadCount = .completed)

/-- The eleven conditions in number order (R6, R170, R171). -/
def conditions (s : State) (n : Ix) : List Bool :=
  [!s.oe.held, decide ((s.berth n).plug = .present),
    decide ((s.berth n).state ≠ .tripped) && decide ((s.berth n).state ≠ .lockedOut), s.declaredForOutlet n, s.authorized n,
    s.selectorReady n, s.busAvailable n, s.fresh n, s.proveAdmitted n, s.capacityOnline n, s.proveTransition n]

/-- The number of the first condition that fails, 0 when none does (R170). -/
def firstFailing (s : State) (n : Ix) : Nat :=
  match (s.conditions n).findIdx? fun c => !c with
  | some i => i + 1
  | none => 0

/-- PROVE_CLOSE (R170): it changes nothing. -/
def takeProveClose (n : Ix) (s : State) : Take :=
  let k := s.firstFailing n
  (s, some (doneWith k (if k = 0 then 0 else 11 - k)))

/-- DELAY (R172). -/
def takeDelay (p : Port) (duration : Word) (s : State) : Take :=
  (s.modOrders p fun po => { po with timer := some duration.toNat }, none)

/-! ### The take (R140, R156) -/

/-- The order is handed to the block that owns its matter (R140). -/
def handOrder (r : OrderRef) (orderRec : OrderRec) (s : State) : Take :=
  let n := orderRec.berthIx r.port
  match orderRec.order with
  | .declare freq cls tr h e c d => s.takeDeclare n freq cls tr h e c d
  | .connect minutes => s.takeConnect n r minutes
  | .genOpened => s.takeGenOpened n
  | .genClosed => s.takeGenClosed n
  | .disconnect tr => s.takeDisconnect n r tr
  | .authorize prio cap => s.takeAuthorize n prio cap
  | .withdraw force => s.takeWithdraw n force
  | .setReserve value => s.takeSetReserve value
  | .setParameter start count v1 v2 v3 v4 v5 => s.takeSetParameter start count [v1, v2, v3, v4, v5]
  | .moduleService module direction => s.takeModuleService module direction
  | .checkBerth => s.takeCheckBerth n
  | .ackTrip => s.takeAckTrip n
  | .lockout on => if on = 1 then s.takeLockoutOn n else s.takeLockoutOff n
  | .release => s.takeRelease
  | .panelReset => s.takePanelReset r
  | .berthReset => s.takeBerthReset n
  | .raiseFlag flag => s.takeRaiseFlag n flag
  | .waitFlag flag limit => s.takeWaitFlag n r.port flag limit
  | .proveClose => s.takeProveClose n
  | .delay duration => s.takeDelay r.port duration
  | .unknown _ => refuse .badArgument s

/-- The take of an order that has become RUNNING: the common checks, then the owning block's (R156). -/
def takeRunning (r : OrderRef) (orderRec : OrderRec) (s : State) : Take :=
  match orderRec.commonCheck r.port with
  | some code => refuse code s
  | none => s.handOrder r orderRec

/-- An order becomes RUNNING (R140). -/
def markRunning (r : OrderRef) (s : State) : State :=
  s.modOrders r.port fun po =>
    { po with queue := modChain r.serial (Chain.modSlot r.pos fun sl => { sl with status := .running s.now }) po.queue }

/-- An order ends at its take, or runs on. -/
def finishTake (r : OrderRef) : Take → State
  | (t, some st) => t.endOrder r st
  | (t, none) => t

/-- An order is taken (R140). -/
def takeOrder (r : OrderRef) (orderRec : OrderRec) (s : State) : State :=
  finishTake r ((s.markRunning r).takeRunning r orderRec)

end State

end Sys2Proof.Machine
end

