-- ==== Sys2Proof/Machine/Settle.lean ====
section
/-! DEFINITION. What follows an event at the same instant: the berth rules of Machine/Follow.lean, the completion of chains and
the taking of orders (R140, R144, R145). -/

namespace Sys2Proof.Machine

/-- The order is a report of the ship's generator breaker. -/
def Order.isReport : Order → Bool
  | .genOpened | .genClosed => true
  | _ => false

namespace State

/-! ### What a port does next -/

/-- The head chain is complete: its completion is passed, its slots are freed, and it leaves the queue (R144). -/
def completeHead (p : Port) (c : Chain) (s : State) : State :=
  (s.passCompletion p c).modOrders p fun po => { po with queue := po.queue.tail }

/-- The order of a chain that is taken next: its first that has not been taken. -/
def nextOrder (p : Port) (c : Chain) : Option (OrderRef × OrderRec) :=
  (positionOf (fun sl => decide (sl.status = .notTaken)) c.orders).bind fun pos =>
    (c.slot? pos).map fun sl => ({ port := p, serial := c.serial, pos }, sl.record)

/-- The early take of R145: the first order of the second chain, a report not taken, while the running order is the berth's
consenting order. -/
def earlyReport (p : Port) (running : OrderRef) (s : State) : Option (OrderRef × OrderRec) :=
  match p, (s.orders p).queue with
  | .v n, _ :: { serial, orders := { record, status := .notTaken } :: _, .. } :: _ =>
    if (s.berth n).consenting = some running ∧ record.order.isReport = true then some ({ port := p, serial, pos := 1 }, record)
    else none
  | _, _ => none

/-- The next thing a port does at this instant: complete its head chain, take an early report, or take the next order
(R140, R144, R145). While an order of port T runs no other of its orders is taken, as R140 says; so a PANEL_RESET behind a running
RELEASE waits for its end, and the meetings of the two in which R154, R166 and R187 end the RELEASE CANCELLED do not come about
(DESIGN CHOICE, log entry 59). -/
def portNext (p : Port) (s : State) : Option State :=
  match (s.orders p).queue with
  | [] => none
  | c :: _ =>
    if c.allEnded then some (s.completeHead p c)
    else
      match s.running? p with
      | some (r, _) => (s.earlyReport p r).map fun x => s.takeOrder x.1 x.2
      | none => (nextOrder p c).map fun x => s.takeOrder x.1 x.2

/-! ### Settling -/

/-- The next thing that follows at this instant: a berth's, in berth order, then a port's (log entry 5). -/
def react (s : State) : Option State :=
  match s.berthReact with
  | some t => some t
  | none => Port.all.findSome? fun p => s.portNext p

/-- At most `k` followers. -/
def settleUpTo : Nat → State → State
  | 0, s => s
  | k + 1, s =>
    match s.react with
    | some t => settleUpTo k t
    | none => s

/-- Everything that follows an event at the same instant (log entries 5 and 20). -/
def settle (s : State) : State := settleUpTo Config.settleFuel s

end State

end Sys2Proof.Machine
end

