-- ==== Sys2Proof/Machine/Tables.lean ====
section
/-! DEFINITION. The READ tables (sections 10.4 and 10.6): every record as the bytes that a READ_REPLY carries. -/

namespace Sys2Proof.Machine

/-! ### Fields (section 10.6; markers by log entry 11) -/

/-- A one-byte number. -/
def byteOf (a : Nat) : Byte := BitVec.ofNat 8 a

/-- A two-byte number, high byte first. -/
def wordBytes (a : Nat) : List Byte := [byteOf (a / 256), byteOf a]

/-- A four-byte number, high byte first. -/
def longBytes (a : Nat) : List Byte := wordBytes (a / 65536) ++ wordBytes (a % 65536)

/-- A marker: 1 while it is set. -/
def flagByte (b : Bool) : Byte := if b then 1 else 0

/-- An optional one-byte field: 255 when absent. -/
def optByte (a : Option Nat) : Byte := byteOf (a.getD 255)

/-- An optional two-byte field: 65,535 when absent. -/
def optWord (a : Option Nat) : List Byte := wordBytes (a.getD 65535)

/-- A list of berths in a fixed number of bytes. Each place beyond the end of the list carries 255: section 10.6 gives that number to
an absent optional field and does not say what such a place carries (DESIGN CHOICE, log entry 58). -/
def berthList (k : Nat) (l : List Ix) : List Byte :=
  (List.range k).map fun i => optByte ((l[i]?).map Ix.toNat)

/-- Positions in the lists of the manual. -/
def BerthState.index : BerthState → Nat
  | .vacant => 0 | .plugged => 1 | .admitting => 2 | .syncing => 3 | .deadWait => 4 | .closing => 5 | .parallel => 6
  | .onShore => 7 | .returnWait => 8 | .returnParallel => 9 | .opening => 10 | .tripped => 11 | .adopted => 12 | .lockedOut => 13

/-- Position of a breaker field in R1. -/
def Breaker.index : Breaker → Nat
  | .opened => 0 | .closeSent => 1 | .closed => 2 | .openSent => 3

/-- Position of a bus in R1. -/
def busIndex : Bus → Nat
  | .none => 0 | .a => 1 | .b => 2

/-- Position of an approach in R1. -/
def Approach.index : Approach → Nat
  | .sync => 0 | .dead => 1

/-- Position of an opening purpose in R1. -/
def Purpose.index : Purpose → Nat
  | .ret => 0 | .force => 1 | .trip => 2 | .panel => 3

/-- Position of a ship-side state in R34. -/
def ShipSide.index : ShipSide → Nat
  | .dead => 0 | .between => 1 | .live => 2

/-- Position of a window state in R34. -/
def Window.index : Window → Nat
  | .inactive => 0 | .deferred => 1 | .outside => 2 | .settling => 3 | .held => 4

/-- A declared frequency as 50 or 60. Section 10.6 says so of the argument of DECLARE alone; that the frequency byte of a BERTH
record holds the same number, not a position in a list, is the model's reading (DESIGN CHOICE, log entry 51). -/
def Freq.number : Freq → Nat
  | .f50 => 50 | .f60 => 60

/-- Position of a voltage class in R1. -/
def VClass.index : VClass → Nat
  | .lv440 => 0 | .mv6600 => 1 | .mv11000 => 2

/-- Position of a transition in R1. -/
def Transition.index : Transition → Nat
  | .closed => 0 | .opened => 1

/-- Position of a module state in R73. -/
def ModuleState.index : ModuleState → Nat
  | .off => 0 | .starting => 1 | .online => 2 | .stopping => 3 | .faulted => 4 | .outOfService => 5

/-- Position of a fault cause in R73. -/
def FaultCause.index : FaultCause → Nat
  | .startFail => 0 | .tripped => 1

/-- Position of a check status in R56. -/
def CheckStatus.index : CheckStatus → Nat
  | .none => 0 | .inFlight => 1 | .passed => 2 | .failed => 3

/-- Position of a status before flight in R56. -/
def BeforeFlight.index : BeforeFlight → Nat
  | .none => 0 | .passed => 1 | .failed => 2

/-- Position of a check mode in R56. -/
def CheckMode.index : CheckMode → Nat
  | .dead => 0 | .live => 1

/-- Position of a check origin in R58. -/
def CheckOrigin.index : CheckOrigin → Nat
  | .request => 0 | .round => 1

/-- Position of a scanner state in R58. -/
def Scanner.index : Scanner → Nat
  | .idle => 0 | .running _ => 1 | .faulted => 2

/-- Position of a ceiling state in R89. -/
def CeilingState.index : CeilingState → Nat
  | .noneReceived => 0 | .current => 1 | .stale => 2

/-- Position of a reference mode in R34. -/
def RefMode.index : RefMode → Nat
  | .free => 0 | .follow _ => 1 | .ret => 2

/-! ### Records -/

/-- The markers byte of a BERTH record. -/
def Berth.markers (b : Berth) : Byte :=
  byteOf ((if b.stuck then 1 else 0) + (if b.forcedOpen then 2 else 0) + (if b.declarationAwaited then 4 else 0) +
    if b.authorizationAwaited then 8 else 0)

/-- The CHARGE record of a berth, 14 bytes. -/
def GrantBerth.chargeRecord (g : GrantBerth) : List Byte :=
  wordBytes g.charge.e ++ wordBytes g.charge.d ++ wordBytes g.charge.acc ++ [flagByte g.charge.warned] ++
    optWord (g.reading.map Prod.fst) ++ optWord (g.reading.map Prod.snd) ++
    [flagByte g.sinceAdoption, byteOf g.overGrant, byteOf g.overRating]

/-- The CHECK record of a berth, 8 bytes. -/
def CheckRec.record (c : CheckRec) : List Byte :=
  [byteOf c.status.index, optByte (c.before.map BeforeFlight.index), optByte (c.mode.map CheckMode.index)] ++
    wordBytes c.age ++ optWord c.resistance ++ [flagByte c.lapseWarned]

/-- The MODULE record of a module, 7 bytes. -/
def Converter.record (c : Converter) : List Byte :=
  [byteOf c.state.index, optByte (c.cause.map FaultCause.index), flagByte c.outPending] ++ longBytes c.seconds

/-- The NOTICE record of a class, 9 bytes: SET 0 and CLEAR 1, MASKED 0 and UNMASKED 1 by their lists in R179. The byte `content
present` is 1 for present (DESIGN CHOICE, log entry 56). -/
def NoticeSlot.record (x : NoticeSlot) : List Byte :=
  [flagByte !x.flag, flagByte !x.masked, flagByte x.latest.isSome,
    optByte (x.latest.bind fun c => c.berth.map Ix.toNat), optByte (x.latest.bind Notice.code)] ++
    optWord (x.latest.map Notice.value) ++ optWord (x.latest.map Notice.period)

/-- Filled with zeros to 40 bytes (section 10.6). -/
def pad40 (l : List Byte) : List Byte := l ++ List.replicate (40 - l.length) 0

namespace State

/-- The BERTH record of a berth, 33 bytes (section 10.6). Its frequency byte is 50 or 60 (DESIGN CHOICE, log entry 51), and the bytes
`declaration present` and `authorization present` are 1 for present (DESIGN CHOICE, log entry 56). -/
def berthRecord (s : State) (n : Ix) : List Byte :=
  let b := s.berth n
  [byteOf b.state.index, byteOf (if b.plug = .present then 0 else 1), flagByte b.moving, byteOf (busIndex b.bus),
    byteOf b.breaker.index, optByte (b.approach.map Approach.index), optByte (b.purpose.map Purpose.index),
    optByte (b.tripCause.map TripCause.index), b.markers, flagByte !b.permit, byteOf (s.ship n).side.index,
    byteOf (s.ship n).window.index] ++
  (match b.consenting with | some r => [byteOf r.port.code, optByte ((s.chain? r.port r.serial).map Chain.count)] | none => [255, 255]) ++
  [flagByte b.declaration.isSome, optByte (b.declaration.map fun d => d.freq.number),
    optByte (b.declaration.map fun d => d.cls.index), optByte (b.declaration.map fun d => d.trans.index)] ++
  optWord (b.declaration.map Declaration.h) ++ optWord (b.declaration.map Declaration.e) ++
  optWord (b.declaration.map Declaration.c) ++ optWord (b.declaration.map Declaration.d) ++
  [flagByte b.authorization.isSome, optByte (b.authorization.map Authorization.prio)] ++
  optWord (b.authorization.map Authorization.cap) ++
  [optByte (b.authorization.map fun a => if a.withdrawn then 1 else 0)] ++ wordBytes b.rating

/-- The GRANT record of a berth in a set, 8 bytes. -/
def grantRecord (s : State) (g : GrantSet) (n : Ix) : List Byte :=
  let r := g.recs.get n
  wordBytes r.firm ++ wordBytes r.flexible ++ wordBytes r.share ++ [byteOf (busIndex r.bus), flagByte (s.isAdmitted n)]

/-- STATUS record 0: part and grid. The staleness seconds left are shown absent, 65,535, while the timer is stopped (DESIGN
CHOICE, log entry 36). -/
def statusGrid (s : State) : List Byte :=
  [flagByte s.oe.held] ++ wordBytes s.ge.period ++ [byteOf s.gi.state.index] ++ optWord s.gi.received ++
    wordBytes s.gi.ceiling ++ optWord s.gi.staleness ++
    [flagByte !s.gi.shedLine, flagByte s.gi.shed.isSome, optByte (s.gi.shed.map ShedMode.number)] ++ wordBytes s.ge.reserve

/-- STATUS record 1: grants and admission. -/
def statusGrants (s : State) : List Byte :=
  wordBytes s.ge.active.a ++ wordBytes s.ge.active.effective ++ wordBytes s.ge.active.eta ++
    wordBytes s.ge.staged.effective ++ wordBytes s.ge.staged.a ++ wordBytes s.ge.staged.eta ++
    [flagByte s.ge.staged.pending, flagByte s.ge.overCeiling, flagByte s.ge.overCapacity] ++
    berthList 6 (s.ge.queue.map QueueEntry.berth)

/-- STATUS record 2: converter pool; the start circuit is busy while a module is STARTING, and its byte is 1 for busy and 0 for
free (DESIGN CHOICE, log entry 41). -/
def statusPool (s : State) : List Byte :=
  wordBytes s.busBCapacity ++
    [byteOf s.available, byteOf s.cp.target, byteOf s.cp.stopCount, byteOf s.cp.pointer.toNat, flagByte (decide (0 < s.starting))]

/-- STATUS record 3: check scanner. The byte `round closed` is 1 for closed (DESIGN CHOICE, log entry 56). -/
def statusScanner (s : State) : List Byte :=
  [byteOf s.cs.scanner.index, optByte (s.inFlight.map fun c => c.berth.toNat), optByte (s.inFlight.map fun c => c.mode.index),
    optByte (s.inFlight.map fun c => c.origin.index)] ++
  berthList 6 s.cs.queue ++ [byteOf s.cs.pointer.toNat, flagByte s.cs.roundClosed] ++ berthList 6 s.cs.roundList

/-- STATUS record 4: phase reference. The byte of bus B in use is 1 for yes and 0 for no: R34 lists `yes, no`, and section 10.6 does
not say whether the byte is a marker or a position (DESIGN CHOICE, log entry 44). -/
def statusReference (s : State) : List Byte :=
  [flagByte !s.pru.busAPresent, flagByte s.pru.busBInUse, byteOf s.pru.mode.index,
    optByte (match s.pru.mode with | .follow n => some n.toNat | .free | .ret => none)] ++
  wordBytes s.pru.frequency ++ [optByte (s.pru.holder.map fun r => r.berth.toNat)] ++
  berthList 6 (s.pru.waiting.map ClaimRequest.berth)

/-- The five bytes of a port in STATUS record 5: the chain count, then four tag counts. A tag count beyond the chain count is 255, a
number that the tag count of a chain can have as well (DESIGN CHOICE, log entry 58). -/
def portTags (s : State) (p : Port) : List Byte :=
  byteOf (s.orders p).queue.length :: (List.range 4).map fun i => optByte (((s.orders p).queue[i]?).map Chain.count)

/-- STATUS record 5: order store and queues, T first. -/
def statusOrders (s : State) : List Byte :=
  byteOf s.freeSlots :: (.t :: Ix.all.map Port.v).flatMap s.portTags

/-- The three bytes of a flag in STATUS record 6. The port of a waiter that is not there is 255 (DESIGN CHOICE, log entry 58). -/
def flagRecord (f : SyncFlag) : List Byte :=
  [flagByte f.isSet, optByte ((f.waiters[0]?).map fun w => w.port.code), optByte ((f.waiters[1]?).map fun w => w.port.code)]

/-- STATUS record 6: sync flags. -/
def statusFlags (s : State) : List Byte := Ix.all.flatMap fun n => flagRecord (s.flag n false) ++ flagRecord (s.flag n true)

end State

/-! ### Tables as a port sees them (R177, R178) -/

/-- The tables, in the order of their table bytes. -/
inductive Table where
  | berth | module | grant | charge | check | parameter | notice | status
  deriving DecidableEq, Repr

/-- The table a byte names (section 10.6). -/
def Table.ofByte (b : Byte) : Option Table :=
  match b.toNat with
  | 0 => some .berth | 1 => some .module | 2 => some .grant | 3 => some .charge | 4 => some .check | 5 => some .parameter
  | 6 => some .notice | 7 => some .status | _ => none

/-- The table is readable from the port (R178). -/
def Table.readable (p : Port) (t : Table) : Bool :=
  match p, t with
  | .v _, .module | .v _, .parameter => false
  | _, _ => true

/-- The length of a record (section 10.6). -/
def Table.width : Table → Nat
  | .berth => 33 | .module => 7 | .grant => 8 | .charge => 14 | .check => 8 | .parameter => 2 | .notice => 9 | .status => 40

namespace State

/-- The berths whose records a port sees. -/
def visible (p : Port) : List Ix :=
  match p with
  | .t => Ix.all
  | .v n => [n]

/-- The records of a table as a port sees them, in index order (R177, R178). -/
def tableRecords (s : State) (p : Port) : Table → List (List Byte)
  | .berth => (visible p).map s.berthRecord
  | .module => Ix.all.map fun m => (s.converter m).record
  | .grant => (visible p).map (s.grantRecord s.ge.active) ++ (visible p).map (s.grantRecord s.ge.staged)
  | .charge => (visible p).map fun n => (s.grantBerth n).chargeRecord
  | .check => (visible p).map fun n => (s.check n).record
  | .parameter => s.table.map wordBytes
  | .notice => NoticeClass.all.map fun cls => ((s.port p).notices.get cls).record
  | .status =>
    [s.statusGrid, s.statusGrants, s.statusPool, s.statusScanner, s.statusReference, s.statusOrders, s.statusFlags].map pad40

/-- The answer to a READ (R177). -/
def readAnswer (s : State) (p : Port) (table start count : Byte) : TxFrame :=
  match Table.ofByte table with
  | none => .reject 3 .badTable
  | some t =>
    if t.readable p = false then .reject 3 .notPermitted
    else
      let records := s.tableRecords p t
      if records.length ≤ start.toNat then .reject 3 .badIndex
      else
        let k := min count.toNat (min (records.length - start.toNat) (237 / t.width))
        .readReply table.toNat start.toNat k ((records.drop start.toNat).take k).flatten

end State

end Sys2Proof.Machine
end

