-- ==== Sys2Proof/Machine/Frames.lean ====
section
/-! DEFINITION. Frames of the framed ports (chapter 10): the CRC, the receive state, the handling of intact frames, chains
and cancels (sections 8.2 and 8.7), and the bytes of every frame. -/

namespace Sys2Proof.Machine

/-! ### The CRC (R174) -/

/-- One bit of the CRC with generator x^16 + x^12 + x^5 + 1, most significant bit first. -/
def crcBit (crc : BitVec 16) : BitVec 16 := if crc.getLsbD 15 then (crc <<< 1) ^^^ 0x1021 else crc <<< 1

/-- One byte of the CRC. -/
def crcByte (crc : BitVec 16) (b : Byte) : BitVec 16 :=
  crcBit (crcBit (crcBit (crcBit (crcBit (crcBit (crcBit (crcBit (crc ^^^ (b ++ (0 : Byte))))))))))

/-- The CRC of a list of bytes, from 65,535. -/
def crc16 (bytes : List Byte) : BitVec 16 := bytes.foldl crcByte 0xFFFF

/-- The CRC of a frame is computed over its kind, its length and its payload. -/
def frameCrc (kind : Byte) (payload : List Byte) : BitVec 16 := crc16 (kind :: byteOf payload.length :: payload)

/-- A frame as it is sent: start, kind, length, payload, CRC high byte first (R174). -/
def frameBytes (kind : Byte) (payload : List Byte) : List Byte :=
  [Config.startByte, kind, byteOf payload.length] ++ payload ++
    [Word.hi (frameCrc kind payload), Word.lo (frameCrc kind payload)]

/-! ### The frames that the part sends (section 10.6) -/

/-- The number of a reject reason. -/
def Reject.number : Reject → Nat
  | .badKind => 1 | .badFrame => 2 | .queueFull => 3 | .storeFull => 4 | .notPermitted => 5 | .unknownTag => 6
  | .badTable => 7 | .badIndex => 8

/-- The position of an outcome. -/
def Verdict.index : Verdict → Nat
  | .done => 0 | .refused => 1 | .failed => 2 | .cancelled => 3 | .skipped => 4

/-- The number of a code: 0 for none, then 1 to 30 in the order of R141. -/
def Code.number : Code → Nat
  | .none => 0 | .badArgument => 1 | .badState => 2 | .live => 3 | .held => 4 | .notPermitted => 5 | .noPlug => 6
  | .tripped => 7 | .locked => 8 | .noDeclaration => 9 | .voltageClass => 10 | .notAuthorized => 11 | .noHeadroom => 12
  | .checkFailed => 13 | .syncTimeout => 14 | .deadTimeout => 15 | .parallelTimeout => 16 | .returnTimeout => 17
  | .tooLate => 18 | .notExpected => 19 | .breakerFail => 20 | .pilotLost => 21 | .cancelled => 22 | .reset => 23
  | .capacityNeeded => 24 | .runOverrun => 25 | .waitTimeout => 26 | .stuck => 27 | .forcedOpen => 28 | .clamped => 29
  | .returnForced => 30

/-- A status record, 6 bytes. -/
def Status.record (st : Status) : List Byte := [byteOf st.verdict.index, byteOf st.code.number] ++ wordBytes st.d1 ++ wordBytes st.d2

/-- The kind byte of a frame that the part sends. -/
def TxFrame.kind : TxFrame → Byte
  | .accept .. => 129 | .reject .. => 130 | .completion .. => 131 | .readReply .. => 132 | .notice .. => 133

/-- The payload of a frame that the part sends on a port. -/
def TxFrame.payload (p : Port) : TxFrame → List Byte
  | .accept count free => [byteOf p.code, byteOf count, byteOf free]
  | .reject kind reason => [kind, byteOf reason.number]
  | .completion count records => [byteOf p.code, byteOf count, byteOf records.length] ++ records.flatMap Status.record
  | .readReply table start count records => [byteOf table, byteOf start, byteOf count] ++ records
  | .notice cls content =>
    [byteOf cls.index, optByte (content.berth.map Ix.toNat), optByte content.code] ++ wordBytes content.value ++
      wordBytes content.period

/-- The bytes of a frame that the part sends on a port. -/
def TxFrame.bytes (p : Port) (f : TxFrame) : List Byte := frameBytes f.kind (f.payload p)

/-! ### The receive state (R174) -/

/-- What a received byte brings: the next receive state, and a frame that is complete. -/
inductive Received where
  | state (r : Receive)
  | frame (kind : Byte) (payload : List Byte) (good : Bool)
  deriving DecidableEq, Repr

/-- The payload is gathered: go on with it, or with the CRC. -/
def payloadState (kind len : Byte) (got : List Byte) : Receive :=
  if got.length < len.toNat then .payload kind len got else .crcHigh kind got

/-- The receive state moves with a byte (R174). -/
def Receive.next (b : Byte) : Receive → Received
  | .hunt => .state (if b = Config.startByte then .kind else .hunt)
  | .kind => .state (.length b)
  | .length k => .state (if Config.maxPayload < b.toNat then .hunt else payloadState k b [])
  | .payload k len got => .state (payloadState k len (got ++ [b]))
  | .crcHigh k got => .state (.crcLow k got b)
  | .crcLow k got high => .frame k got (Word.ofBytes high b == frameCrc k got)

/-- The classes a class-set byte names (section 10.6). -/
def NoticeClass.named (set : Byte) (cls : NoticeClass) : Bool := set.getLsbD cls.index

/-- A class that a port's NOTICE_CLEAR and NOTICE_SET act on: not CEILING or MODULE on a vessel port (R180). -/
def NoticeClass.actsOn (p : Port) (cls : NoticeClass) : Bool :=
  match p, cls with
  | .v _, .ceiling | .v _, .module => false
  | _, _ => true

namespace State

/-- The receive state of a port. -/
def setReceive (p : Port) (r : Receive) (s : State) : State := s.modPort p fun lp => { lp with receive := r }

/-! ### Chains (R138, R139) -/

/-- The tag, the slots and the place at the tail of an accepted chain (R138, R139). -/
def queueChain (p : Port) (recs : List OrderRec) (s : State) : State :=
  let count := (s.orders p).rolling
  s.modOrders p fun po =>
    { po with queue := po.queue ++
                [{ serial := po.accepted, count, orders := recs.map fun x => { record := x, status := .notTaken } }]
              rolling := if 255 ≤ count then 0 else count + 1, accepted := po.accepted + 1 }

/-- A chain is accepted: its tag, its slots, its place at the tail, and the ACCEPT; the first order of a chain that is now the
head is taken at once (R138 to R140). -/
def acceptChain (p : Port) (recs : List OrderRec) (s : State) : State :=
  let count := (s.orders p).rolling
  let t := s.queueChain p recs
  let t := t.send p (.accept count t.freeSlots)
  match (s.orders p).queue, recs with
  | [], first :: _ => t.takeOrder { port := p, serial := (s.orders p).accepted, pos := 1 } first
  | _, _ => t

/-- The checks of R139 after its first. -/
def offerChain (p : Port) (recs : List OrderRec) (s : State) : State :=
  if Config.portChains ≤ (s.orders p).queue.length then s.send p (.reject 1 .queueFull)
  else if s.freeSlots < recs.length then s.send p (.reject 1 .storeFull)
  else s.acceptChain p recs

/-- A CHAIN frame (R139). -/
def handleChain (p : Port) (payload : List Byte) (s : State) : State :=
  let count := (payload.getD 0 0).toNat
  if count = 0 ∨ 8 < count ∨ payload.length ≠ 1 + 16 * count then s.send p (.reject 1 .badFrame)
  else s.offerChain p (recordsOf count payload.tail)

/-! ### Cancels (R146 to R148) -/

/-- The abort effect of a running CONNECT or DISCONNECT (R29, R148). -/
def abortBerth (n : Ix) (s : State) : State :=
  let t := s.modBerth n fun b => { b with consenting := none, returnForced := false }
  match (s.berth n).state with
  | .admitting | .syncing | .deadWait => t.abandon n .plugged
  | .returnWait => t.backFromReturn n
  | _ => t

/-- The abort effect of a running order, by its kind (R148). -/
def abortOrder (p : Port) (order : Order) (s : State) : State :=
  match order, p with
  | .connect _, .v n | .disconnect _, .v n => s.abortBerth n
  | .waitFlag .., _ => s.dropWaiter p
  | _, _ => s

/-- Every order of the head chain that has not ENDED ends CANCELLED (R147). -/
def cancelOrders (p : Port) (s : State) : State :=
  s.modOrders p fun po =>
    { po with queue := (po.queue.take 1).map (Chain.cancelRest .cancelled) ++ po.queue.drop 1, timer := none }

/-- A cancel of the head chain (R147); its completion follows as R144 gives. -/
def cancelHead (p : Port) (s : State) : State :=
  let t := s.cancelOrders p
  match s.running? p with
  | some (_, sl) => t.abortOrder p sl.record.order
  | none => t

/-- A cancel of a queued chain, the first of its count: it is complete out of turn, and no other chain is touched (R147). -/
def cancelQueued (p : Port) (c : Chain) (s : State) : State :=
  (s.passCompletion p (c.cancelRest .cancelled)).modOrders p fun po =>
    { po with queue := po.queue.eraseP fun x => decide (x.count = c.count) }

/-- A CANCEL frame (R146). Where the rolling count has come round and two chains held share the count, the tag names the head,
else the first in the queue, and that chain alone is cancelled (DESIGN CHOICE, log entry 37). -/
def handleCancel (p : Port) (payload : List Byte) (s : State) : State :=
  match payload with
  | [port, count] =>
    if port.toNat ≠ p.code then s.send p (.reject 2 .notPermitted)
    else
      match (s.orders p).queue with
      | [] => s.send p (.reject 2 .unknownTag)
      | head :: _ =>
        if head.count = count.toNat then s.cancelHead p
        else
          match (s.orders p).queue.find? fun c => decide (c.count = count.toNat) with
          | some c => s.cancelQueued p c
          | none => s.send p (.reject 2 .unknownTag)
  | _ => s.send p (.reject 2 .badFrame)

/-! ### READ and notice frames (R177, R180) -/

/-- A READ frame (R177). -/
def handleRead (p : Port) (payload : List Byte) (s : State) : State :=
  match payload with
  | [table, start, count] => s.send p (s.readAnswer p table start count)
  | _ => s.send p (.reject 3 .badFrame)

/-- NOTICE_CLEAR (R180). -/
def noticeClear (p : Port) (set : Byte) (s : State) : State :=
  s.modPort p fun lp =>
    { lp with notices := lp.notices.mapAll fun cls x =>
        if cls.named set && cls.actsOn p then { x with flag := false } else x }

/-- What NOTICE_SET sends for a class: its latest content, or a frame without one (R180). -/
def setContent (s : State) (p : Port) (cls : NoticeClass) : Notice :=
  (((s.port p).notices.get cls).latest).getD { berth := none, code := none, value := 0, period := s.ge.period }

/-- NOTICE_SET (R180). The NOTICE frames of one request that names several classes join the transmit queue in the class order of
R177: no rule orders them (DESIGN CHOICE, log entry 47). -/
def noticeSet (p : Port) (set : Byte) (s : State) : State :=
  s.forEach (NoticeClass.all.filter fun cls => cls.named set && cls.actsOn p) fun cls t =>
    t.modPort p fun lp =>
      { lp with
        notices := lp.notices.set cls { lp.notices.get cls with flag := true }
        transmit :=
          if (lp.notices.get cls).masked then lp.transmit else withNotice cls (s.setContent p cls) lp.transmit }

/-- NOTICE_MASK (R180). -/
def noticeMask (p : Port) (set : Byte) (s : State) : State :=
  s.modPort p fun lp => { lp with notices := lp.notices.mapAll fun cls x => { x with masked := cls.named set } }

/-- A notice frame: its payload is one class-set byte (R175). -/
def handleNotices (p : Port) (kind : Byte) (act : Port → Byte → State → State) (payload : List Byte) (s : State) : State :=
  match payload with
  | [set] => act p set s
  | _ => s.send p (.reject kind .badFrame)

/-! ### Handling (R175) -/

/-- The answers that wait in a port's transmit queue. -/
def answersWaiting (s : State) (p : Port) : Nat := (s.port p).transmit.countP TxFrame.isAnswer

/-- An intact frame is handled: not on a closed port, and not beyond the backlog (R173, R175). -/
def handling (p : Port) (act : State → State) (s : State) : State :=
  if (s.port p).isOpen then
    let t := s.setReceive p .hunt
    if Config.backlog ≤ s.answersWaiting p then t else act t
  else s

/-- An intact frame is dealt with by its kind (R175). -/
def byKind (p : Port) (kind : Byte) (payload : List Byte) (s : State) : State :=
  match kind.toNat with
  | 1 => s.handleChain p payload
  | 2 => s.handleCancel p payload
  | 3 => s.handleRead p payload
  | 4 => s.handleNotices p 4 noticeClear payload
  | 5 => s.handleNotices p 5 noticeSet payload
  | 6 => s.handleNotices p 6 noticeMask payload
  | _ => s.send p (.reject kind .badKind)

/-- A byte arrives on a framed port without a receive error; a closed port takes none (R173, R174). -/
def frameByte (p : Port) (b : Byte) (s : State) : State :=
  if (s.port p).isOpen then
    match (s.port p).receive.next b with
    | .state r => s.setReceive p r
    | .frame kind payload good => if good then s.handling p (byKind p kind payload) else s.setReceive p .hunt
  else s

/-- The frame in assembly is discarded (R174). -/
def dropFrame (p : Port) (s : State) : State := s.setReceive p .hunt

/-- The head of the transmit queue has been sent (R176). -/
def frameSent (p : Port) (s : State) : State := s.modPort p fun lp => { lp with transmit := lp.transmit.tail }

/-- An order row: the CHAIN frame that carries this one order (log entry 1). -/
def offerOrder (p : Port) (order : Order) (stop : Bool) (berth : Byte) (s : State) : State :=
  s.handling p (offerChain p [{ order, stop, berth }])

end State

end Sys2Proof.Machine
end

