-- ==== Sys2Proof/Machine/Events.lean ====
section
/-! DEFINITION. The field events and the expiries (chapters 1 to 8): what each does before what follows it at the same
instant. An event without its occasion changes nothing but the input it reports (log entry 4). -/

namespace Sys2Proof.Machine

/-- The dead count is running. -/
def DeadCount.isRunning : DeadCount → Bool
  | .running _ => true
  | .stopped | .completed => false

/-- The order is a WAIT_FLAG. -/
def Order.isWait : Order → Bool
  | .waitFlag .. => true
  | _ => false

/-- The limit of a WAIT_FLAG order. -/
def Order.waitLimit : Order → Nat
  | .waitFlag _ limit => limit.toNat
  | _ => 0

/-- The order is a DELAY. -/
def Order.isDelay : Order → Bool
  | .delay _ => true
  | _ => false

namespace State

/-! ### The plug (R24, R25, R149, R173) -/

/-- Port Vn opens (R149, R173, R180). -/
def openPort (n : Ix) (s : State) : State :=
  (s.modPort (.v n) fun _ => freshPort true).modOrders (.v n) fun po =>
    { po with queue := [], rolling := 0, timer := none }

/-- Port Vn closes: its chains end, its queues are empty, its rolling count is kept (R149, R173). -/
def closePort (n : Ix) (s : State) : State :=
  ((s.modPort (.v n) fun lp => { lp with isOpen := false, receive := .hunt, transmit := [] }).modOrders (.v n) fun po =>
    { po with queue := [], timer := none }).dropWaiter (.v n)

/-- The plug of a berth becomes present with a ship-side voltage (R24, R35, R52, R56, R66). -/
def plugIn (n : Ix) (voltage : Nat) (s : State) : State :=
  let t := s.modOutlet n fun o => { o with plug := .present, shipVoltage := voltage }
  if (s.berth n).plug = .present then t
  else
    let t := t.modBerth n fun b => { b with plug := .present, state := if b.state = .vacant then .plugged else b.state }
    let t := (t.openPort n).modShip n fun p => { p with side := sideOf voltage }
    let t := if (t.berth n).breaker = .opened then t.startPermitDeadTime n else t
    (t.setUpCheck n).chooseCheck

/-- What the loss of the plug does to the berth (R25). -/
def loseBerth (n : Ix) (s : State) : State :=
  match (s.berth n).state with
  | .closing | .parallel | .onShore | .returnWait | .returnParallel | .adopted | .opening => s.trip n .pilotLost
  | .admitting | .syncing | .deadWait => (s.failWaiting n .pilotLost .vacant).enterVacant n
  | .plugged => s.enterVacant n
  | .lockedOut => s.clearParts n
  | .tripped | .vacant => s

/-- The plug of a berth becomes absent (R25, R35, R51, R66, R69, R149). -/
def plugOut (n : Ix) (s : State) : State :=
  let t := s.modOutlet n fun o => { o with plug := .absent }
  if (s.berth n).plug = .absent then t
  else
    let t := (t.modBerth n fun b => { b with plug := .absent }).closePort n
    let t := (t.modShip n fun p => { p with side := .between }).loseBerth n
    ((t.withdrawPermit n).clearCheck n).leaveRound n

/-! ### Breaker and selector -/

/-- The breaker position input reports (R3, R4, R15, R21; log entry 8). At a disagreement the open command comes before the trip: at
the berth that holds the claim, bus B comes into use first, so the claim is revoked and the mode is RETURN before the berth leaves
SYNCING (R41, R45; DESIGN CHOICE, log entry 55). -/
def breakerPosition (n : Ix) (position : Position) (s : State) : State :=
  let t := s.modOutlet n fun o => { o with breaker := position }
  match (s.berth n).breaker, position with
  | .closeSent, .closed => t.closedReport n
  | .openSent, .opened => t.openReport n
  | .closed, .opened | .closed, .inTravel | .opened, .closed | .opened, .inTravel => (t.openCommand n).trip n .closeFail
  | _, _ => t

/-- The motion limit of a close expires (R15). -/
def closeMotionExpires (n : Ix) (s : State) : State :=
  if (s.berth n).breaker = .closeSent ∧ (s.berth n).motionLimit.isSome then (s.openCommand n).trip n .closeFail else s

/-- The motion limit of an open expires (R21, R22). -/
def openMotionExpires (n : Ix) (s : State) : State :=
  if (s.berth n).breaker = .openSent ∧ (s.berth n).motionLimit.isSome then s.openStuck n else s

/-- The selector position input reports (R5). -/
def selectorPosition (n : Ix) (position : Bus) (s : State) : State :=
  let t := s.modOutlet n fun o => { o with selector := position }
  let b := s.berth n
  if b.moving then if position = b.commanded ∧ position ≠ .none then t.settleSelector n position else t
  else if b.breaker = .opened then t.settleSelector n position
  else t

/-- The selector limit expires (R5, R11). -/
def selectorExpires (n : Ix) (s : State) : State :=
  if (s.berth n).selectorLimit.isSome then
    let t := s.settleSelector n .none
    if (s.berth n).state = .admitting then t.failWaiting n .breakerFail .plugged else t
  else s

/-! ### The sequence timers -/

/-- The admission limit expires (R10). -/
def admissionExpires (n : Ix) (s : State) : State :=
  if (s.berth n).state = .admitting ∧ (s.berth n).admissionLimit.isSome then s.headroomFailed n else s

/-- The sync limit expires (R12). -/
def syncExpires (n : Ix) (s : State) : State :=
  if (s.berth n).state = .syncing ∧ (s.berth n).syncLimit.isSome then s.failWaiting n .syncTimeout .plugged else s

/-- The open-transition limit expires (R13). -/
def openTransitionExpires (n : Ix) (s : State) : State :=
  if (s.berth n).state = .deadWait ∧ (s.berth n).openTransitionLimit.isSome then s.failWaiting n .deadTimeout .plugged else s

/-- The dead count completes (R50). -/
def deadCountCompletes (n : Ix) (s : State) : State :=
  if (s.berth n).deadCount.isRunning then s.modBerth n fun b => { b with deadCount := .completed } else s

/-- The parallel limit expires in PARALLEL (R16). -/
def parallelExpires (n : Ix) (s : State) : State :=
  if (s.berth n).state = .parallel ∧ (s.berth n).parallelLimit.isSome then
    s.tripTo n .parallelTimeout 0 .opening (some .trip)
  else s

/-- The parallel limit expires in RETURN_PARALLEL (R20). -/
def returnParallelExpires (n : Ix) (s : State) : State :=
  if (s.berth n).state = .returnParallel ∧ (s.berth n).parallelLimit.isSome then s.openFromReturn n true else s

/-- The return limit expires (R19). -/
def returnExpires (n : Ix) (s : State) : State :=
  if (s.berth n).state = .returnWait ∧ (s.berth n).returnLimit.isSome then
    (s.failConsenting n .returnTimeout).backFromReturn n
  else s

/-- The instantaneous shore power is reported (R20). -/
def shorePower (n : Ix) (kw : Nat) (s : State) : State := s.modOutlet n fun o => { o with meterNow := kw }

/-- The permit dead time expires (R52). -/
def permitExpires (n : Ix) (s : State) : State :=
  if (s.berth n).permitDeadTime.isSome then s.assertPermit n else s

/-! ### The Phase Reference Unit -/

/-- A ship-side report reaches the Berth Sequencer and the Check Scanner (R12, R50, R55, R65). -/
def sideReport (n : Ix) (side : ShipSide) (s : State) : State :=
  let t := s.modShip n fun p => { p with side }
  let t :=
    match (s.berth n).state, side with
    | .syncing, .dead => t.syncToDead n
    | .deadWait, .dead =>
      if (s.berth n).deadCount = .stopped then t.modBerth n fun b => { b with deadCount := .running s.deadTime } else t
    | .deadWait, _ => t.modBerth n fun b => { b with deadCount := .stopped }
    | _, _ => t
  if side = .live then t.abortDead n else t

/-- The ship-side voltage of an outlet is reported (R35). -/
def shipVoltage (n : Ix) (voltage : Nat) (s : State) : State :=
  let t := s.modOutlet n fun o => { o with shipVoltage := voltage }
  if (s.berth n).plug = .present ∧ sideOf voltage ≠ (s.ship n).side then t.sideReport n (sideOf voltage) else t

/-- The bus A voltage is reported: a crossing of 800 starts the 1 s or gives it up (R36). It enters no window (log entry
33). -/
def busAVoltage (voltage : Nat) (s : State) : State :=
  let t := s.modInputs fun i => { i with busAVoltage := voltage }
  let above := decide (Config.liveFrom ≤ voltage)
  if above = s.pru.busAPresent then t.modPru fun u => { u with busATimer := none }
  else t.modPru fun u => { u with busATimer := some (u.busATimer.getD 1) }

/-- The 1 s of bus A is complete and availability changes (R36). -/
def busAChanges (s : State) : State :=
  if s.pru.busATimer.isSome then s.modPru fun u => { u with busAPresent := !u.busAPresent, busATimer := none } else s

/-- A measurement for a sync window is reported, the phase difference among it (R47); a voltage across a threshold is a ship-side
report (R35). -/
def measure (n : Ix) (m : Measurement) (busAFrequency : Nat) (s : State) : State :=
  (((s.modInputs fun i => { i with busAFrequency }).modOutlet n fun o =>
    { o with shipFrequency := m.shipFrequency, phase := m.phase, busVoltage := m.busVoltage }).modShip n fun p =>
    { p with difference := 10 * m.phase }).shipVoltage n m.shipVoltage

/-- The settle timer expires (R48). -/
def settleExpires (n : Ix) (s : State) : State :=
  if (s.ship n).window = .settling then s.setWindow n .held none else s

/-- The reference in RETURN reaches 60.000 Hz (R40, R41). -/
def referenceArrives (s : State) : State := if s.pru.mode = .ret then s.freeReference else s

/-! ### The Grid Interface -/

/-- The shed line is asserted (R94, R95, R96). -/
def shedAsserts (s : State) : State :=
  let t := s.modInputs fun i => { i with shed := true }
  match s.gi.shed with
  | some _ => t
  | none =>
    ((t.modGi fun g => { g with shedLine := true, shed := some s.shedParam }).shedGrants s.shedParam).notifyCeiling .shedOn
      s.shedParam.number

/-- The shed line is released (R94, R97). The SHED_OFF notice carries the value 0: R94 gives none (DESIGN CHOICE, log entry
35). -/
def shedReleases (s : State) : State :=
  let t := s.modInputs fun i => { i with shed := false }
  match s.gi.shed with
  | none => t
  | some _ => (t.modGi fun g => { g with shedLine := false, shed := none }).notifyCeiling .shedOff 0

/-- The staleness timer expires (R92). -/
def stalenessExpires (s : State) : State := if s.gi.staleness.isSome then s.becomeStale else s

/-! ### The Converter Pool -/

/-- The start limit of a module expires (R78). -/
def startExpires (m : Ix) (s : State) : State := if (s.converter m).startLimit.isSome then s.startFails m else s

/-- The stop timer of a module expires (R80). -/
def stopExpires (m : Ix) (s : State) : State := if (s.converter m).stopTimer.isSome then s.stopEnds m else s

/-- A module input moves toward a fault (R81, R82). -/
def moduleFaults (m : Ix) (signal : ModuleSignal) (s : State) : State :=
  match signal with
  | .faultInput => s.moduleFaultInput m
  | .readyInput => s.moduleReadyLost m

/-- A module input moves toward the end of a fault (R82). -/
def moduleClears (m : Ix) (signal : ModuleSignal) (s : State) : State :=
  match signal with
  | .faultInput => s.moduleFaultClears m
  | .readyInput => s.moduleReadyLost m

/-! ### The Order Engine's timers -/

/-- The wait limit of a port's running WAIT_FLAG expires: its first detail is the full limit (R152, R169). -/
def waitExpires (p : Port) (s : State) : State :=
  match s.running? p with
  | some (r, sl) =>
    if sl.record.order.isWait then
      (s.dropWaiter p).endOrder r { verdict := .failed, code := .waitTimeout, d1 := sl.record.order.waitLimit, d2 := 0 }
    else s
  | none => s

/-- The delay of a port expires: DONE with details 0 (R172). -/
def delayExpires (p : Port) (s : State) : State :=
  match s.running? p with
  | some (r, sl) => if sl.record.order.isDelay then s.endOrder r (doneWith 0 0) else s
  | none => s

/-- The 60 s limit of a waiting RELEASE expires: its details are the seconds and the berths still in the round (R166). -/
def releaseExpires (s : State) : State :=
  match s.running? .t with
  | some (r, sl) =>
    if sl.record.order = .release then
      s.endOrder r { verdict := .failed, code := .waitTimeout, d1 := s.elapsed r, d2 := s.cs.roundList.length }
    else s
  | none => s

end State

end Sys2Proof.Machine
end

