-- ==== Sys2Proof/Machine/Power.lean ====
section
/-! DEFINITION. Power-on (R30, R54, R70, R86, R98, R102, R185) and the failure of the supply (R182). -/

namespace Sys2Proof.Machine

/-- The state, the breaker field and the trip cause that a berth's inputs give at power-on (R30). -/
def OutletInputs.derived (o : OutletInputs) : BerthState × Breaker × Option TripCause :=
  match o.plug, o.breaker, o.selector with
  | .absent, .opened, _ => (.vacant, .opened, none)
  | .present, .opened, _ => (.plugged, .opened, none)
  | .present, .closed, .none => (.tripped, .openSent, some .closeFail)
  | .present, .closed, _ => (.adopted, .closed, none)
  | .absent, .closed, _ => (.tripped, .openSent, some .pilotLost)
  | _, .inTravel, _ => (.tripped, .openSent, some .closeFail)

/-- A berth record derived from its inputs (R30, R52), for a stored rating and a dead count Td. -/
def derivedBerth (rating td : Nat) (o : OutletInputs) : Berth :=
  let d := OutletInputs.derived o
  { State.vacantBerth with
    state := d.1, plug := o.plug, rating, bus := o.selector, breaker := d.2.1, tripCause := d.2.2
    motionLimit := if d.2.1 = .openSent then some Config.openMotion else none
    permitDeadTime := if o.plug = .present ∧ d.2.1 = .opened then some td else none
    declarationAwaited := decide (d.1 = .adopted), authorizationAwaited := decide (d.1 = .adopted) }

/-- A module record derived from its inputs (R86); its run command follows from its state (R73). -/
def derivedModule (i : ModuleInputs) : Converter :=
  if i.fault then .rest .faulted (some .tripped)
  else if i.ready then { State.offModule with state := .online }
  else State.offModule

namespace State

/-- The blocks' power-on values, with the part HELD (R185, steps 2 to 4); `table` has been checked. -/
def powerOnBlocks (table : List Nat) (inputs : Inputs) (s : State) : State :=
  let t : State := { State.reset with table, inputs, pending := s.pending }
  let plugged := fun n => decide ((inputs.outlet.get n).plug = .present)
  let l := min t.fallback t.feeder
  let rt := min t.startReserve t.feeder
  let berths := Six.ofFn fun n => derivedBerth (t.storedRating n) t.deadTime (inputs.outlet.get n)
  let grant := fun n => if (berths.get n).state = .adopted then mkGrant (berths.get n).rating 0 0 (berths.get n).bus else noGrant
  let t : State :=
    { t with
      berths
      link := { t := freshPort true, v := .ofFn fun n => freshPort (plugged n) }
      pru :=
        { t.pru with
          busATimer := if Config.liveFrom ≤ inputs.busAVoltage then some 1 else none
          ships := .ofFn fun n =>
            { side := if plugged n then sideOf (inputs.outlet.get n).shipVoltage else .between, window := .inactive,
              settle := none, difference := 10 * (inputs.outlet.get n).phase } }
      cs :=
        { t.cs with
          scanner := if inputs.instrumentFault then .faulted else .idle
          roundList := Ix.all.filter plugged, roundClosed := (Ix.all.filter plugged).isEmpty }
      cp := { t.cp with modules := .ofFn fun m => derivedModule (inputs.modules.get m) }
      gi :=
        { t.gi with
          staleness := some t.stalenessLimit, ceiling := l, shedLine := inputs.shed
          shed := if inputs.shed then some t.shedParam else none }
      ge :=
        { t.ge with
          active := { emptySet (l - rt) t.efficiency with recs := .ofFn grant }
          staged := emptySet (l - rt) t.efficiency
          periodLeft := t.allocation, periodLength := t.allocation, lastLength := t.allocation, reserve := rt
          berths := .ofFn fun n => { freshGrantBerth with
            adoptionUnread := decide ((berths.get n).state = .adopted), firm := (grant n).firm } } }
  t.modPru fun u => { u with busBInUse := t.busBUsed }

/-- The events that the derivation causes (R185, step 5). The TRIP notices of the berths derived TRIPPED are posted from B0 to B5,
then the BUS_LOST trips come from B0 to B5: no rule orders them, and the TRIP content left at port T is that of the last of them
(DESIGN CHOICE, log entry 52). -/
def powerOnEvents (s : State) : State :=
  let t := s.forEach Ix.all fun n t =>
    match (s.berth n).tripCause with
    | some cause => (t.notifyBoth n .trip cause.index 0).postSource n .tripped
    | none => t
  let t := t.forEach Ix.all fun n u => if u.busLost n then u.trip n .busLost else u
  let t := if s.inputs.instrumentFault then t.notify .t .check none 3 0 else t
  match s.gi.shed with
  | some mode => (t.shedGrants mode).notifyCeiling .shedOn mode.number
  | none => t

/-- Power-on (R185). -/
def powerUp (inputs : Inputs) (s : State) : State :=
  ((s.powerOnBlocks (checkedTable s.table) inputs).powerOnEvents).chooseCheck

/-- The entries of a run that the failing supply left with their new values (R182). -/
def writeSome : Nat → List (Nat × Bool) → State → State
  | _, [], s => s
  | i, (v, written) :: rest, s =>
    if 63 < i ∨ s.entryBlocked i = true then s
    else writeSome (i + 1) rest (if written then s.modTable fun l => l.set i (entryClamp i v) else s)

/-- The supply fails, perhaps during a parameter write (R182; log entries 7 and 21). -/
def powerDown (run : Option (Nat × List (Nat × Bool))) (s : State) : State :=
  let t := match run with | some (start, values) => s.writeSome start values | none => s
  { t with powered := false }

end State

end Sys2Proof.Machine
end

