-- ==== Sys2Proof/Machine/Tick.lean ====
section
/-! DEFINITION. One second of the part's own time, which passes when no command waits (log entries 3 and 26). -/

namespace Sys2Proof.Machine

/-- The dead count loses a second. -/
def DeadCount.pass : DeadCount → DeadCount
  | .running left => .running (left - 10)
  | .stopped => .stopped
  | .completed => .completed

/-- A berth's timers lose a second (R8, R50, R52). -/
def Berth.pass (b : Berth) : Berth :=
  { b with
    admissionLimit := runDown 1 b.admissionLimit, syncLimit := runDown 1 b.syncLimit
    openTransitionLimit := runDown 1 b.openTransitionLimit, parallelLimit := runDown 1 b.parallelLimit
    returnLimit := runDown 1 b.returnLimit, motionLimit := runDown 1000 b.motionLimit
    selectorLimit := runDown 1 b.selectorLimit, deadCount := b.deadCount.pass
    permitDeadTime := runDown 10 b.permitDeadTime }

/-- A module's seconds and timers (R73). -/
def Converter.pass (c : Converter) : Converter :=
  { c with
    seconds :=
      match c.state with
      | .starting | .online | .stopping => countUp 4294967295 c.seconds
      | .off | .faulted | .outOfService => c.seconds
    startLimit := runDown 1 c.startLimit, stopTimer := runDown 1 c.stopTimer }

/-- The check in flight loses a second; its result comes with the instrument's reading (CHECK_TIMER_EXPIRY). -/
def Scanner.pass : Scanner → Scanner
  | .running c => .running { c with timer := c.timer - 1 }
  | .idle => .idle
  | .faulted => .faulted

/-- The waiters of a flag lose a second. -/
def SyncFlag.pass (f : SyncFlag) : SyncFlag := { f with waiters := f.waiters.map fun w => { w with left := w.left - 1 } }

namespace State

/-- A second passes: every count and every running timer moves, a frame or word in assembly is discarded (its 50 ms are
over), the reference is steered, and the phases turn. -/
def pass (s : State) : State :=
  let t : State :=
    { s with
      now := s.now + 1
      link := s.link.map fun lp => { lp with receive := .hunt }
      oe :=
        { s.oe with
          ports := s.oe.ports.map fun po => { po with timer := runDown 1 po.timer }
          flags := s.oe.flags.map (FlagPair.both SyncFlag.pass) }
      berths := s.berths.map Berth.pass
      pru :=
        { s.pru with
          busATimer := runDown 1 s.pru.busATimer
          ships := s.pru.ships.map fun p => { p with settle := runDown 10 p.settle } }
      cs :=
        { s.cs with
          records := s.cs.records.map fun c => { c with age := countUp 65535 c.age }
          scanner := s.cs.scanner.pass }
      cp := { s.cp with modules := s.cp.modules.map Converter.pass }
      gi := { s.gi with assembly := .hunt, staleness := runDown 1 s.gi.staleness }
      ge := { s.ge with periodLeft := s.ge.periodLeft - 1, minuteLeft := s.ge.minuteLeft - 1 } }
  t.steer.turnPhases

/-- Do what is due, and what follows it. -/
def fire (due : State → Bool) (act : State → State) (s : State) : State := if due s then (act s).settle else s

/-- The timers of a berth record that are due. Where several of one berth run out in the same second they act in the order written
here, each with what follows it, before the next is looked at: no rule orders them (DESIGN CHOICE, log entry 53). -/
def fireBerth (n : Ix) (s : State) : State :=
  let t := s.fire (fun u => timedOut (u.berth n).motionLimit) fun u => (u.closeMotionExpires n).openMotionExpires n
  let t := t.fire (fun u => timedOut (u.berth n).selectorLimit) (selectorExpires n)
  let t := t.fire (fun u => timedOut (u.berth n).admissionLimit) (admissionExpires n)
  let t := t.fire (fun u => timedOut (u.berth n).syncLimit) (syncExpires n)
  let t := t.fire (fun u => decide ((u.berth n).deadCount = .running 0)) (deadCountCompletes n)
  let t := t.fire (fun u => timedOut (u.berth n).openTransitionLimit) (openTransitionExpires n)
  let t := t.fire (fun u => timedOut (u.berth n).parallelLimit) fun u => (u.parallelExpires n).returnParallelExpires n
  let t := t.fire (fun u => timedOut (u.berth n).returnLimit) (returnExpires n)
  let t := t.fire (fun u => timedOut (u.berth n).permitDeadTime) (permitExpires n)
  let t := t.fire (fun u => timedOut (u.ship n).settle) (settleExpires n)
  t.fire (fun _ => true) fun u => u.chooseCheck.lapse n

/-- The timers of a module that are due, the start limit first (DESIGN CHOICE, log entry 54). -/
def fireModule (m : Ix) (s : State) : State :=
  (s.fire (fun u => timedOut (u.converter m).startLimit) (startExpires m)).fire
    (fun u => timedOut (u.converter m).stopTimer) (stopExpires m)

/-- A waiter of a port has no time left. -/
def waitOver (p : Port) (s : State) : Bool :=
  Ix.all.any fun n =>
    ((s.flag n false).waiters ++ (s.flag n true).waiters).any fun w => decide (w.port = p) && decide (w.left = 0)

/-- The timers of a port that are due, the wait limit first (DESIGN CHOICE, log entry 54). -/
def firePort (p : Port) (s : State) : State :=
  let t := s.fire (waitOver p) (waitExpires p)
  t.fire (fun u => timedOut (u.orders p).timer) fun u => if p = .t then (u.delayExpires p).releaseExpires else u.delayExpires p

/-- Everything that is due after a second, one after another (log entry 5). Within a group the berths come from B0 to B5, the
modules from C0 to C5, so that a start test after one module's timer sees the next one as it was, and the ports from V0 to V5 and
then T: no rule orders them (DESIGN CHOICE, log entry 54). -/
def fireAll (s : State) : State :=
  let t := s.fire (fun u => timedOut u.gi.staleness) stalenessExpires
  let t := t.fire (fun u => timedOut u.pru.busATimer) busAChanges
  let t := t.fire (fun u => decide (u.pru.mode = .ret) && decide (u.pru.frequency = Config.nominalB)) referenceArrives
  let t := t.forEach Ix.all fireBerth
  let t := t.forEach Ix.all fireModule
  let t := t.forEach Port.all firePort
  let t := t.fire (fun u => decide (u.ge.minuteLeft = 0)) minuteTick
  t.fire (fun u => decide (u.ge.periodLeft = 0)) periodExpiry

/-- One second of a part that is supplied. -/
def tick (s : State) : State := if s.powered then s.pass.fireAll else s

end State

end Sys2Proof.Machine
end

