-- ==== Sys2Proof/Machine/RowsOrders.lean ====
section
/-! DEFINITION. The order rows of the command table. Each is a CHAIN frame that carries this one order (log entry 1); the
order is checked, taken at its turn and acts as Machine/Catalogue.lean says. -/

namespace Sys2Proof.Machine

/-- An event on a part that is supplied, with everything that follows it at the same instant. -/
def event (f : State → State) (s : State) : Host.Outcome State Fault Refusal := .next (if s.powered then (f s).settle else s)

/-- An event that nothing follows: it touches the Link Unit's or the Grid Interface's own state alone. -/
def quiet (f : State → State) (s : State) : Host.Outcome State Fault Refusal := .next (if s.powered then f s else s)

/-- DECLARE (R157). -/
def execDeclare (p : Port) (stop : Bool) (freq cls tr : Byte) (h e c d : Word) (s : State) : Host.Outcome State Fault Refusal :=
  event (State.offerOrder p (.declare freq cls tr h e c d) stop 0) s

/-- CONNECT (R7, R9, R158). -/
def execConnect (p : Port) (stop : Bool) (wait : Word) (s : State) : Host.Outcome State Fault Refusal :=
  event (State.offerOrder p (.connect wait) stop 0) s

/-- GEN_OPENED (R16, R17). -/
def execGenOpened (p : Port) (stop : Bool) (s : State) : Host.Outcome State Fault Refusal :=
  event (State.offerOrder p .genOpened stop 0) s

/-- GEN_CLOSED (R17, R19). -/
def execGenClosed (p : Port) (stop : Bool) (s : State) : Host.Outcome State Fault Refusal :=
  event (State.offerOrder p .genClosed stop 0) s

/-- DISCONNECT (R18, R159). -/
def execDisconnect (p : Port) (stop : Bool) (tr : Byte) (s : State) : Host.Outcome State Fault Refusal :=
  event (State.offerOrder p (.disconnect tr) stop 0) s

/-- AUTHORIZE (R160). -/
def execAuthorize (p : Port) (stop : Bool) (berth prio : Byte) (cap : Word) (s : State) : Host.Outcome State Fault Refusal :=
  event (State.offerOrder p (.authorize prio cap) stop berth) s

/-- WITHDRAW (R26, R161). -/
def execWithdraw (p : Port) (stop : Bool) (berth force : Byte) (s : State) : Host.Outcome State Fault Refusal :=
  event (State.offerOrder p (.withdraw force) stop berth) s

/-- SET_RESERVE (R162). -/
def execSetReserve (p : Port) (stop : Bool) (value : Word) (s : State) : Host.Outcome State Fault Refusal :=
  event (State.offerOrder p (.setReserve value) stop 0) s

/-- SET_PARAMETER (R163, R184). -/
def execSetParameter (p : Port) (stop : Bool) (start count : Byte) (v1 v2 v3 v4 v5 : Word) (s : State) : Host.Outcome State Fault Refusal :=
  event (State.offerOrder p (.setParameter start count v1 v2 v3 v4 v5) stop 0) s

/-- MODULE_SERVICE IN (R84, R164). -/
def execModuleServiceIn (p : Port) (stop : Bool) (module : Byte) (s : State) : Host.Outcome State Fault Refusal :=
  event (State.offerOrder p (.moduleService module 0) stop 0) s

/-- MODULE_SERVICE OUT (R85, R164). -/
def execModuleServiceOut (p : Port) (stop : Bool) (module : Byte) (s : State) : Host.Outcome State Fault Refusal :=
  event (State.offerOrder p (.moduleService module 1) stop 0) s

/-- CHECK_BERTH (R60, R165). -/
def execCheckBerth (p : Port) (stop : Bool) (berth : Byte) (s : State) : Host.Outcome State Fault Refusal :=
  event (State.offerOrder p .checkBerth stop berth) s

/-- ACK_TRIP (R23). -/
def execAckTrip (p : Port) (stop : Bool) (berth : Byte) (s : State) : Host.Outcome State Fault Refusal :=
  event (State.offerOrder p .ackTrip stop berth) s

/-- LOCKOUT on (R27). -/
def execLockoutOn (p : Port) (stop : Bool) (berth : Byte) (s : State) : Host.Outcome State Fault Refusal :=
  event (State.offerOrder p (.lockout 1) stop berth) s

/-- LOCKOUT off (R27). -/
def execLockoutOff (p : Port) (stop : Bool) (berth : Byte) (s : State) : Host.Outcome State Fault Refusal :=
  event (State.offerOrder p (.lockout 0) stop berth) s

/-- RELEASE (R166). -/
def execRelease (p : Port) (stop : Bool) (s : State) : Host.Outcome State Fault Refusal :=
  event (State.offerOrder p .release stop 0) s

/-- PANEL_RESET (R154, R167). -/
def execPanelReset (p : Port) (stop : Bool) (s : State) : Host.Outcome State Fault Refusal :=
  event (State.offerOrder p .panelReset stop 0) s

/-- BERTH_RESET (R32). -/
def execBerthReset (p : Port) (stop : Bool) (berth : Byte) (s : State) : Host.Outcome State Fault Refusal :=
  event (State.offerOrder p .berthReset stop berth) s

/-- RAISE_FLAG (R151, R168). -/
def execRaiseFlag (p : Port) (stop : Bool) (berth flag : Byte) (s : State) : Host.Outcome State Fault Refusal :=
  event (State.offerOrder p (.raiseFlag flag) stop berth) s

/-- WAIT_FLAG (R152, R169). -/
def execWaitFlag (p : Port) (stop : Bool) (berth flag : Byte) (limit : Word) (s : State) : Host.Outcome State Fault Refusal :=
  event (State.offerOrder p (.waitFlag flag limit) stop berth) s

/-- PROVE_CLOSE (R170, R171). -/
def execProveClose (p : Port) (stop : Bool) (berth : Byte) (s : State) : Host.Outcome State Fault Refusal :=
  event (State.offerOrder p .proveClose stop berth) s

/-- DELAY (R172). -/
def execDelay (p : Port) (stop : Bool) (duration : Word) (s : State) : Host.Outcome State Fault Refusal :=
  event (State.offerOrder p (.delay duration) stop 0) s

/-- An order of a kind that is not in the catalogue (R156). -/
def execUnknownOrderKind (p : Port) (stop : Bool) (berth kind : Byte) (s : State) : Host.Outcome State Fault Refusal :=
  event (State.offerOrder p (.unknown kind) stop berth) s

end Sys2Proof.Machine
end

