-- ==== Sys2Proof/Machine/RowsLinks.lean ====
section
/-! DEFINITION. The rows of the links (chapter 10), of port G and the shed line (chapter 5), and of the supply (R185). -/

namespace Sys2Proof.Machine

/-- POWER_ON (R185), with everything that follows at that instant. -/
def execPowerOn (inputs : Inputs) (s : State) : Host.Outcome State Fault Refusal := .next (s.powerUp inputs).settle

/-- SUPPLY_FAILURE (R182). -/
def execSupplyFailure (run : Option (Nat × List (Nat × Bool))) (s : State) : Host.Outcome State Fault Refusal :=
  .next (if s.powered then s.powerDown run else s)

/-- An intact CHAIN frame (R139). -/
def execChain (p : Port) (payload : List Byte) (s : State) : Host.Outcome State Fault Refusal :=
  event (State.handling p (State.handleChain p payload)) s

/-- An intact CANCEL frame (R146, R147). -/
def execCancel (p : Port) (payload : List Byte) (s : State) : Host.Outcome State Fault Refusal :=
  event (State.handling p (State.handleCancel p payload)) s

/-- An intact READ frame (R177). -/
def execRead (p : Port) (payload : List Byte) (s : State) : Host.Outcome State Fault Refusal :=
  quiet (State.handling p (State.handleRead p payload)) s

/-- An intact NOTICE_CLEAR frame (R180). -/
def execNoticeClear (p : Port) (payload : List Byte) (s : State) : Host.Outcome State Fault Refusal :=
  quiet (State.handling p (State.handleNotices p 4 State.noticeClear payload)) s

/-- An intact NOTICE_SET frame (R180). -/
def execNoticeSet (p : Port) (payload : List Byte) (s : State) : Host.Outcome State Fault Refusal :=
  quiet (State.handling p (State.handleNotices p 5 State.noticeSet payload)) s

/-- An intact NOTICE_MASK frame (R180). -/
def execNoticeMask (p : Port) (payload : List Byte) (s : State) : Host.Outcome State Fault Refusal :=
  quiet (State.handling p (State.handleNotices p 6 State.noticeMask payload)) s

/-- An intact frame of a kind that is not taken (R175). -/
def execBadKindFrame (p : Port) (kind : Byte) (_payload : List Byte) (s : State) : Host.Outcome State Fault Refusal :=
  quiet (State.handling p (State.send p (.reject kind .badKind))) s

/-- A complete frame whose CRC does not match, or a length byte out of range (R174). -/
def execCorruptFrame (p : Port) (s : State) : Host.Outcome State Fault Refusal :=
  quiet (State.dropFrame p) s

/-- A byte with a receive error (R174). -/
def execFrameReceiveError (p : Port) (s : State) : Host.Outcome State Fault Refusal :=
  quiet (State.dropFrame p) s

/-- 50 ms without a further byte (R174). -/
def execFrameGapTimeout (p : Port) (s : State) : Host.Outcome State Fault Refusal :=
  quiet (State.dropFrame p) s

/-- A byte on a framed port (R174). -/
def execFrameByteReceived (p : Port) (b : Byte) (s : State) : Host.Outcome State Fault Refusal :=
  event (State.frameByte p b) s

/-- The head of a transmit queue has been sent (R176). -/
def execFrameSent (p : Port) (s : State) : Host.Outcome State Fault Refusal :=
  quiet (State.frameSent p) s

/-- A complete grid word (R91). -/
def execGridWord (hi lo check : Byte) (s : State) : Host.Outcome State Fault Refusal :=
  quiet (fun t => t.dropWord.takeWord hi lo check) s

/-- A byte with a receive error on port G (R90). -/
def execGridReceiveError (s : State) : Host.Outcome State Fault Refusal :=
  quiet State.dropWord s

/-- 50 ms without a further byte on port G (R90). -/
def execGridWordGapTimeout (s : State) : Host.Outcome State Fault Refusal :=
  quiet State.dropWord s

/-- A byte on port G (R90). -/
def execGridByteReceived (b : Byte) (s : State) : Host.Outcome State Fault Refusal :=
  quiet (State.gridByte b) s

/-- The staleness timer expires (R92). -/
def execStalenessExpiry (s : State) : Host.Outcome State Fault Refusal :=
  quiet State.stalenessExpires s

/-- The filtered shed line is asserted (R94 to R96). -/
def execShedAsserted (s : State) : Host.Outcome State Fault Refusal :=
  quiet State.shedAsserts s

/-- The filtered shed line is released (R94, R97). -/
def execShedReleased (s : State) : Host.Outcome State Fault Refusal :=
  quiet State.shedReleases s

end Sys2Proof.Machine
end

