-- ==== Sys2Proof/Machine/RowsField.lean ====
section
/-! DEFINITION. The rows of the field equipment and of the part's own timers (chapters 1 to 8). -/

namespace Sys2Proof.Machine

/-- The pilot loop reports the plug present (R24). -/
def execPlugPresent (n : Ix) (voltage : Nat) (s : State) : Host.Outcome State Fault Refusal :=
  event (State.plugIn n voltage) s

/-- The pilot loop reports the plug absent (R25). -/
def execPlugAbsent (n : Ix) (s : State) : Host.Outcome State Fault Refusal :=
  event (State.plugOut n) s

/-- The breaker position reports CLOSED (R15). -/
def execBreakerClosedReport (n : Ix) (s : State) : Host.Outcome State Fault Refusal :=
  event (State.breakerPosition n .closed) s

/-- The breaker position reports OPEN (R21). -/
def execBreakerOpenReport (n : Ix) (s : State) : Host.Outcome State Fault Refusal :=
  event (State.breakerPosition n .opened) s

/-- The breaker position input reports a position, outside a motion perhaps a disagreement (R4). -/
def execBreakerDisagreement (n : Ix) (position : Position) (s : State) : Host.Outcome State Fault Refusal :=
  event (State.breakerPosition n position) s

/-- The motion limit of a close expires (R15). -/
def execCloseMotionLimitExpiry (n : Ix) (s : State) : Host.Outcome State Fault Refusal :=
  event (State.closeMotionExpires n) s

/-- The motion limit of an open expires (R21, R22). -/
def execOpenMotionLimitExpiry (n : Ix) (s : State) : Host.Outcome State Fault Refusal :=
  event (State.openMotionExpires n) s

/-- The selector position input reports (R5). -/
def execSelectorPositionReport (n : Ix) (position : Bus) (s : State) : Host.Outcome State Fault Refusal :=
  event (State.selectorPosition n position) s

/-- The selector limit expires (R5). -/
def execSelectorLimitExpiry (n : Ix) (s : State) : Host.Outcome State Fault Refusal :=
  event (State.selectorExpires n) s

/-- The admission limit expires (R10). -/
def execAdmissionLimitExpiry (n : Ix) (s : State) : Host.Outcome State Fault Refusal :=
  event (State.admissionExpires n) s

/-- The sync limit expires (R12). -/
def execSyncLimitExpiry (n : Ix) (s : State) : Host.Outcome State Fault Refusal :=
  event (State.syncExpires n) s

/-- The open-transition limit expires (R13). -/
def execOpenTransitionLimitExpiry (n : Ix) (s : State) : Host.Outcome State Fault Refusal :=
  event (State.openTransitionExpires n) s

/-- The dead count completes (R50). -/
def execDeadCountCompletion (n : Ix) (s : State) : Host.Outcome State Fault Refusal :=
  event (State.deadCountCompletes n) s

/-- The parallel limit expires in PARALLEL (R16). -/
def execParallelLimitExpiry (n : Ix) (s : State) : Host.Outcome State Fault Refusal :=
  event (State.parallelExpires n) s

/-- The parallel limit expires in RETURN_PARALLEL (R20). -/
def execReturnParallelLimitExpiry (n : Ix) (s : State) : Host.Outcome State Fault Refusal :=
  event (State.returnParallelExpires n) s

/-- The return limit expires (R19). -/
def execReturnLimitExpiry (n : Ix) (s : State) : Host.Outcome State Fault Refusal :=
  event (State.returnExpires n) s

/-- The instantaneous shore power is reported (R20). -/
def execShorePowerLow (n : Ix) (kw : Nat) (s : State) : Host.Outcome State Fault Refusal :=
  event (State.shorePower n kw) s

/-- The permit dead time expires (R52). -/
def execPermitDeadTimeExpiry (n : Ix) (s : State) : Host.Outcome State Fault Refusal :=
  event (State.permitExpires n) s

/-- The ship-side voltage is reported (R35). -/
def execShipSideReport (n : Ix) (voltage : Nat) (s : State) : Host.Outcome State Fault Refusal :=
  event (State.shipVoltage n voltage) s

/-- The bus A voltage is reported (R36). -/
def execBusAVoltageCrossing (voltage : Nat) (s : State) : Host.Outcome State Fault Refusal :=
  event (State.busAVoltage voltage) s

/-- The 1 s of bus A is complete (R36). -/
def execBusAAvailabilityChange (s : State) : Host.Outcome State Fault Refusal :=
  event State.busAChanges s

/-- A measurement for a sync window is reported (R47, R48). -/
def execWindowMetChange (n : Ix) (m : Measurement) (busAFrequency : Nat) (s : State) : Host.Outcome State Fault Refusal :=
  event (State.measure n m busAFrequency) s

/-- The settle timer expires (R48). -/
def execSettleTimerExpiry (n : Ix) (s : State) : Host.Outcome State Fault Refusal :=
  event (State.settleExpires n) s

/-- The reference in RETURN reaches 60.000 Hz (R40). -/
def execReferenceReaches60 (s : State) : Host.Outcome State Fault Refusal :=
  event State.referenceArrives s

/-- The check in flight completes with the instrument's reading (R63, R64). -/
def execCheckTimerExpiry (reading : Nat) (s : State) : Host.Outcome State Fault Refusal :=
  event (State.completeCheck reading) s

/-- The instrument fault input is asserted (R68). -/
def execInstrumentFaultAsserted (s : State) : Host.Outcome State Fault Refusal :=
  event State.instrumentFails s

/-- The instrument fault input clears (R68). -/
def execInstrumentFaultCleared (s : State) : Host.Outcome State Fault Refusal :=
  event State.instrumentClears s

/-- A record's age passes W (R57). -/
def execFreshnessLapse (n : Ix) (s : State) : Host.Outcome State Fault Refusal :=
  event (fun t => t.ageReaches n (t.checkWindow + 1)) s

/-- A record's age reaches half of W (R61). -/
def execRoundRobinEligible (n : Ix) (s : State) : Host.Outcome State Fault Refusal :=
  event (fun t => t.ageReaches n (t.checkWindow / 2)) s

/-- The age of a closed berth's record exceeds W (R67). -/
def execLapseWarning (n : Ix) (s : State) : Host.Outcome State Fault Refusal :=
  event (fun t => t.ageReaches n (t.checkWindow + 1)) s

/-- The age of a closed berth's record exceeds 2W, unless it restarted at this instant (R67). -/
def execCheckLapsedTrip (n : Ix) (s : State) : Host.Outcome State Fault Refusal :=
  event (State.lapseTripDue n) s

/-- A module asserts ready (R74, R78). -/
def execModuleReady (m : Ix) (s : State) : Host.Outcome State Fault Refusal :=
  event (State.moduleReadyInput m) s

/-- The start limit of a module expires (R78). -/
def execStartLimitExpiry (m : Ix) (s : State) : Host.Outcome State Fault Refusal :=
  event (State.startExpires m) s

/-- The stop timer of a module expires (R80). -/
def execStopTimerExpiry (m : Ix) (s : State) : Host.Outcome State Fault Refusal :=
  event (State.stopExpires m) s

/-- A module's fault input is asserted, or its ready input is withdrawn (R81). -/
def execModuleFault (m : Ix) (signal : ModuleSignal) (s : State) : Host.Outcome State Fault Refusal :=
  event (State.moduleFaults m signal) s

/-- A module's fault input clears, or its ready input is withdrawn (R82). -/
def execModuleFaultCleared (m : Ix) (signal : ModuleSignal) (s : State) : Host.Outcome State Fault Refusal :=
  event (State.moduleClears m signal) s

/-- The allocation period ends (R103). -/
def execPeriodExpiry (s : State) : Host.Outcome State Fault Refusal :=
  event State.periodExpiry s

/-- The minute tick (R133). -/
def execMinuteTick (s : State) : Host.Outcome State Fault Refusal :=
  event State.minuteTick s

/-- A berth meter answers its period mark (R128). -/
def execMeterReading (n : Ix) (reading : Option Int) (s : State) : Host.Outcome State Fault Refusal :=
  event (State.takeReading n reading) s

/-- The limit of a waiting WAIT_FLAG expires (R152). -/
def execWaitLimitExpiry (p : Port) (s : State) : Host.Outcome State Fault Refusal :=
  event (State.waitExpires p) s

/-- A running DELAY ends (R172). -/
def execDelayExpiry (p : Port) (s : State) : Host.Outcome State Fault Refusal :=
  event (State.delayExpires p) s

/-- The 60 s limit of a waiting RELEASE expires (R166). -/
def execReleaseLimitExpiry (s : State) : Host.Outcome State Fault Refusal :=
  event State.releaseExpires s

end Sys2Proof.Machine
end

