-- ==== Sys2Proof/Machine/Dispatch.lean ====
section
/-! DEFINITION. One arm per command: its meaning. -/

namespace Sys2Proof.Machine

/-- The effect of a command on everything but the queue. -/
def exec (i : Instr) (s : State) : Host.Outcome State Fault Refusal :=
  match i with
  | .powerOn inputs => Sys2Proof.Machine.execPowerOn inputs s
  | .declare p stop freq cls tr h e c d => Sys2Proof.Machine.execDeclare p stop freq cls tr h e c d s
  | .connect p stop wait => Sys2Proof.Machine.execConnect p stop wait s
  | .genOpened p stop => Sys2Proof.Machine.execGenOpened p stop s
  | .genClosed p stop => Sys2Proof.Machine.execGenClosed p stop s
  | .disconnect p stop tr => Sys2Proof.Machine.execDisconnect p stop tr s
  | .authorize p stop berth prio cap => Sys2Proof.Machine.execAuthorize p stop berth prio cap s
  | .withdraw p stop berth force => Sys2Proof.Machine.execWithdraw p stop berth force s
  | .setReserve p stop value => Sys2Proof.Machine.execSetReserve p stop value s
  | .setParameter p stop start count v1 v2 v3 v4 v5 => Sys2Proof.Machine.execSetParameter p stop start count v1 v2 v3 v4 v5 s
  | .moduleServiceIn p stop module => Sys2Proof.Machine.execModuleServiceIn p stop module s
  | .moduleServiceOut p stop module => Sys2Proof.Machine.execModuleServiceOut p stop module s
  | .checkBerth p stop berth => Sys2Proof.Machine.execCheckBerth p stop berth s
  | .ackTrip p stop berth => Sys2Proof.Machine.execAckTrip p stop berth s
  | .lockoutOn p stop berth => Sys2Proof.Machine.execLockoutOn p stop berth s
  | .lockoutOff p stop berth => Sys2Proof.Machine.execLockoutOff p stop berth s
  | .release p stop => Sys2Proof.Machine.execRelease p stop s
  | .panelReset p stop => Sys2Proof.Machine.execPanelReset p stop s
  | .berthReset p stop berth => Sys2Proof.Machine.execBerthReset p stop berth s
  | .raiseFlag p stop berth flag => Sys2Proof.Machine.execRaiseFlag p stop berth flag s
  | .waitFlag p stop berth flag limit => Sys2Proof.Machine.execWaitFlag p stop berth flag limit s
  | .proveClose p stop berth => Sys2Proof.Machine.execProveClose p stop berth s
  | .delay p stop duration => Sys2Proof.Machine.execDelay p stop duration s
  | .unknownOrderKind p stop berth kind => Sys2Proof.Machine.execUnknownOrderKind p stop berth kind s
  | .chain p payload => Sys2Proof.Machine.execChain p payload s
  | .cancel p payload => Sys2Proof.Machine.execCancel p payload s
  | .read p payload => Sys2Proof.Machine.execRead p payload s
  | .noticeClear p payload => Sys2Proof.Machine.execNoticeClear p payload s
  | .noticeSet p payload => Sys2Proof.Machine.execNoticeSet p payload s
  | .noticeMask p payload => Sys2Proof.Machine.execNoticeMask p payload s
  | .badKindFrame p kind payload => Sys2Proof.Machine.execBadKindFrame p kind payload s
  | .corruptFrame p => Sys2Proof.Machine.execCorruptFrame p s
  | .frameReceiveError p => Sys2Proof.Machine.execFrameReceiveError p s
  | .frameGapTimeout p => Sys2Proof.Machine.execFrameGapTimeout p s
  | .gridWord hi lo check => Sys2Proof.Machine.execGridWord hi lo check s
  | .gridReceiveError => Sys2Proof.Machine.execGridReceiveError s
  | .gridWordGapTimeout => Sys2Proof.Machine.execGridWordGapTimeout s
  | .stalenessExpiry => Sys2Proof.Machine.execStalenessExpiry s
  | .shedAsserted => Sys2Proof.Machine.execShedAsserted s
  | .shedReleased => Sys2Proof.Machine.execShedReleased s
  | .plugPresent n voltage => Sys2Proof.Machine.execPlugPresent n voltage s
  | .plugAbsent n => Sys2Proof.Machine.execPlugAbsent n s
  | .breakerClosedReport n => Sys2Proof.Machine.execBreakerClosedReport n s
  | .breakerOpenReport n => Sys2Proof.Machine.execBreakerOpenReport n s
  | .breakerDisagreement n position => Sys2Proof.Machine.execBreakerDisagreement n position s
  | .closeMotionLimitExpiry n => Sys2Proof.Machine.execCloseMotionLimitExpiry n s
  | .openMotionLimitExpiry n => Sys2Proof.Machine.execOpenMotionLimitExpiry n s
  | .selectorPositionReport n position => Sys2Proof.Machine.execSelectorPositionReport n position s
  | .selectorLimitExpiry n => Sys2Proof.Machine.execSelectorLimitExpiry n s
  | .admissionLimitExpiry n => Sys2Proof.Machine.execAdmissionLimitExpiry n s
  | .syncLimitExpiry n => Sys2Proof.Machine.execSyncLimitExpiry n s
  | .openTransitionLimitExpiry n => Sys2Proof.Machine.execOpenTransitionLimitExpiry n s
  | .deadCountCompletion n => Sys2Proof.Machine.execDeadCountCompletion n s
  | .parallelLimitExpiry n => Sys2Proof.Machine.execParallelLimitExpiry n s
  | .returnParallelLimitExpiry n => Sys2Proof.Machine.execReturnParallelLimitExpiry n s
  | .returnLimitExpiry n => Sys2Proof.Machine.execReturnLimitExpiry n s
  | .shorePowerLow n kw => Sys2Proof.Machine.execShorePowerLow n kw s
  | .permitDeadTimeExpiry n => Sys2Proof.Machine.execPermitDeadTimeExpiry n s
  | .shipSideReport n voltage => Sys2Proof.Machine.execShipSideReport n voltage s
  | .busAVoltageCrossing voltage => Sys2Proof.Machine.execBusAVoltageCrossing voltage s
  | .busAAvailabilityChange => Sys2Proof.Machine.execBusAAvailabilityChange s
  | .windowMetChange n m busAFrequency => Sys2Proof.Machine.execWindowMetChange n m busAFrequency s
  | .settleTimerExpiry n => Sys2Proof.Machine.execSettleTimerExpiry n s
  | .referenceReaches60 => Sys2Proof.Machine.execReferenceReaches60 s
  | .checkTimerExpiry reading => Sys2Proof.Machine.execCheckTimerExpiry reading s
  | .instrumentFaultAsserted => Sys2Proof.Machine.execInstrumentFaultAsserted s
  | .instrumentFaultCleared => Sys2Proof.Machine.execInstrumentFaultCleared s
  | .freshnessLapse n => Sys2Proof.Machine.execFreshnessLapse n s
  | .roundRobinEligible n => Sys2Proof.Machine.execRoundRobinEligible n s
  | .lapseWarning n => Sys2Proof.Machine.execLapseWarning n s
  | .checkLapsedTrip n => Sys2Proof.Machine.execCheckLapsedTrip n s
  | .moduleReady m => Sys2Proof.Machine.execModuleReady m s
  | .startLimitExpiry m => Sys2Proof.Machine.execStartLimitExpiry m s
  | .stopTimerExpiry m => Sys2Proof.Machine.execStopTimerExpiry m s
  | .moduleFault m signal => Sys2Proof.Machine.execModuleFault m signal s
  | .moduleFaultCleared m signal => Sys2Proof.Machine.execModuleFaultCleared m signal s
  | .periodExpiry => Sys2Proof.Machine.execPeriodExpiry s
  | .minuteTick => Sys2Proof.Machine.execMinuteTick s
  | .meterReading n reading => Sys2Proof.Machine.execMeterReading n reading s
  | .waitLimitExpiry p => Sys2Proof.Machine.execWaitLimitExpiry p s
  | .delayExpiry p => Sys2Proof.Machine.execDelayExpiry p s
  | .releaseLimitExpiry => Sys2Proof.Machine.execReleaseLimitExpiry s
  | .frameByteReceived p b => Sys2Proof.Machine.execFrameByteReceived p b s
  | .gridByteReceived b => Sys2Proof.Machine.execGridByteReceived b s
  | .frameSent p => Sys2Proof.Machine.execFrameSent p s
  | .supplyFailure run => Sys2Proof.Machine.execSupplyFailure run s

end Sys2Proof.Machine
end

