-- ==== Sys2Proof/Machine/Step.lean ====
section
/-! DEFINITION. A step: the command at the front of the queue, or one second of the part's own time when none waits. -/

namespace Sys2Proof.Machine

/-- One step of the block (log entry 3 for the empty queue). -/
def step (s : State) : Host.Outcome State Fault Refusal :=
  match s.pending with
  | [] => .next s.tick
  | c :: rest => exec c { s with pending := rest }

/-- The command that a word spells, put at the front of the queue; no row has bits, so no word spells one. -/
def State.withFetchWord (s : State) (nbits w : Nat) : State :=
  match decodeTableWord nbits w with
  | some c => { s with pending := c :: s.pending }
  | none => s

end Sys2Proof.Machine
end

