-- ==== Sys2Proof/Safety.lean ====
section
/-! DEFINITION. What the part keeps true at every step, and the words in which statements about commands are made: the parts of
the state that a command leaves as they were, a port that can take an order at once, and what became of an order. -/

namespace Sys2Proof.Machine

/-! ### Invariants -/

/-- Every entry of the parameter table is present and within its range (R182, R183, R184). -/
def TableInv (s : State) : Prop := TableOk s.table

/-- The Order Store has 64 slots and a port holds at most 4 chains (R137). -/
def StoreInv (s : State) : Prop := s.slotsInUse ≤ Config.slots ∧ ∀ p, (s.orders p).queue.length ≤ Config.portChains

/-- The ranges of the counts that move by themselves: the period number (R100), the reference frequency (R34), the ages of the
check records (R56) and the charge accumulators (R131). -/
def RangeInv (s : State) : Prop :=
  s.ge.period ≤ 65535 ∧ (Config.refLow ≤ s.pru.frequency ∧ s.pru.frequency ≤ Config.refHigh) ∧
    (∀ n, (s.check n).age ≤ 65535) ∧ ∀ n, (s.grantBerth n).charge.acc ≤ 3599

/-! ### Frames -/

/-- The parts of the state, which together are all of it. -/
inductive Part where
  | power | time | waiting | table | inputs | link (p : Port) | orders (p : Port) | flags | held | berth (n : Ix) | reference
  | scanner | pool | grid | grants
  deriving DecidableEq, Repr

/-- A part reads in `t` as it does in `s`. -/
def Part.same (s t : State) : Part → Prop
  | .power => t.powered = s.powered
  | .time => t.now = s.now
  | .waiting => t.pending = s.pending
  | .table => t.table = s.table
  | .inputs => t.inputs = s.inputs
  | .link p => t.port p = s.port p
  | .orders p => t.orders p = s.orders p
  | .flags => t.oe.flags = s.oe.flags
  | .held => t.oe.held = s.oe.held
  | .berth n => t.berth n = s.berth n
  | .reference => t.pru = s.pru
  | .scanner => t.cs = s.cs
  | .pool => t.cp = s.cp
  | .grid => t.gi = s.gi
  | .grants => t.ge = s.ge

/-- Every part but those listed is as it was. -/
def OnlyTouches (parts : List Part) (s t : State) : Prop := ∀ b, b ∉ parts → b.same s t

/-- Every part listed is as it was. -/
def Untouched (parts : List Part) (s t : State) : Prop := ∀ b, b ∈ parts → b.same s t

/-! ### Orders -/

/-- A port can take an order at once: the part is supplied, the port open, its backlog has room (R175), it holds no chain, a
slot is free (R139), and so no flag and no berth still names an order of it. -/
structure PortReady (s : State) (p : Port) : Prop where
  powered : s.powered = true
  isOpen : (s.port p).isOpen = true
  room : s.answersWaiting p < Config.backlog
  idle : (s.orders p).queue = []
  slot : 0 < s.freeSlots
  noWait : ∀ n second, ∀ w ∈ (s.flag n second).waiters, w.port ≠ p
  noConsent : ∀ n r, (s.berth n).consenting = some r → r.port ≠ p

/-- The name of the order that a ready port takes next (R138). -/
def State.nextRef (s : State) (p : Port) : OrderRef := { port := p, serial := (s.orders p).accepted, pos := 1 }

/-- The order taken next from `p` in `s` has ended in `t` with a status record. -/
def Ended (s : State) (p : Port) (o : OrderRec) (st : Status) (t : State) : Prop :=
  t.slot? (s.nextRef p) = some { record := o, status := .ended st }

/-- The order taken next from `p` in `s` is running in `t`. -/
def Runs (s : State) (p : Port) (o : OrderRec) (t : State) : Prop :=
  t.slot? (s.nextRef p) = some { record := o, status := .running s.now }

/-- The port and the order record of an order row of the command table. -/
def orderRow : Instr → Option (Port × OrderRec)
  | .declare p stop freq cls tr h e c d => some (p, ⟨.declare freq cls tr h e c d, stop, 0⟩)
  | .connect p stop wait => some (p, ⟨.connect wait, stop, 0⟩)
  | .genOpened p stop => some (p, ⟨.genOpened, stop, 0⟩)
  | .genClosed p stop => some (p, ⟨.genClosed, stop, 0⟩)
  | .disconnect p stop tr => some (p, ⟨.disconnect tr, stop, 0⟩)
  | .authorize p stop berth prio cap => some (p, ⟨.authorize prio cap, stop, berth⟩)
  | .withdraw p stop berth force => some (p, ⟨.withdraw force, stop, berth⟩)
  | .setReserve p stop value => some (p, ⟨.setReserve value, stop, 0⟩)
  | .setParameter p stop start count v1 v2 v3 v4 v5 => some (p, ⟨.setParameter start count v1 v2 v3 v4 v5, stop, 0⟩)
  | .moduleServiceIn p stop module => some (p, ⟨.moduleService module 0, stop, 0⟩)
  | .moduleServiceOut p stop module => some (p, ⟨.moduleService module 1, stop, 0⟩)
  | .checkBerth p stop berth => some (p, ⟨.checkBerth, stop, berth⟩)
  | .ackTrip p stop berth => some (p, ⟨.ackTrip, stop, berth⟩)
  | .lockoutOn p stop berth => some (p, ⟨.lockout 1, stop, berth⟩)
  | .lockoutOff p stop berth => some (p, ⟨.lockout 0, stop, berth⟩)
  | .release p stop => some (p, ⟨.release, stop, 0⟩)
  | .panelReset p stop => some (p, ⟨.panelReset, stop, 0⟩)
  | .berthReset p stop berth => some (p, ⟨.berthReset, stop, berth⟩)
  | .raiseFlag p stop berth flag => some (p, ⟨.raiseFlag flag, stop, berth⟩)
  | .waitFlag p stop berth flag limit => some (p, ⟨.waitFlag flag limit, stop, berth⟩)
  | .proveClose p stop berth => some (p, ⟨.proveClose, stop, berth⟩)
  | .delay p stop duration => some (p, ⟨.delay duration, stop, 0⟩)
  | .unknownOrderKind p stop berth kind => some (p, ⟨.unknown kind, stop, berth⟩)
  | _ => none

/-- The order of an order row has ended in `t` with a status record. -/
def OrderEnds (c : Instr) (s : State) (st : Status) (t : State) : Prop := ∃ p o, orderRow c = some (p, o) ∧ Ended s p o st t

/-- The order of an order row runs in `t`. -/
def OrderRuns (c : Instr) (s t : State) : Prop := ∃ p o, orderRow c = some (p, o) ∧ Runs s p o t

/-- The order of an order row is accepted and, at its take, refused: its port has the ACCEPT with the order's tag and the free
slots, the port's rolling count has moved on, the slot holds the REFUSED record, and nothing else has changed (R138, R139,
R156). -/
def Refuses (c : Instr) (s : State) (code : Code) : Prop :=
  ∃ p o t, orderRow c = some (p, o) ∧ exec c s = .next t.settle ∧ Ended s p o (refusedFor code) t ∧
    t.port p = { s.port p with
      receive := .hunt, transmit := (s.port p).transmit ++ [.accept (s.orders p).rolling (s.freeSlots - 1)] } ∧
    (t.orders p).rolling = (if 255 ≤ (s.orders p).rolling then 0 else (s.orders p).rolling + 1) ∧
    OnlyTouches [.link p, .orders p] s t

/-- The order `r`, if it runs in `s`, has ended in `t` with the seconds it ran as its first detail (R158, R159, R169). -/
def Finished (s : State) (r : OrderRef) (verdict : Verdict) (code : Code) (d2 : Nat) (t : State) : Prop :=
  ∀ o k, s.slot? r = some { record := o, status := .running k } →
    t.slot? r = some { record := o, status := .ended { verdict, code, d1 := min 65535 (s.now - k), d2 } }

/-- The consenting order of a berth, if there is one, has ended in `t`, and the berth has none (R9, R18). -/
def Consented (s : State) (n : Ix) (verdict : Verdict) (code : Code) (d2 : Nat) (t : State) : Prop :=
  (t.berth n).consenting = none ∧ ∀ r, (s.berth n).consenting = some r → Finished s r verdict code d2 t

/-- The Order Engine's records of all ports. -/
abbrev allOrders : List Part := Port.all.map Part.orders

/-- The Link Unit's records of all ports. -/
abbrev allLinks : List Part := Port.all.map Part.link

/-- The parts that a trip of a berth may touch (R22, R33). -/
def tripParts (n : Ix) : List Part :=
  [.link .t, .link (.v n), .flags, .berth n, .reference, .scanner, .grants] ++ allOrders

/-- An event has acted on the sync flags `raised` and on no other (R151): a SET flag stays SET, a CLEAR one without waiters is
SET, and a CLEAR one with waiters is handed over to the earliest: that waiter leaves, the flag stays CLEAR, and the order that
runs on its port ends DONE. The last is said of a port none of whose orders a berth consents to, since an event that raises flags
can end such an order first, and a port that waits at a flag has none in a run. -/
structure FlagsReached (raised : Ix → Bool → Prop) (s t : State) : Prop where
  stays : ∀ n second, raised n second → (s.flag n second).isSet = true → t.flag n second = s.flag n second
  becomesSet : ∀ n second, raised n second → (s.flag n second).isSet = false → (s.flag n second).waiters = [] →
    t.flag n second = { isSet := true, waiters := [] }
  handedOver : ∀ n second w rest, raised n second → (s.flag n second).isSet = false → (s.flag n second).waiters = w :: rest →
    t.flag n second = { isSet := false, waiters := rest } ∧
      ((∀ m c, (s.berth m).consenting = some c → c.port ≠ w.port) → ∀ r sl, s.running? w.port = some (r, sl) →
        Finished s r .done .none 0 t)
  others : ∀ n second, ¬ raised n second → t.flag n second = s.flag n second

/-- A source event of a berth has reached its sync flags: those whose source, by the table, is that event (R150, R151). -/
abbrev SourceReached (n : Ix) (src : FlagSource) : State → State → Prop := fun s t =>
  FlagsReached (fun m second => m = n ∧ s.flagSource m second = src.index) s t

/-- A notice of a class is the latest of a port and raises its flag, at a port that is open (R179). -/
def Noticed (s t : State) (p : Port) (cls : NoticeClass) (n : Option Ix) (code value : Nat) : Prop :=
  (t.port p).isOpen = true → (t.port p).notices.get cls = { (s.port p).notices.get cls with
    flag := true, latest := some { berth := n, code := some code, value, period := s.ge.period } }

/-- The berth that R127 chooses among its candidates: the worst rank, then the latest connection, then the higher number. -/
def AdvisedNext (s : State) (candidate : Ix → Prop) (n : Ix) : Prop :=
  candidate n ∧ ∀ m, candidate m → m ≠ n → s.adviceRank m < s.adviceRank n ∨ (s.adviceRank m = s.adviceRank n ∧
    ((s.grantBerth m).connected < (s.grantBerth n).connected ∨
      ((s.grantBerth m).connected = (s.grantBerth n).connected ∧ m.toNat < n.toNat)))

/-- A berth is tripped with a cause and its breaker has been commanded open: TRIP notices go to T and Vn (to Vn while that port is
open, which the loss of the plug closes first, R25), both grants are zero in both sets, the admission has ended, the permit is
withdrawn (R3, R22), and the event TRIPPED reaches the berth's flags (R150). The loss of the plug takes the waiters of Vn from the
flags first: `PlugEvents` says what it does to them. -/
structure Tripped (s : State) (n : Ix) (why : TripCause) (t : State) : Prop where
  state : (t.berth n).state = .tripped
  cause : (t.berth n).tripCause = some why
  breaker : (t.berth n).breaker = .openSent
  permit : (t.berth n).permit = false
  notAdmitted : t.isAdmitted n = false
  active : t.ge.active.recs.get n = State.noGrant
  staged : t.ge.staged.recs.get n = State.noGrant
  notices : ∀ p, p = .t ∨ p = .v n → Noticed s t p .trip (some n) why.index 0
  flags : why ≠ .pilotLost → SourceReached n .tripped s t

end Sys2Proof.Machine
end

