-- ==== Sys2Proof/Certificates/Slice0/Obligations.lean ====
section
/-! DEFINITION. The statements for the provers. A statement about an event gives the state `t` right after the event's own
effect, which is then settled (`t.settle`): `SettledWhenNothingFollows` and the statements about `berthNext` and `portNext` say what
settling does. `OnlyTouches parts s t` is the frame: every part of the state but those listed is as it was. -/

section Slice0

open Sys2Proof Sys2Proof.Machine

/-! ### The machine -/

/-- A step runs the command at the front of the queue on the state with the rest of the queue. -/
def Obligations.StepRunsFront : Prop :=
  ∀ (s : State) (c : Instr) (rest : List Instr), s.pending = c :: rest → step s = exec c { s with pending := rest }

/-- A step on an empty queue lets one second of a supplied part pass, the model's choice (log entries 3, 19, 26 and 45): the
second count and every age and running second rise, every running timer runs down, a frame or word in assembly is dropped, and the
reference is steered and turns (R38, R39, R40). Then everything acts that has run out (`State.fireAll`). -/
def Obligations.EmptyQueueLetsASecondPass : Prop :=
  ∀ s : State, s.pending = [] →
    (∃ t : State, step s = .next t ∧ t.pending = [] ∧ t.inputs = s.inputs ∧ t.powered = s.powered ∧
      t.now = (if s.powered then s.now + 1 else s.now) ∧ (s.powered = false → t = s)) ∧
    (s.powered = true → ∃ u : State, step s = .next u.fireAll ∧ u.now = s.now + 1 ∧
      (∀ n, u.berth n = { s.berth n with
        admissionLimit := (s.berth n).admissionLimit.map (· - 1), syncLimit := (s.berth n).syncLimit.map (· - 1)
        openTransitionLimit := (s.berth n).openTransitionLimit.map (· - 1)
        parallelLimit := (s.berth n).parallelLimit.map (· - 1), returnLimit := (s.berth n).returnLimit.map (· - 1)
        selectorLimit := (s.berth n).selectorLimit.map (· - 1), motionLimit := (s.berth n).motionLimit.map (· - 1000)
        permitDeadTime := (s.berth n).permitDeadTime.map (· - 10), deadCount := (u.berth n).deadCount }) ∧
      (∀ n left, (s.berth n).deadCount = .running left → (u.berth n).deadCount = .running (left - 10)) ∧
      (∀ n, (s.berth n).deadCount ∈ [.stopped, .completed] → (u.berth n).deadCount = (s.berth n).deadCount) ∧
      (∀ n, u.check n = { s.check n with age := min 65535 ((s.check n).age + 1) } ∨ 65535 < (s.check n).age) ∧
      (∀ c, s.cs.scanner = .running c → u.cs.scanner = .running { c with timer := c.timer - 1 }) ∧
      (∀ m, u.converter m = { s.converter m with
        startLimit := (s.converter m).startLimit.map (· - 1), stopTimer := (s.converter m).stopTimer.map (· - 1)
        seconds := (u.converter m).seconds }) ∧
      (∀ m, (s.converter m).seconds < 4294967295 → (u.converter m).seconds =
        if (s.converter m).state ∈ [.starting, .online, .stopping] then (s.converter m).seconds + 1
        else (s.converter m).seconds) ∧
      u.gi = { s.gi with assembly := .hunt, staleness := s.gi.staleness.map (· - 1) } ∧
      u.ge = { s.ge with periodLeft := s.ge.periodLeft - 1, minuteLeft := s.ge.minuteLeft - 1 } ∧
      (∀ p, u.port p = { s.port p with receive := .hunt } ∧
        u.orders p = { s.orders p with timer := (s.orders p).timer.map (· - 1) }) ∧
      (∀ n second, u.flag n second = { s.flag n second with
        waiters := (s.flag n second).waiters.map fun w => { w with left := w.left - 1 } }) ∧
      (∀ n, u.ship n = { s.ship n with
        settle := (s.ship n).settle.map (· - 10), difference := (u.ship n).difference }) ∧
      u.pru.busATimer = s.pru.busATimer.map (· - 1) ∧ u.pru.mode = s.pru.mode ∧ u.pru.holder = s.pru.holder ∧
      u.pru.waiting = s.pru.waiting ∧ (s.pru.mode = .free → u.pru.frequency = s.pru.frequency) ∧
      (s.pru.mode = .ret → u.pru.frequency = approachBy 50 s.pru.frequency 60000) ∧
      (∀ n, s.pru.mode = .follow n → (s.ship n).side ≠ .live → u.pru.frequency = s.pru.frequency) ∧
      (∀ n, s.pru.mode = .follow n → (s.ship n).side = .live →
        (100 < (s.ship n).difference → u.pru.frequency =
          approachBy 200 s.pru.frequency (min 61000 (max 59000 ((s.outlet n).shipFrequency + 20)))) ∧
        ((s.ship n).difference < -100 → u.pru.frequency =
          approachBy 200 s.pru.frequency (min 61000 (max 59000 ((s.outlet n).shipFrequency - 20)))) ∧
        (-100 ≤ (s.ship n).difference → (s.ship n).difference ≤ 100 → u.pru.frequency =
          approachBy 200 s.pru.frequency (min 61000 (max 59000 (s.outlet n).shipFrequency)))) ∧
      u.pru.phase = (s.pru.phase + 36 * u.pru.frequency) % 36000 ∧
      (∀ n, (s.ship n).side ≠ .live ∨ (s.berth n).bus = .none → (u.ship n).difference = (s.ship n).difference) ∧
      (∀ n, (s.ship n).side = .live → (s.berth n).bus = .b → s.pru.mode ≠ .follow n → (u.ship n).difference =
        wrapAngle ((s.ship n).difference + 36 * (s.outlet n).shipFrequency - 36 * u.pru.frequency)) ∧
      OnlyTouches ([.time, .flags, .reference, .scanner, .pool, .grid, .grants] ++ allLinks ++ allOrders ++
        Ix.all.map Part.berth) s u)

/-- Where neither a berth nor a port has anything to do next, settling leaves the state as it is. -/
def Obligations.SettledWhenNothingFollows : Prop :=
  ∀ s : State, (∀ n, s.berthNext n = none) → (∀ p, s.portNext p = none) → s.settle = s

/-- A part without supply takes no command but POWER_ON: the model's choice (log entry 7). -/
def Obligations.UnpoweredTakesNothing : Prop :=
  ∀ (c : Instr) (s : State), s.powered = false → (∀ i, c ≠ .powerOn i) → exec c s = .next s

/-- Every step keeps every parameter present and within its range (R182, R183, R184). -/
def Obligations.StepKeepsTableInv : Prop :=
  ∀ s t : State, TableInv s → step s = .next t → TableInv t

/-- Every step keeps the Order Store within 64 slots and every port queue within 4 chains (R137, R139). -/
def Obligations.StepKeepsStoreInv : Prop :=
  ∀ s t : State, StoreInv s → step s = .next t → StoreInv t

/-- Every step keeps the period number, the reference frequency, the check ages and the charge accumulators within their ranges
(R34, R39, R57, R103, R132). -/
def Obligations.StepKeepsRangeInv : Prop :=
  ∀ s t : State, RangeInv s → step s = .next t → RangeInv t

/-- The state after reset meets the invariants, and its port T can take an order; its inputs and its table are the model's choice
(log entry 6). -/
def Obligations.ResetMeetsInvariants : Prop :=
  TableInv State.reset ∧ StoreInv State.reset ∧ RangeInv State.reset ∧ PortReady State.reset .t ∧
    State.reset.oe.held = true ∧ State.reset.pending = []

/-! ### Supply -/

/-- POWER_ON: the table is checked, every block takes its power-on value, the part is HELD, and then come the events that the
derivation causes and the first choice of a check (R35, R36, R37, R40, R54, R70, R86, R98, R99, R102, R121, R137, R153, R173,
R180, R182, R185, R186); each berth is derived from its inputs, an ADOPTED berth holds a firm grant and a firm figure of its
rating (R30, R102, log entry 50), and the permit dead time starts for a plugged berth with an open breaker (R52, R54). The queue
of waiting commands is kept, and a part that is supplied already starts over: the model's choice (log entry 7). -/
def Obligations.PowerOnValues : Prop :=
  (∀ (s : State) (inputs : Inputs), ∃ u : State, exec (.powerOn inputs) s = .next (u.powerOnEvents.chooseCheck).settle ∧
      u.powered = true ∧ u.now = 0 ∧ u.pending = s.pending ∧ u.inputs = inputs ∧
      (∀ i, i < 64 → u.param i = if entryOk i (s.param i) then s.param i else entryDefault i) ∧
      u.oe.held = true ∧ (∀ p, u.orders p = { queue := [], rolling := 0, accepted := 0, timer := none }) ∧
      (∀ n second, u.flag n second = { isSet := false, waiters := [] }) ∧
      u.port .t = State.freshPort true ∧
      (∀ n, u.port (.v n) = State.freshPort (decide ((inputs.outlet.get n).plug = .present))) ∧
      u.pru.mode = .free ∧ u.pru.frequency = 60000 ∧ u.pru.holder = none ∧ u.pru.waiting = [] ∧ u.pru.busAPresent = false ∧
      u.pru.busATimer = (if 800 ≤ inputs.busAVoltage then some 1 else none) ∧
      (u.pru.busBInUse = true ↔ ∃ n, (u.berth n).bus = .b ∧ (u.berth n).breaker ≠ .opened) ∧
      (∀ n, (u.ship n).window = .inactive ∧ (u.ship n).settle = none ∧ (u.check n) = State.freshCheck ∧
        (u.ship n).side = (if (inputs.outlet.get n).plug = .present then sideOf (inputs.outlet.get n).shipVoltage
          else .between)) ∧
      u.cs.queue = [] ∧ u.cs.pointer = .i0 ∧ u.cs.scanner = (if inputs.instrumentFault then .faulted else .idle) ∧
      u.cs.roundList = Ix.all.filter (fun n => decide ((inputs.outlet.get n).plug = .present)) ∧
      (u.cs.roundClosed = true ↔ ∀ n, (inputs.outlet.get n).plug = .absent) ∧
      (∀ m, u.converter m = { seconds := 0, outPending := false, startLimit := none, stopTimer := none
                              cause := if (inputs.modules.get m).fault then some .tripped else none
                              state := if (inputs.modules.get m).fault then .faulted
                                else if (inputs.modules.get m).ready then .online else .off } ∧
        (u.runCommand m = true ↔ (inputs.modules.get m).fault = false ∧ (inputs.modules.get m).ready = true)) ∧
      u.cp.pointer = .i0 ∧ u.cp.target = 0 ∧ u.cp.stopCount = 0 ∧
      u.gi = { assembly := .hunt, received := none, state := .noneReceived, staleness := some u.stalenessLimit
               ceiling := min u.fallback u.feeder, shedLine := inputs.shed
               shed := if inputs.shed then some u.shedParam else none } ∧
      u.ge.period = 0 ∧ u.ge.reserve = min u.startReserve u.feeder ∧ u.ge.queue = [] ∧
      u.ge.periodLeft = u.allocation ∧ u.ge.minuteLeft = 60 ∧
      u.ge.active.a = u.importAvailable ∧ u.ge.active.eta = u.efficiency ∧ u.ge.active.effective = 0 ∧
      (∀ n, u.ge.staged.recs.get n = State.noGrant) ∧
      u.ge.staged.pending = false ∧ u.ge.overCeiling = false ∧ u.ge.overCapacity = false ∧
      (∀ n, u.isAdmitted n = false ∧ (u.grantBerth n).charge = State.emptyCharge ∧ (u.grantBerth n).reading = none ∧
        (u.grantBerth n).sinceAdoption = false ∧ (u.grantBerth n).overGrant = 0 ∧ (u.grantBerth n).overRating = 0)) ∧
  (∀ (s : State) (inputs : Inputs) (n : Ix), ∃ u : State, exec (.powerOn inputs) s = .next (u.powerOnEvents.chooseCheck).settle ∧
      (∀ o b, o = inputs.outlet.get n → b = u.berth n →
        (o.plug = .absent → o.breaker = .opened → b.state = .vacant ∧ b.breaker = .opened ∧ b.tripCause = none) ∧
        (o.plug = .present → o.breaker = .opened → b.state = .plugged ∧ b.breaker = .opened ∧ b.tripCause = none) ∧
        (o.plug = .present → o.breaker = .closed → o.selector ≠ .none →
          b.state = .adopted ∧ b.breaker = .closed ∧ b.tripCause = none) ∧
        (o.plug = .present → o.breaker = .closed → o.selector = .none →
          b.state = .tripped ∧ b.breaker = .openSent ∧ b.tripCause = some .closeFail) ∧
        (o.plug = .absent → o.breaker = .closed →
          b.state = .tripped ∧ b.breaker = .openSent ∧ b.tripCause = some .pilotLost) ∧
        (o.breaker = .inTravel → b.state = .tripped ∧ b.breaker = .openSent ∧ b.tripCause = some .closeFail) ∧
        b.plug = o.plug ∧ b.bus = o.selector ∧ b.moving = false ∧ b.declaration = none ∧ b.authorization = none ∧
        b.approach = none ∧ b.purpose = none ∧ b.consenting = none ∧ b.stuck = false ∧ b.forcedOpen = false ∧
        b.rating = u.storedRating n ∧ b.permit = false ∧
        b.permitDeadTime = (if b.plug = .present ∧ b.breaker = .opened then some u.deadTime else none) ∧
        b.motionLimit = (if b.breaker = .openSent then some 300 else none) ∧
        b.admissionLimit = none ∧ b.syncLimit = none ∧ b.openTransitionLimit = none ∧ b.parallelLimit = none ∧
        b.returnLimit = none ∧ b.selectorLimit = none ∧ b.deadCount = .stopped ∧
        b.declarationAwaited = decide (b.state = .adopted) ∧ b.authorizationAwaited = decide (b.state = .adopted) ∧
        (u.grantBerth n).firm = (if b.state = .adopted then b.rating else 0) ∧
        (b.state = .adopted → (u.ge.active.recs.get n).firm = b.rating ∧ (u.ge.active.recs.get n).flexible = 0)))

/-- SUPPLY_FAILURE leaves each entry of the table with its old value or, inside the run being written, the new one that stands
at its place in the run, clamped to its range (R182, R184), and nothing else changes but the supply. That the row carries the run
and leaves the rest of the state is the model's reading (log entries 7 and 21). -/
def Obligations.SupplyFailureLeavesEntriesWhole : Prop :=
  ∀ (s : State) (run : Option (Nat × List (Nat × Bool))), s.powered = true →
    ∃ t : State, exec (.supplyFailure run) s = .next t ∧ t.powered = false ∧ OnlyTouches [.power, .table] s t ∧
      (run = none → t.table = s.table) ∧
      ∀ i, t.param i = s.param i ∨
        ∃ start values v, run = some (start, values) ∧ start ≤ i ∧ values[i - start]? = some (v, true) ∧
          t.param i = entryClamp i v

/-! ### Orders: what every order row does -/

/-- The checks of R156 that are common to every order refuse it at its take, before the owning block sees it; an order of an
unknown kind is accepted, taken, and ends REFUSED BAD_ARGUMENT. -/
def Obligations.CommonChecksRefuse : Prop :=
  (∀ (c : Instr) (p : Port) (o : OrderRec) (code : Code) (s : State), orderRow c = some (p, o) → PortReady s p →
      o.commonCheck p = some code → Refuses c s code) ∧
  (∀ (s : State) (p : Port) (stop : Bool) (berth kind : Byte), PortReady s p →
      Refuses (.unknownOrderKind p stop berth kind) s .badArgument)

/-- The common checks in the order of R156: an unknown kind, the port's right to the order, the berth it names (R142); then the
ranges of the arguments that are not clamped (section 10.6): outside them an order is refused BAD_ARGUMENT, and within them the
common checks pass an order whose port and berth are right. -/
def Obligations.ArgumentRanges : Prop :=
  (∀ (p : Port) (o : OrderRec),
      ((∃ k, o.order = .unknown k) → o.commonCheck p = some .badArgument) ∧
      (o.order.class? = some .vessel → p = .t → o.commonCheck p = some .notPermitted) ∧
      (o.order.class? = some .terminal → p ≠ .t → o.commonCheck p = some .notPermitted) ∧
      (∀ n, o.order.class? = some .common → o.order.namesBerth = true → p = .v n → o.berth.toNat ≠ n.toNat →
        o.commonCheck p = some .notPermitted) ∧
      (o.order.class? ≠ none → o.order.class? ≠ some .vessel → o.order.namesBerth = true → p = .t → 5 < o.berth.toNat →
        o.commonCheck p = some .badArgument)) ∧
  (∀ (n : Ix) (stop : Bool) (berth freq cls tr prio force start count module direction on flag : Byte)
      (h e c d wait cap value v1 v2 v3 v4 v5 limit duration : Word), berth.toNat = n.toNat →
      (∀ a, a = OrderRec.mk (.declare freq cls tr h e c d) stop 0 →
        a.commonCheck (.v n) = if (freq = 50 ∨ freq = 60) ∧ cls.toNat ≤ 2 ∧ tr.toNat ≤ 1 then none else some .badArgument) ∧
      ((OrderRec.mk (.connect wait) stop 0).commonCheck (.v n) = if wait.toNat ≤ 60 then none else some .badArgument) ∧
      ((OrderRec.mk (.disconnect tr) stop 0).commonCheck (.v n) = if tr.toNat ≤ 1 then none else some .badArgument) ∧
      ((OrderRec.mk (.authorize prio cap) stop berth).commonCheck .t = if prio.toNat ≤ 3 then none else some .badArgument) ∧
      ((OrderRec.mk (.withdraw force) stop berth).commonCheck .t = if force.toNat ≤ 1 then none else some .badArgument) ∧
      ((OrderRec.mk (.setReserve value) stop 0).commonCheck .t = none) ∧
      ((OrderRec.mk (.setParameter start count v1 v2 v3 v4 v5) stop 0).commonCheck .t =
        if start.toNat ≤ 63 ∧ 1 ≤ count.toNat ∧ count.toNat ≤ 5 then none else some .badArgument) ∧
      ((OrderRec.mk (.moduleService module direction) stop 0).commonCheck .t =
        if module.toNat ≤ 5 ∧ direction.toNat ≤ 1 then none else some .badArgument) ∧
      ((OrderRec.mk (.lockout on) stop berth).commonCheck .t = if on.toNat ≤ 1 then none else some .badArgument) ∧
      ((OrderRec.mk (.raiseFlag flag) stop berth).commonCheck (.v n) = if flag.toNat ≤ 1 then none else some .badArgument) ∧
      ((OrderRec.mk (.waitFlag flag limit) stop berth).commonCheck (.v n) =
        if flag.toNat ≤ 1 ∧ 1 ≤ limit.toNat then none else some .badArgument) ∧
      ((OrderRec.mk (.delay duration) stop 0).commonCheck (.v n) = if 1 ≤ duration.toNat then none else some .badArgument))

/-- An order row is the CHAIN frame whose payload is the count 1 and the sixteen bytes of its order record (log entry 1,
section 10.6). -/
def Obligations.OrderRowIsItsChain : Prop :=
  ∀ (c : Instr) (p : Port) (o : OrderRec) (s : State), c.wf = true → orderRow c = some (p, o) →
    exec c s = exec (.chain p (1 :: o.toBytes)) s

/-- Reading the sixteen bytes of an order record gives the record back, with every argument at every value (section 10.6). -/
def Obligations.OrderRecordRoundTrip : Prop :=
  ∀ o : OrderRec, (∀ k, o.order = .unknown k → k = 0 ∨ 20 < k.toNat) →
    o.toBytes.length = 16 ∧ OrderRec.ofBytes o.toBytes = o

/-- The bytes of a frame, received one after another by an open port in HUNT, are the handling of that frame: start, kind,
length, payload and CRC (R174, section 10.6). -/
def Obligations.FrameBytesRoundTrip : Prop :=
  ∀ (s : State) (p : Port) (kind : Byte) (payload : List Byte), (s.port p).isOpen = true → (s.port p).receive = .hunt →
    payload.length ≤ 240 →
    (frameBytes kind payload).foldl (fun t b => t.frameByte p b) s = s.handling p (State.byKind p kind payload)

/-- What a port does next. The head chain whose orders have all ended is complete: its COMPLETION frame joins the port's
transmit queue, it leaves the port queue with its slots, and nothing else changes (R144). While nothing of a port runs, its head
chain's first order not taken is taken; while the consenting order of berth n runs, a report at the head of the port's second
chain is taken early (R140, R145). So a PANEL_RESET behind a running RELEASE waits, where R154 and R187 let the two meet (log
entry 59). -/
def Obligations.PortFollowUps : Prop :=
  (∀ (s : State) (p : Port) (c : Chain) (rest : List Chain), (s.orders p).queue = c :: rest → c.allEnded = true →
      ∃ t : State, s.portNext p = some t ∧ t.orders p = { s.orders p with queue := rest } ∧
        t.port p = (if (s.port p).isOpen then
          { s.port p with transmit := (s.port p).transmit ++ [.completion c.count (c.orders.map Slot.statusRecord)] }
          else s.port p) ∧
        OnlyTouches [.link p, .orders p] s t) ∧
  (∀ (s : State) (p : Port) (c : Chain) (rest : List Chain), (s.orders p).queue = c :: rest → c.allEnded = false →
      (∀ pos o, s.running? p = none → positionOf (fun sl => decide (sl.status = .notTaken)) c.orders = some pos →
        c.slot? pos = some { record := o, status := .notTaken } →
        s.portNext p = some (s.takeOrder { port := p, serial := c.serial, pos } o)) ∧
      (∀ n r sl serial count o more tail, p = .v n → s.running? p = some (r, sl) → (s.berth n).consenting = some r →
        rest = { serial, count, orders := { record := o, status := .notTaken } :: more } :: tail →
        (o.order = .genOpened ∨ o.order = .genClosed) →
        s.portNext p = some (s.takeOrder { port := p, serial, pos := 1 } o)))

/-! ### Vessel orders -/

/-- DECLARE in a state that allows it: the declaration with its clamped numbers, the copy in the charge record, the number of
clamped arguments as detail 1, and CHARGE_SHORT posted to Vn and T with the energy if the declared departure is already 0. It is
refused where it would change the supply of a berth that is closing, live or opening, the supply or the transition of one that
waits to close, or would not match an ADOPTED berth (R28, R131, R133, R157, R176, R179). -/
def Obligations.DeclareAnswers : Prop :=
  (∀ (s : State) (n : Ix) (stop : Bool) (freq cls tr : Byte) (h e c d : Word) (row : Instr), PortReady s (.v n) →
      row = .declare (.v n) stop freq cls tr h e c d → (freq = 50 ∨ freq = 60) → cls.toNat ≤ 2 → tr.toNat ≤ 1 →
      (((s.berth n).declaration = none ∧ (s.berth n).state ≠ .adopted) ∨
        (s.berth n).state = .vacant ∨ (s.berth n).state = .plugged ∨ (s.berth n).state = .lockedOut ∨
        ((s.berth n).state = .tripped ∧ (s.berth n).breaker = .opened) ∨
        ((s.berth n).state = .adopted ∧ (s.berth n).declaration = none ∧ (Freq.ofByte freq).bus = (s.berth n).bus ∧
          VClass.ofByte cls = s.storedClass n) ∨
        (∃ d0, (s.berth n).declaration = some d0 ∧ d0.freq = .ofByte freq ∧ d0.cls = .ofByte cls ∧
          ((s.berth n).state.isWaiting = true → d0.trans = .ofByte tr))) →
      ∃ t : State, exec row s = .next t.settle ∧
        (∀ k, k = clipped 6000 h.toNat + clipped 20000 e.toNat + clipped 6000 c.toNat + clipped 1440 d.toNat →
          OrderEnds row s (doneClamped k k 0) t) ∧
        t.berth n = { s.berth n with
          declarationAwaited := false
          declaration := some { freq := .ofByte freq, cls := .ofByte cls, trans := .ofByte tr, h := min h.toNat 6000,
                                e := min e.toNat 20000, c := min c.toNat 6000, d := min d.toNat 1440 } } ∧
        t.ge = { s.ge with berths := s.ge.berths.set n { s.grantBerth n with
          charge := { e := min e.toNat 20000, d := min d.toNat 1440, acc := 0,
                      warned := decide (d.toNat = 0 ∧ 0 < e.toNat) } } } ∧
        (∀ x lp, x = Notice.mk (some n) (some 4) (min e.toNat 20000) s.ge.period →
          lp = { s.port (.v n) with
            receive := .hunt
            transmit := (s.port (.v n)).transmit ++ [.accept (s.orders (.v n)).rolling (s.freeSlots - 1)] } →
          (d.toNat = 0 → 0 < e.toNat → t.port (.v n) = lp.posted .grant x ∧
            t.port .t = if (s.port .t).isOpen then (s.port .t).posted .grant x else s.port .t) ∧
          (0 < d.toNat ∨ e.toNat = 0 → t.port (.v n) = lp ∧ t.port .t = s.port .t)) ∧
        OnlyTouches [.link (.v n), .link .t, .orders (.v n), .berth n, .grants] s t) ∧
  (∀ (s : State) (n : Ix) (stop : Bool) (freq cls tr : Byte) (h e c d : Word) (row : Instr), PortReady s (.v n) →
      row = .declare (.v n) stop freq cls tr h e c d → (freq = 50 ∨ freq = 60) → cls.toNat ≤ 2 → tr.toNat ≤ 1 →
      (∀ d0, (s.berth n).declaration = some d0 →
        ((s.berth n).state ∈ [.closing, .parallel, .onShore, .returnWait, .returnParallel, .opening, .adopted] ∨
            ((s.berth n).state = .tripped ∧ (s.berth n).breaker ≠ .opened) →
          (d0.freq ≠ .ofByte freq ∨ d0.cls ≠ .ofByte cls) → Refuses row s .live) ∧
        ((s.berth n).state.isWaiting = true → (d0.freq ≠ .ofByte freq ∨ d0.cls ≠ .ofByte cls ∨ d0.trans ≠ .ofByte tr) →
          Refuses row s .badState)) ∧
      ((s.berth n).state = .adopted → (s.berth n).declaration = none →
        ((Freq.ofByte freq).bus ≠ (s.berth n).bus ∨ VClass.ofByte cls ≠ s.storedClass n) → Refuses row s .live))

/-- CONNECT accepted with a wait: it runs as the consenting order, and its berth is in ADMITTING with the selector commanded if
it is not on the matching bus, a check asked for if the record is not fresh, and the admission limit running unless the berth
was admitted at once (R5, R9, R122, R158). Serving the admission queue may admit other berths as well. -/
def Obligations.ConnectStarts : Prop :=
  ∀ (s : State) (n : Ix) (stop : Bool) (wait : Word) (d : Declaration) (a : Authorization), PortReady s (.v n) →
    1 ≤ wait.toNat → wait.toNat ≤ 60 → s.oe.held = false → (s.berth n).state = .plugged →
    (s.berth n).declaration = some d → d.cls = s.storedClass n → (s.berth n).authorization = some a → a.withdrawn = false →
    s.isAdmitted n = false →
    ∃ t : State, exec (.connect (.v n) stop wait) s = .next t.settle ∧ OrderRuns (.connect (.v n) stop wait) s t ∧
      (t.berth n).state = .admitting ∧ (t.berth n).consenting = some (s.nextRef (.v n)) ∧
      (t.berth n).admissionLimit = (if t.isAdmitted n then none else some (60 * wait.toNat)) ∧
      (t.isAdmitted n = false → ∃ e ∈ t.ge.queue, e.berth = n ∧ e.prio = a.prio ∧ e.time = s.now) ∧
      ((s.berth n).moving = false → (s.berth n).bus ≠ d.freq.bus → (s.berth n).breaker = .opened →
        (t.berth n).moving = true ∧ (t.berth n).bus = .none ∧ (t.berth n).commanded = d.freq.bus ∧
          (t.berth n).selectorLimit = some 4) ∧
      (s.fresh n = true ∨ n ∈ t.cs.queue ∨ ∃ c, t.cs.scanner = .running c ∧ c.berth = n) ∧
      (∀ m, m ≠ n → t.berth m = { s.berth m with admissionLimit := (t.berth m).admissionLimit }) ∧
      Untouched [.power, .time, .waiting, .table, .inputs, .link .t, .orders .t, .flags, .held, .reference, .pool, .grid] s t

/-- The checks of a CONNECT at its take, in the order of R7: the first that fails names the reason. -/
def Obligations.ConnectRefusals : Prop :=
  ∀ (s : State) (n : Ix) (stop : Bool) (wait : Word) (row : Instr), PortReady s (.v n) →
    row = .connect (.v n) stop wait → wait.toNat ≤ 60 →
    (s.oe.held = true → Refuses row s .held) ∧
    (s.oe.held = false →
      ((s.berth n).state ∈ [.parallel, .onShore, .returnWait, .returnParallel, .adopted] → Refuses row s .live) ∧
      ((s.berth n).state = .tripped → Refuses row s .tripped) ∧
      ((s.berth n).state = .lockedOut → Refuses row s .locked) ∧
      ((s.berth n).state ∈ [.admitting, .syncing, .deadWait, .closing, .opening] → Refuses row s .badState) ∧
      ((s.berth n).state = .plugged →
        ((s.berth n).declaration = none → Refuses row s .noDeclaration) ∧
        (∀ d, (s.berth n).declaration = some d →
          (d.cls ≠ s.storedClass n → Refuses row s .voltageClass) ∧
          (d.cls = s.storedClass n → (s.berth n).authorization = none → Refuses row s .notAuthorized) ∧
          (∀ a, d.cls = s.storedClass n → (s.berth n).authorization = some a → a.withdrawn = true →
            Refuses row s .notAuthorized))))

/-- The reports of the ship's generator breaker are taken in PARALLEL and RETURN_WAIT (R16, R18, R19); GEN_OPENED reaches a port
without a chain when its CONNECT has been cancelled (R29), so no order consents. Taken early, while the consenting order runs
(R145), GEN_OPENED ends the CONNECT DONE with detail 2 at 1 and GEN_CLOSED leaves the DISCONNECT running. The entry to ON_SHORE
reaches the flags whose source is ON_SHORE_ENTERED (R150, R151). A report that no state expects is refused NOT_EXPECTED, and
GEN_OPENED after a parallel timeout TOO_LATE (R17). -/
def Obligations.ReportAnswers : Prop :=
  (∀ (s : State) (n : Ix) (stop : Bool), PortReady s (.v n) →
      ((s.berth n).state = .parallel → (s.berth n).consenting = none →
        ∃ t : State, exec (.genOpened (.v n) stop) s = .next t.settle ∧ OrderEnds (.genOpened (.v n) stop) s (doneWith 0 0) t ∧
          t.berth n = { s.berth n with state := .onShore, parallelLimit := none } ∧ SourceReached n .onShoreEntered s t ∧
          OnlyTouches ([.link (.v n), .flags, .berth n] ++ allOrders) s t) ∧
      ((s.berth n).state = .returnWait →
        ∃ t : State, exec (.genClosed (.v n) stop) s = .next t.settle ∧ OrderEnds (.genClosed (.v n) stop) s (doneWith 0 0) t ∧
          t.berth n = { s.berth n with
            state := .returnParallel, returnLimit := none, parallelLimit := some s.parallelTime } ∧
          OnlyTouches [.link (.v n), .orders (.v n), .berth n] s t)) ∧
  (∀ (s : State) (n : Ix) (stop : Bool), PortReady s (.v n) →
      ((s.berth n).state ∈ [.opening, .tripped] → (s.berth n).tripCause = some .parallelTimeout →
        Refuses (.genOpened (.v n) stop) s .tooLate) ∧
      ((s.berth n).state ≠ .parallel →
        ((s.berth n).state ∈ [.opening, .tripped] → (s.berth n).tripCause ≠ some .parallelTimeout) →
        Refuses (.genOpened (.v n) stop) s .notExpected) ∧
      ((s.berth n).state ≠ .returnWait → Refuses (.genClosed (.v n) stop) s .notExpected)) ∧
  (∀ (s : State) (n : Ix) (r early : OrderRef) (o : OrderRec), early.port = .v n →
      s.slot? early = some { record := o, status := .notTaken } → (s.berth n).consenting = some r → r ≠ early →
      (o.order = .genOpened → (s.berth n).state = .parallel →
        ∃ t : State, s.takeOrder early o = t ∧ t.slot? early = some { record := o, status := .ended (doneWith 0 0) } ∧
          Consented s n .done .none 1 t ∧
          t.berth n = { s.berth n with state := .onShore, parallelLimit := none, consenting := none } ∧
          ((∀ second, ∀ w ∈ (s.flag n second).waiters, w.port ≠ .v n) → SourceReached n .onShoreEntered s t) ∧
          OnlyTouches ([.flags, .berth n] ++ allOrders) s t) ∧
      (o.order = .genClosed → (s.berth n).state = .returnWait →
        ∃ t : State, s.takeOrder early o = t ∧ t.slot? early = some { record := o, status := .ended (doneWith 0 0) } ∧
          t.slot? r = s.slot? r ∧
          t.berth n = { s.berth n with
            state := .returnParallel, returnLimit := none, parallelLimit := some s.parallelTime } ∧
          OnlyTouches [.orders (.v n), .berth n] s t))

/-- DISCONNECT from ON_SHORE or ADOPTED (R18): CLOSED starts the return wait, drops the flexible grant and its share in both
sets, keeps the firm grant, leaves bus NONE where that is 0 (R100, log entry 15), and asserts the permit (R53, R101); OPEN
issues the open command, withdraws the permit and zeroes both grants (R3, R51). In any other state it is refused with the reason
of its state. -/
def Obligations.DisconnectAnswers : Prop :=
  (∀ (s : State) (n : Ix) (stop : Bool), PortReady s (.v n) → (s.berth n).state = .onShore ∨ (s.berth n).state = .adopted →
      ∃ t : State, exec (.disconnect (.v n) stop 0) s = .next t.settle ∧ OrderRuns (.disconnect (.v n) stop 0) s t ∧
        t.berth n = { s.berth n with
          state := .returnWait, returnLimit := some s.returnTime, consenting := some (s.nextRef (.v n)), returnForced := false,
          openPower := 0, permit := true, permitDeadTime := none } ∧
        (∀ set, (set = GrantUnit.active ∨ set = GrantUnit.staged) →
          (set t.ge).recs.get n =
              { firm := ((set s.ge).recs.get n).firm, flexible := 0, share := 0
                bus := if ((set s.ge).recs.get n).firm = 0 then .none else ((set s.ge).recs.get n).bus } ∧
            ∀ m, m ≠ n → (set t.ge).recs.get m = (set s.ge).recs.get m) ∧
        OnlyTouches [.link (.v n), .orders (.v n), .berth n, .grants] s t) ∧
  (∀ (s : State) (n : Ix) (stop : Bool), PortReady s (.v n) → (s.berth n).state = .onShore ∨ (s.berth n).state = .adopted →
      (s.berth n).breaker = .closed →
      ∃ t : State, exec (.disconnect (.v n) stop 1) s = .next t.settle ∧ OrderRuns (.disconnect (.v n) stop 1) s t ∧
        (t.berth n).state = .opening ∧ (t.berth n).purpose = some .ret ∧ (t.berth n).consenting = some (s.nextRef (.v n)) ∧
        (t.berth n).breaker = .openSent ∧ (t.berth n).motionLimit = some 300 ∧ (t.berth n).permit = false ∧
        t.isAdmitted n = false ∧ t.ge.active.recs.get n = State.noGrant ∧ t.ge.staged.recs.get n = State.noGrant ∧
        OnlyTouches [.link (.v n), .orders (.v n), .berth n, .reference, .scanner, .grants] s t) ∧
  (∀ (s : State) (n : Ix) (stop : Bool) (tr : Byte) (row : Instr), PortReady s (.v n) → row = .disconnect (.v n) stop tr →
      tr.toNat ≤ 1 →
      ((s.berth n).state = .tripped → Refuses row s .tripped) ∧
      ((s.berth n).state = .lockedOut → Refuses row s .locked) ∧
      ((s.berth n).state ∉ [.onShore, .adopted, .tripped, .lockedOut] → Refuses row s .badState))

/-! ### Terminal orders -/

/-- AUTHORIZE with the plug present: the authorization with its clamped cap, O by R2, the forced-open marker and the marker of
R28 cleared, and the berth's queue entry kept, in its new class with its entry time, at the place that R122 gives it (R2, R26,
R28, R122, R160); no grant and no firm figure held is touched. AUTHORIZE and CHECK_BERTH are refused NO_PLUG for a berth whose
plug is absent (R160, section 9.3.6). -/
def Obligations.AuthorizeAnswers : Prop :=
  (∀ (s : State) (n : Ix) (stop : Bool) (berth prio : Byte) (cap : Word) (row : Instr), PortReady s .t →
      row = .authorize .t stop berth prio cap → berth.toNat = n.toNat → prio.toNat ≤ 3 → (s.berth n).plug = .present →
      ∃ t : State, exec row s = .next t.settle ∧
        OrderEnds row s (doneClamped (clipped (s.storedRating n) cap.toNat) (min cap.toNat (s.storedRating n)) 0) t ∧
        t.berth n = { s.berth n with
          authorization := some { prio := prio.toNat, cap := min cap.toNat (s.storedRating n), withdrawn := false }
          rating := min cap.toNat (s.storedRating n), forcedOpen := false, authorizationAwaited := false } ∧
        t.ge = { s.ge with queue := t.ge.queue } ∧
        (∀ e ∈ t.ge.queue, e.berth = n → e.prio = prio.toNat ∧ ∃ e0 ∈ s.ge.queue, e0.berth = n ∧ e0.time = e.time) ∧
        (∀ e, e.berth ≠ n → (e ∈ t.ge.queue ↔ e ∈ s.ge.queue)) ∧
        ((∀ e ∈ s.ge.queue, e.berth ≠ n) → t.ge = s.ge) ∧
        (∀ before e after, s.ge.queue = before ++ e :: after → e.berth = n → (∀ x ∈ before ++ after, x.berth ≠ n) →
          ∃ ahead behind, t.ge.queue = ahead ++ { e with prio := prio.toNat } :: behind ∧
            ahead ++ behind = before ++ after ∧
            (s.ge.queue.Pairwise (fun x y => State.ahead x y = true) →
              t.ge.queue.Pairwise fun x y => State.ahead x y = true)) ∧
        OnlyTouches [.link .t, .orders .t, .berth n, .grants] s t) ∧
  (∀ (s : State) (n : Ix) (stop : Bool) (berth prio : Byte) (cap : Word), PortReady s .t → berth.toNat = n.toNat →
      prio.toNat ≤ 3 → (s.berth n).plug = .absent →
      Refuses (.authorize .t stop berth prio cap) s .noPlug ∧ Refuses (.checkBerth .t stop berth) s .noPlug)

/-- WITHDRAW without force, or with force of a berth that is neither live nor closing, marks the authorization withdrawn, and
its details are 0: Vn is advised (WITHDRAWN 1), and a berth that waits to close ends its CONNECT FAILED NOT_AUTHORIZED and is
PLUGGED. With force it opens the breaker of a berth that is live or closing: its consenting order ends FAILED FORCED_OPEN, the
forced-open marker is set, and detail 1 is 1 (R3, R11, R26, R161). That its advice FORCED_OPEN comes behind WITHDRAWN, and so is
the content left, is the model's choice (log entry 48). -/
def Obligations.WithdrawAnswers : Prop :=
  (∀ (s : State) (n : Ix) (stop : Bool) (berth force : Byte) (row : Instr), PortReady s .t →
      row = .withdraw .t stop berth force → berth.toNat = n.toNat →
      (force = 0 ∨ (force = 1 ∧ s.isLive n = false ∧ (s.berth n).state ≠ .closing)) →
      ((s.berth n).state.isWaiting = false →
        ∃ t : State, exec row s = .next t.settle ∧ OrderEnds row s (doneWith 0 0) t ∧
          t.berth n = { s.berth n with
            authorization := (s.berth n).authorization.map fun a => { a with withdrawn := true } } ∧
          ((s.port (.v n)).isOpen = true → (t.port (.v n)).notices.returnAdvice.latest =
            some { berth := some n, code := some 1, value := 0, period := s.ge.period }) ∧
          OnlyTouches [.link .t, .link (.v n), .orders .t, .berth n] s t) ∧
      ((s.berth n).state.isWaiting = true →
        ∃ t : State, exec row s = .next t.settle ∧ OrderEnds row s (doneWith 0 0) t ∧ (t.berth n).state = .plugged ∧
          Consented s n .failed .notAuthorized 0 t ∧ t.isAdmitted n = false ∧
          (t.berth n).authorization = (s.berth n).authorization.map (fun a => { a with withdrawn := true }) ∧
          ((s.port (.v n)).isOpen = true → (t.port (.v n)).notices.returnAdvice.latest =
            some { berth := some n, code := some 1, value := 0, period := s.ge.period }) ∧
          OnlyTouches ([.link .t, .link (.v n), .berth n, .reference, .grants] ++ allOrders) s t)) ∧
  (∀ (s : State) (n : Ix) (stop : Bool) (berth : Byte) (row : Instr), PortReady s .t → row = .withdraw .t stop berth 1 →
      berth.toNat = n.toNat → (s.isLive n = true ∨ (s.berth n).state = .closing) →
      (s.berth n).breaker = .closed ∨ (s.berth n).breaker = .closeSent →
      ∃ t : State, exec row s = .next t.settle ∧ OrderEnds row s (doneWith 1 0) t ∧
        (t.berth n).state = .opening ∧ (t.berth n).purpose = some .force ∧ (t.berth n).forcedOpen = true ∧
        (t.berth n).breaker = .openSent ∧ (t.berth n).motionLimit = some 300 ∧ (t.berth n).permit = false ∧
        (t.berth n).authorization = (s.berth n).authorization.map (fun a => { a with withdrawn := true }) ∧
        ((s.port (.v n)).isOpen = true → (t.port (.v n)).notices.returnAdvice.latest =
          some { berth := some n, code := some 2, value := 0, period := s.ge.period }) ∧
        Consented s n .failed .forcedOpen 0 t ∧ t.isAdmitted n = false ∧
        t.ge.active.recs.get n = State.noGrant ∧ t.ge.staged.recs.get n = State.noGrant ∧
        OnlyTouches ([.link .t, .link (.v n), .berth n, .reference, .scanner, .grants] ++ allOrders) s t)

/-- SET_RESERVE stores Rt clamped to M (R162). -/
def Obligations.SetReserveStores : Prop :=
  ∀ (s : State) (stop : Bool) (value : Word), PortReady s .t →
    ∃ t : State, exec (.setReserve .t stop value) s = .next t.settle ∧
      OrderEnds (.setReserve .t stop value) s
        { verdict := .done, code := if s.feeder < value.toNat then .clamped else .none, d1 := min value.toNat s.feeder,
          d2 := 0 } t ∧
      t.ge = { s.ge with reserve := min value.toNat s.feeder } ∧ OnlyTouches [.link .t, .orders .t, .grants] s t

/-- SET_PARAMETER over a run of entries none of which belongs to a berth in use: every value clamped to its entry's range and
stored, every other entry kept, and the counts of clamped and stored values as details. A write of M or F forms L anew (R93),
and one of a stored rating O (R2). A write of W makes the scanner choose, warns of closed berths whose record has lapsed, trips
those older than 2 W, in the order B0 to B5 that is the model's choice (log entry 49), and lets the berths do what they do next
(R67, R71); a write of a sync window limit moves the windows it concerns (R47, R48). At an entry of a berth in use (FAILED LIVE)
and behind index 63 (FAILED RUN_OVERRUN) the run stops: the values before the stop are stored and act, the others are not (R163,
R184). -/
def Obligations.SetParameterAnswers : Prop :=
  (∀ (s : State) (stop : Bool) (start count : Byte) (v1 v2 v3 v4 v5 : Word) (vals : List Nat) (row : Instr), PortReady s .t →
      TableInv s → row = .setParameter .t stop start count v1 v2 v3 v4 v5 →
      vals = [v1.toNat, v2.toNat, v3.toNat, v4.toNat, v5.toNat] →
      1 ≤ count.toNat → count.toNat ≤ 5 → start.toNat + count.toNat ≤ 64 →
      (∀ i, start.toNat ≤ i → i < start.toNat + count.toNat → s.entryBlocked i = false) →
      ∃ t : State, exec row s = .next t.settle ∧
        (∀ k, k = (List.range count.toNat).countP (fun i => !entryOk (start.toNat + i) (vals.getD i 0)) →
          OrderEnds row s (doneClamped k k count.toNat) t) ∧
        (∀ i, i < count.toNat → t.param (start.toNat + i) = entryClamp (start.toNat + i) (vals.getD i 0)) ∧
        (∀ j, j < start.toNat ∨ start.toNat + count.toNat ≤ j → t.param j = s.param j) ∧
        (start.toNat ≤ 1 → t.gi = { s.gi with
          ceiling := if s.gi.state = .current then min (s.gi.received.getD 0) (t.param 0) else min (t.param 1) (t.param 0) }) ∧
        (2 ≤ start.toNat → t.gi = s.gi) ∧
        (∀ n, start.toNat ≤ 40 + 4 * n.toNat → 40 + 4 * n.toNat < start.toNat + count.toNat → t.berth n = { s.berth n with
          rating := match (s.berth n).authorization with
            | some a => min (t.param (40 + 4 * n.toNat)) a.cap
            | none => t.param (40 + 4 * n.toNat) }) ∧
        (12 ≤ start.toNat → (∀ n, 40 + 4 * n.toNat < start.toNat ∨ start.toNat + count.toNat ≤ 40 + 4 * n.toNat →
          t.berth n = s.berth n) ∧ OnlyTouches ([.link .t, .orders .t, .table] ++ Ix.all.map Part.berth) s t) ∧
        Untouched [.power, .time, .waiting, .inputs, .held, .pool] s t) ∧
  (∀ (s : State) (stop : Bool) (start count : Byte) (v1 v2 v3 v4 v5 : Word) (w k : Nat) (row : Instr), PortReady s .t →
      TableInv s → row = .setParameter .t stop start count v1 v2 v3 v4 v5 → start.toNat = 6 → count.toNat = 1 →
      w = entryClamp 6 v1.toNat → k = (if entryOk 6 v1.toNat then 0 else 1) →
      ∃ u : State, exec row s = .next (u.follow.endOrder (s.nextRef .t) (doneClamped k k 1)).settle ∧
        u.param 6 = w ∧ (∀ j, j ≠ 6 → u.param j = s.param j) ∧
        (s.cs.scanner = .idle → s.cs.queue = [] → ∀ n, (s.berth n).plug = .present → (s.berth n).state ≠ .vacant →
          (s.check n).status = .passed → w / 2 ≤ (s.check n).age → u.cs.scanner ≠ .idle) ∧
        (∀ late warned old due : Ix → Prop,
          (∀ n, late n ↔ ((s.berth n).breaker = .closed ∨ (s.berth n).breaker = .closeSent) ∧ w < (s.check n).age) →
          (∀ n, warned n ↔ late n ∧ (s.check n).lapseWarned = false) →
          (∀ n, old n ↔ late n ∧ 2 * w < (s.check n).age ∧ (s.berth n).state ≠ .tripped) →
          (∀ n, due n ↔ old n ∧ ((s.berth n).state = .opening → (s.berth n).purpose ≠ some .trip)) →
          (∀ n, (u.check n).age = (s.check n).age ∧ (late n → (u.check n).lapseWarned = true) ∧
            (¬ late n → (u.check n).lapseWarned = (s.check n).lapseWarned)) ∧
          (∀ n, warned n → Noticed s u (.v n) .check (some n) 2 (s.check n).age ∧
            ((∀ m, warned m → m.toNat ≤ n.toNat) → Noticed s u .t .check (some n) 2 (s.check n).age)) ∧
          (∀ n, due n → (u.berth n).state = .tripped ∧ (u.berth n).tripCause = some .checkLapsed ∧
            (u.berth n).breaker = .openSent ∧ (u.berth n).motionLimit = some 300 ∧ (u.berth n).permit = false ∧
            (u.berth n).consenting = none ∧ u.isAdmitted n = false ∧ u.ge.active.recs.get n = State.noGrant ∧
            u.ge.staged.recs.get n = State.noGrant ∧ Noticed s u (.v n) .trip (some n) TripCause.checkLapsed.index 0 ∧
            ((∀ m, old m → m.toNat ≤ n.toNat) → Noticed s u .t .trip (some n) TripCause.checkLapsed.index 0) ∧
            ((∀ m, old m → m = n) → Tripped s n .checkLapsed u ∧ Consented s n .failed .checkFailed 0 u)) ∧
          (∀ n, ¬ old n → u.berth n = s.berth n) ∧
          ((∀ n, ¬ late n) → OnlyTouches [.link .t, .orders .t, .table, .scanner] s u)) ∧
        OnlyTouches ([.table, .flags, .reference, .scanner, .grants] ++ allLinks ++ allOrders ++ Ix.all.map Part.berth) s u) ∧
  (∀ (s : State) (stop : Bool) (start count : Byte) (v1 v2 v3 v4 v5 : Word) (row : Instr), PortReady s .t → TableInv s →
      row = .setParameter .t stop start count v1 v2 v3 v4 v5 → 9 ≤ start.toNat → start.toNat ≤ 11 → count.toNat = 1 →
      (∀ n, s.berthNext n = none) →
      ∃ t : State, exec row s = .next t.settle ∧ t.param start.toNat = entryClamp start.toNat v1.toNat ∧
        (∀ j, j ≠ start.toNat → t.param j = s.param j) ∧
        (∀ n, t.ship n = if t.windowMet n then
            (if (s.ship n).window = .outside then { s.ship n with window := .settling, settle := some s.settleTime } else s.ship n)
          else if (s.ship n).window = .settling ∨ (s.ship n).window = .held then
            { s.ship n with window := .outside, settle := none }
          else s.ship n) ∧
        t.pru = { s.pru with ships := t.pru.ships } ∧ OnlyTouches [.link .t, .orders .t, .table, .reference] s t) ∧
  (∀ (s : State) (stop : Bool) (start count : Byte) (v1 v2 v3 v4 v5 : Word) (vals : List Nat) (row : Instr), PortReady s .t →
      TableInv s → row = .setParameter .t stop start count v1 v2 v3 v4 v5 →
      vals = [v1.toNat, v2.toNat, v3.toNat, v4.toNat, v5.toNat] →
      1 ≤ count.toNat → count.toNat ≤ 5 → start.toNat ≤ 63 →
      (∀ n, s.entryBlocked (40 + 4 * n.toNat) = s.entryBlocked (41 + 4 * n.toNat) ∧
        (s.entryBlocked (40 + 4 * n.toNat) = true ↔ (s.berth n).state ∉ [.vacant, .plugged, .tripped, .lockedOut])) ∧
      (∀ k, k < count.toNat → start.toNat + k ≤ 63 → (∀ i, i < k → s.entryBlocked (start.toNat + i) = false) →
        s.entryBlocked (start.toNat + k) = true →
        ∃ t : State, exec row s = .next t.settle ∧
          OrderEnds row s { verdict := .failed, code := .live, d1 := start.toNat + k, d2 := k } t ∧
          (∀ i, i < k → t.param (start.toNat + i) = entryClamp (start.toNat + i) (vals.getD i 0)) ∧
          (∀ j, j < start.toNat ∨ start.toNat + k ≤ j → t.param j = s.param j) ∧
          (∀ n, start.toNat ≤ 40 + 4 * n.toNat → 40 + 4 * n.toNat < start.toNat + k → t.berth n = { s.berth n with
            rating := match (s.berth n).authorization with
              | some a => min (t.param (40 + 4 * n.toNat)) a.cap
              | none => t.param (40 + 4 * n.toNat) }) ∧
          (∀ n, 40 + 4 * n.toNat < start.toNat ∨ start.toNat + k ≤ 40 + 4 * n.toNat → t.berth n = s.berth n) ∧
          (k = 0 → OnlyTouches [.link .t, .orders .t] s t) ∧
          OnlyTouches ([.link .t, .orders .t, .table] ++ Ix.all.map Part.berth) s t) ∧
      (64 < start.toNat + count.toNat → (∀ i, start.toNat ≤ i → i ≤ 63 → s.entryBlocked i = false) →
        ∃ t : State, exec row s = .next t.settle ∧
          (∀ stored, stored = 64 - start.toNat →
            OrderEnds row s { verdict := .failed, code := .runOverrun, d1 := stored,
                              d2 := (List.range stored).countP fun i => !entryOk (start.toNat + i) (vals.getD i 0) } t ∧
            (∀ i, i < stored → t.param (start.toNat + i) = entryClamp (start.toNat + i) (vals.getD i 0))) ∧
          (∀ j, j < start.toNat → t.param j = s.param j) ∧
          (start.toNat = 60 → (t.berth .i5).rating = match (s.berth .i5).authorization with
            | some a => min (t.param 60) a.cap
            | none => t.param 60) ∧
          (start.toNat ≠ 60 → OnlyTouches [.link .t, .orders .t, .table] s t) ∧
          OnlyTouches [.link .t, .orders .t, .table, .berth .i5] s t))

/-- MODULE_SERVICE IN and OUT end with the details of R164: the counts after the order, or FirmB and KB, or nothing; and what
they do to their module (R84, R85), after which the start test and the trim of a fallen KB may follow, at a fall to 0 before the
trips (log entry 57). FirmB is the sum of the firm figures that the Grant Engine holds, which a new O, H or reading alone does
not move (R85, R129, R160; log entry 50). -/
def Obligations.ModuleServiceAnswers : Prop :=
  (∀ (s : State) (m : Ix) (stop : Bool) (module : Byte), PortReady s .t → module.toNat = m.toNat →
      ((s.converter m).state ≠ .faulted →
        ∃ t : State, exec (.moduleServiceIn .t stop module) s = .next t.settle ∧
          OrderEnds (.moduleServiceIn .t stop module) s (doneWith t.available t.online) t) ∧
      ((s.converter m).state = .faulted → Refuses (.moduleServiceIn .t stop module) s .badState) ∧
      ((s.converter m).state = .online → Config.moduleKw * (s.online - 1) < s.heldFirmB →
        ∃ t : State, exec (.moduleServiceOut .t stop module) s = .next t.settle ∧
          OrderEnds (.moduleServiceOut .t stop module) s
            { verdict := .refused, code := .capacityNeeded, d1 := s.heldFirmB, d2 := s.busBCapacity } t ∧
          OnlyTouches [.link .t, .orders .t] s t) ∧
      (((s.converter m).state = .online → s.heldFirmB ≤ Config.moduleKw * (s.online - 1)) →
        ∃ t : State, exec (.moduleServiceOut .t stop module) s = .next t.settle ∧
          OrderEnds (.moduleServiceOut .t stop module) s (doneWith t.available t.online) t ∧
          ((s.converter m).state = .online → t.online + 1 = s.online ∧ t.available = s.available))) ∧
  (∀ (s : State) (m : Ix) (stop : Bool) (module : Byte), PortReady s .t → module.toNat = m.toNat →
      (∃ t : State, exec (.moduleServiceIn .t stop module) s = .next t.settle ∧
        ((s.converter m).state = .outOfService → (t.converter m).state ∈ [.off, .starting] ∧ (t.converter m).cause = none) ∧
        ((s.converter m).state = .stopping → t.converter m = { s.converter m with outPending := false }) ∧
        ((s.converter m).state ∈ [.off, .starting, .online] → t.converter m = s.converter m) ∧
        OnlyTouches ([.orders .t, .pool, .grants] ++ allLinks) s t) ∧
      (((s.converter m).state = .online → s.heldFirmB ≤ Config.moduleKw * (s.online - 1)) →
        ∃ t : State, exec (.moduleServiceOut .t stop module) s = .next t.settle ∧
          ((s.converter m).state = .off → (t.converter m).state = .outOfService) ∧
          ((s.converter m).state ∈ [.starting, .online] → t.converter m = { s.converter m with
            state := .stopping, outPending := true, startLimit := none, stopTimer := some 10 }) ∧
          ((s.converter m).state = .stopping → t.converter m = { s.converter m with outPending := true }) ∧
          ((s.converter m).state ∈ [.outOfService, .faulted] → t.converter m = s.converter m) ∧
          OnlyTouches ([.orders .t, .pool, .grants] ++ allLinks) s t)) ∧
  (∀ (s : State) (n : Ix),
      s.heldFirmB = sumSix (fun m => if (s.firmFigure m).2 = .b then (s.grantBerth m).firm else 0) ∧
      ((s.firmFigure n).2 = .b → s.isLive n = true ∨ s.isAdmitted n = true) ∧
      (∀ rating h x d, (s.berth n).declaration = some d →
        ((s.modBerth n fun b => { b with rating, declaration := some { d with h } }).modGrantBerth n fun g =>
          { g with reading := x }).heldFirmB = s.heldFirmB))

/-- CHECK_BERTH with the plug present files the request, and its details say where (R60, R165). -/
def Obligations.CheckBerthDetails : Prop :=
  ∀ (s : State) (n : Ix) (stop : Bool) (berth : Byte) (row : Instr), PortReady s .t → row = .checkBerth .t stop berth →
    berth.toNat = n.toNat → (s.berth n).plug = .present →
    (∀ before after, s.cs.queue = before ++ n :: after → n ∉ before →
      ∃ t : State, exec row s = .next t.settle ∧ OrderEnds row s (doneWith (before.length + 1) 1) t ∧
        OnlyTouches [.link .t, .orders .t] s t) ∧
    (∀ c, n ∉ s.cs.queue → s.cs.scanner = .running c → c.berth = n →
      ∃ t : State, exec row s = .next t.settle ∧ OrderEnds row s (doneWith 0 2) t ∧ OnlyTouches [.link .t, .orders .t] s t) ∧
    (n ∉ s.cs.queue → (∀ c, s.cs.scanner = .running c → c.berth ≠ n) →
      ∃ t : State, exec row s = .next t.settle ∧ OrderEnds row s (doneWith (s.cs.queue.length + 1) 0) t ∧
        (s.cs.scanner ≠ .idle → t.cs = { s.cs with queue := s.cs.queue ++ [n] }) ∧
        (s.cs.scanner = .idle → s.cs.queue = [] → t.cs.queue = [] ∧
          ∃ c, t.cs.scanner = .running c ∧ c.berth = n ∧ c.origin = .request) ∧
        OnlyTouches [.link .t, .orders .t, .scanner] s t)

/-- ACK_TRIP (R23): BAD_STATE outside TRIPPED, STUCK while the breaker is not known open, else the berth is PLUGGED, or VACANT
and cleared. -/
def Obligations.AckTripAnswers : Prop :=
  ∀ (s : State) (n : Ix) (stop : Bool) (berth : Byte) (row : Instr), PortReady s .t → row = .ackTrip .t stop berth →
    berth.toNat = n.toNat →
    ((s.berth n).state ≠ .tripped → Refuses row s .badState) ∧
    ((s.berth n).state = .tripped → ((s.berth n).stuck = true ∨ (s.berth n).breaker ≠ .opened) → Refuses row s .stuck) ∧
    ((s.berth n).state = .tripped → (s.berth n).stuck = false → (s.berth n).breaker = .opened →
      ∃ t : State, exec row s = .next t.settle ∧ OrderEnds row s (doneWith 0 0) t ∧ (t.berth n).tripCause = none ∧
        ((s.berth n).plug = .present → t.berth n = { s.berth n with state := .plugged, tripCause := none } ∧
          OnlyTouches [.link .t, .orders .t, .berth n] s t) ∧
        ((s.berth n).plug = .absent → t.berth n = { s.berth n with
            state := .vacant, tripCause := none, declaration := none, authorization := none, forcedOpen := false,
            declarationAwaited := false, authorizationAwaited := false, rating := s.storedRating n } ∧
          t.check n = State.freshCheck ∧ n ∉ t.cs.queue ∧ (∀ c, t.cs.scanner = .running c → c.berth ≠ n) ∧
          t.ge = { s.ge with berths := s.ge.berths.set n { s.grantBerth n with
            charge := State.emptyCharge, overGrant := 0, overRating := 0, reading := none, sinceAdoption := false
            adoptionUnread := false } } ∧
          OnlyTouches [.link .t, .orders .t, .berth n, .scanner, .grants] s t))

/-- LOCKOUT (R27). On: VACANT and PLUGGED are locked out; a waiting berth ends its CONNECT FAILED LOCKED; live and closing
berths are LIVE, OPENING and TRIPPED ones BAD_STATE; a LOCKED_OUT berth stays as it is. Off: a LOCKED_OUT berth goes to PLUGGED,
or to VACANT without its plug; any other stays as it is. -/
def Obligations.LockoutAnswers : Prop :=
  (∀ (s : State) (n : Ix) (stop : Bool) (berth : Byte) (row : Instr), PortReady s .t → row = .lockoutOn .t stop berth →
      berth.toNat = n.toNat →
      ((s.berth n).state ∈ [.vacant, .plugged, .lockedOut] →
        ∃ t : State, exec row s = .next t.settle ∧ OrderEnds row s (doneWith 0 0) t ∧
          t.berth n = { s.berth n with state := .lockedOut } ∧ OnlyTouches [.link .t, .orders .t, .berth n] s t) ∧
      ((s.berth n).state.isWaiting = true →
        ∃ t : State, exec row s = .next t.settle ∧ OrderEnds row s (doneWith 0 0) t ∧ (t.berth n).state = .lockedOut ∧
          Consented s n .failed .locked 0 t ∧ t.isAdmitted n = false ∧
          OnlyTouches ([.link .t, .berth n, .reference, .grants] ++ allOrders) s t) ∧
      ((s.berth n).state ∈ [.closing, .parallel, .onShore, .returnWait, .returnParallel, .adopted] → Refuses row s .live) ∧
      ((s.berth n).state ∈ [.opening, .tripped] → Refuses row s .badState)) ∧
  (∀ (s : State) (n : Ix) (stop : Bool) (berth : Byte) (row : Instr), PortReady s .t → row = .lockoutOff .t stop berth →
      berth.toNat = n.toNat →
      ((s.berth n).state = .lockedOut → (s.berth n).plug = .present →
        ∃ t : State, exec row s = .next t.settle ∧ OrderEnds row s (doneWith 0 0) t ∧
          t.berth n = { s.berth n with state := .plugged } ∧ OnlyTouches [.link .t, .orders .t, .berth n] s t) ∧
      ((s.berth n).state = .lockedOut → (s.berth n).plug = .absent →
        ∃ t : State, exec row s = .next t.settle ∧ OrderEnds row s (doneWith 0 0) t ∧ (t.berth n).state = .vacant ∧
          (t.berth n).declaration = none ∧ (t.berth n).authorization = none ∧
          OnlyTouches [.link .t, .orders .t, .berth n, .scanner, .grants] s t) ∧
      ((s.berth n).state ≠ .lockedOut →
        ∃ t : State, exec row s = .next t.settle ∧ OrderEnds row s (doneWith 0 0) t ∧ OnlyTouches [.link .t, .orders .t] s t))

/-- RELEASE (R166): DONE at once while not HELD or with the round closed, which clears HELD and posts RELEASED to T and every
open vessel port; with the round open it waits with a limit of 60 s, and ends at that limit, or at the closing of the round
(R69). The expiry row is the expiry of the running timer (log entry 2). -/
def Obligations.ReleaseAnswers : Prop :=
  (∀ (s : State) (stop : Bool), PortReady s .t →
      (s.oe.held = false → ∃ t : State, exec (.release .t stop) s = .next t.settle ∧ OrderEnds (.release .t stop) s (doneWith 0 0) t ∧
        OnlyTouches [.link .t, .orders .t] s t) ∧
      (s.oe.held = true → s.cs.roundClosed = true →
        ∃ t : State, exec (.release .t stop) s = .next t.settle ∧ OrderEnds (.release .t stop) s (doneWith 0 0) t ∧
          t.oe.held = false ∧
          (∀ p, (s.port p).isOpen = true → (t.port p).notices.held =
            { (s.port p).notices.held with
              flag := true, latest := some { berth := none, code := some 1, value := 0, period := s.ge.period } }) ∧
          OnlyTouches ([.orders .t, .held] ++ allLinks) s t) ∧
      (s.oe.held = true → s.cs.roundClosed = false →
        ∃ t : State, exec (.release .t stop) s = .next t.settle ∧ OrderRuns (.release .t stop) s t ∧
          (t.orders .t).timer = some 60 ∧ OnlyTouches [.link .t, .orders .t] s t)) ∧
  (∀ (s : State) (r : OrderRef) (o : OrderRec) (k : Nat), s.powered = true →
      s.running? .t = some (r, { record := o, status := .running k }) → s.slot? r = some { record := o, status := .running k } →
      o.order = .release →
      (∃ t : State, exec .releaseLimitExpiry s = .next t.settle ∧
        t.slot? r = some ⟨o, .ended
          { verdict := .failed, code := .waitTimeout, d1 := min 65535 (s.now - k), d2 := s.cs.roundList.length }⟩ ∧
        OnlyTouches [.orders .t] s t) ∧
      (∃ t : State, t = s.closeRound ∧ t.oe.held = false ∧ t.cs.roundClosed = true ∧ Finished s r .done .none 0 t))

/-- PANEL_RESET (R70, R121, R154, R167, R180, R186): every port queue is empty and its chains are answered, its own chain's
completion first, the others CANCELLED RESET in queue order; the sync flags are clear, the notice flags are clear and hold no
content while the masks are kept (a trim that an adoption of the same reset brings may post GRANT anew, log entry 28), the queues
of the other blocks are empty, the part is HELD. -/
def Obligations.PanelResetClears : Prop :=
  ∀ (s : State) (stop : Bool), PortReady s .t →
    ∃ t : State, exec (.panelReset .t stop) s = .next t.settle ∧ t.oe.held = true ∧
      (∀ p, (t.orders p).queue = [] ∧ (t.orders p).timer = none ∧ (p ≠ .t → (t.orders p).rolling = (s.orders p).rolling)) ∧
      (∀ p cls, ((t.port p).notices.get cls).masked = ((s.port p).notices.get cls).masked ∧
        (p = .t ∨ cls ≠ .grant ∨ (∀ n, (s.berth n).state ∉ [.onShore, .adopted]) →
          ((t.port p).notices.get cls).flag = false ∧ ((t.port p).notices.get cls).latest = none)) ∧
      (∀ n second, t.flag n second = { isSet := false, waiters := [] }) ∧
      (∀ n, (t.berth n).consenting = none) ∧
      t.ge.queue = [] ∧ t.cs.queue = [] ∧ t.cp = { s.cp with stopCount := 0 } ∧ t.pru.mode = .free ∧
      t.pru.frequency = 60000 ∧ t.pru.phase = s.pru.phase ∧ t.pru.holder = none ∧ t.pru.waiting = [] ∧
      (∀ n, (t.ship n).window = .inactive ∧ (t.ship n).side = (s.ship n).side) ∧
      (t.port .t).transmit = (s.port .t).transmit ++
        [.accept (s.orders .t).rolling (s.freeSlots - 1),
         .completion (s.orders .t).rolling
          [doneWith ((Port.all.map fun p => (s.orders p).queue.length).sum)
            (countSix fun n => decide ((s.berth n).state ∈ [.parallel, .returnWait, .returnParallel]))]] ∧
      (∀ n, (s.port (.v n)).isOpen = true →
        (t.port (.v n)).transmit.filter (fun f => f.kind != 133) =
          (s.port (.v n)).transmit.filter (fun f => f.kind != 133) ++ (s.orders (.v n)).queue.map fun c =>
            .completion c.count ((c.cancelRest .reset).orders.map Slot.statusRecord)) ∧
      Untouched [.power, .time, .waiting, .table, .inputs, .grid] s t

/-- What PANEL_RESET does to each berth (R31). -/
def Obligations.PanelResetBerths : Prop :=
  ∀ (s : State) (stop : Bool) (n : Ix), PortReady s .t →
    ∃ t : State, exec (.panelReset .t stop) s = .next t.settle ∧
      ((s.berth n).state.isWaiting = true → (t.berth n).state = .plugged ∧ t.isAdmitted n = false) ∧
      ((s.berth n).state = .closing → (t.berth n).state = .closing ∧ (t.berth n).adoptOnClose = true ∧
        (t.berth n).motionLimit = (s.berth n).motionLimit) ∧
      ((s.berth n).state ∈ [.parallel, .returnWait, .returnParallel] →
        (t.berth n).state = .opening ∧ (t.berth n).purpose = some .panel ∧ (t.berth n).permit = false ∧
          ((s.berth n).breaker = .closed → (t.berth n).breaker = .openSent ∧ (t.berth n).motionLimit = some 300)) ∧
      ((s.berth n).state ∈ [.onShore, .adopted] → (t.berth n).state = .adopted ∧
        (t.berth n).declarationAwaited = true ∧ (t.berth n).authorizationAwaited = true) ∧
      ((s.berth n).state ∈ [.opening, .tripped, .lockedOut, .vacant, .plugged] →
        t.berth n = { s.berth n with consenting := none, returnForced := false }) ∧
      (t.berth n).declaration = (s.berth n).declaration ∧ (t.berth n).authorization = (s.berth n).authorization ∧
      (t.berth n).rating = (s.berth n).rating ∧ (t.berth n).tripCause = (s.berth n).tripCause ∧
      (t.berth n).stuck = (s.berth n).stuck ∧ (t.berth n).forcedOpen = (s.berth n).forcedOpen ∧
      (t.berth n).plug = (s.berth n).plug ∧ (t.berth n).bus = (s.berth n).bus ∧ (t.berth n).moving = (s.berth n).moving

/-- BERTH_RESET (R32): LIVE for a berth that is closing, live, opening or adopted; else the berth's declaration, authorization
and markers are cleared, its sequence timers but a selector limit stop, a waiting berth ends its CONNECT FAILED RESET and is
PLUGGED, its check and charge records are set up anew, and its two flags are clear with their waiters FAILED RESET. -/
def Obligations.BerthResetAnswers : Prop :=
  ∀ (s : State) (n : Ix) (stop : Bool) (berth : Byte) (row : Instr), PortReady s .t → row = .berthReset .t stop berth →
    berth.toNat = n.toNat →
    ((s.berth n).state ∈ [.closing, .parallel, .onShore, .returnWait, .returnParallel, .opening, .adopted] →
      Refuses row s .live) ∧
    ((s.berth n).state ∉ [.closing, .parallel, .onShore, .returnWait, .returnParallel, .opening, .adopted] →
      ∃ t : State, exec row s = .next t.settle ∧ OrderEnds row s (doneWith 0 0) t ∧
        t.berth n = { s.berth n with
          state := if (s.berth n).state.isWaiting then .plugged else (s.berth n).state
          declaration := none, authorization := none, forcedOpen := false, declarationAwaited := false,
          authorizationAwaited := false, rating := s.storedRating n, approach := none, purpose := none, consenting := none,
          admissionLimit := none, syncLimit := none, openTransitionLimit := none, parallelLimit := none, returnLimit := none,
          motionLimit := none, deadCount := .stopped } ∧
        t.flag n false = { isSet := false, waiters := [] } ∧ t.flag n true = { isSet := false, waiters := [] } ∧
        (∀ second, ∀ w ∈ (s.flag n second).waiters, ∀ r o k,
          s.running? w.port = some (r, { record := o, status := .running k }) →
          ((s.berth n).state.isWaiting = true → ∀ c, (s.berth n).consenting = some c → c.port ≠ w.port) →
          Finished s r .failed .reset 0 t) ∧
        (t.grantBerth n).charge = State.emptyCharge ∧ (t.grantBerth n).overGrant = 0 ∧ (t.grantBerth n).overRating = 0 ∧
        (t.check n = State.freshCheck ∨ ∃ c, t.cs.scanner = .running c ∧ c.berth = n ∧ c.origin = .round ∧
          t.check n = { State.freshCheck with status := .inFlight, before := some .none, mode := some c.mode }) ∧
        ((s.berth n).plug = .absent → t.check n = State.freshCheck) ∧ n ∉ t.cs.queue ∧
        ((s.berth n).state.isWaiting = true → Consented s n .failed .reset 0 t ∧ t.isAdmitted n = false ∧
          (∀ e ∈ t.ge.queue, e.berth ≠ n) ∧ (t.ship n).window = .inactive ∧
          OnlyTouches ([.link .t, .flags, .berth n, .reference, .scanner, .grants] ++ allOrders) s t) ∧
        ((s.berth n).state.isWaiting = false →
          OnlyTouches ([.link .t, .flags, .berth n, .scanner, .grants] ++ allOrders) s t))

/-! ### Common orders -/

/-- RAISE_FLAG (R151, R168): a CLEAR flag without a waiter becomes SET, a CLEAR flag with one is handed to the earliest, a SET
flag stays SET; the details say which, and to whom. -/
def Obligations.RaiseFlagDetails : Prop :=
  ∀ (s : State) (p : Port) (n : Ix) (stop : Bool) (berth flag : Byte) (f : SyncFlag) (row : Instr), PortReady s p →
    row = .raiseFlag p stop berth flag → (p = .t ∨ p = .v n) → berth.toNat = n.toNat → flag.toNat ≤ 1 →
    f = s.flag n (decide (flag.toNat = 1)) →
    (f.isSet = false → f.waiters = [] →
      ∃ t : State, exec row s = .next t.settle ∧ OrderEnds row s (doneWith 0 0) t ∧
        t.flag n (decide (flag.toNat = 1)) = { f with isSet := true } ∧
        t.flag n (decide (flag.toNat = 0)) = s.flag n (decide (flag.toNat = 0)) ∧
        (∀ m second, m ≠ n → t.flag m second = s.flag m second) ∧ OnlyTouches [.link p, .orders p, .flags] s t) ∧
    (∀ w more, f.isSet = false → f.waiters = w :: more →
      ∃ t : State, exec row s = .next t.settle ∧ OrderEnds row s (doneWith 1 w.port.code) t ∧
        t.flag n (decide (flag.toNat = 1)) = { f with waiters := more } ∧
        (∀ r o k, s.running? w.port = some (r, { record := o, status := .running k }) → Finished s r .done .none 0 t) ∧
        OnlyTouches [.link p, .orders p, .orders w.port, .flags] s t) ∧
    (f.isSet = true →
      ∃ t : State, exec row s = .next t.settle ∧ OrderEnds row s (doneWith 2 0) t ∧ OnlyTouches [.link p, .orders p] s t)

/-- WAIT_FLAG (R152, R169): a SET flag is taken and CLEAR, with details 0; at a CLEAR flag the order joins the waiters with its
limit and runs. At the limit it leaves the waiters, the others keep their order, and it ends FAILED WAIT_TIMEOUT with the full
limit as detail 1. The expiry row is the expiry of the running timer (log entry 2). -/
def Obligations.WaitFlagAnswers : Prop :=
  (∀ (s : State) (p : Port) (n : Ix) (stop : Bool) (berth flag : Byte) (limit : Word) (f : SyncFlag) (row : Instr),
      PortReady s p → row = .waitFlag p stop berth flag limit → (p = .t ∨ p = .v n) → berth.toNat = n.toNat →
      flag.toNat ≤ 1 → 1 ≤ limit.toNat → f = s.flag n (decide (flag.toNat = 1)) →
      (f.isSet = true →
        ∃ t : State, exec row s = .next t.settle ∧ OrderEnds row s (doneWith 0 0) t ∧
          t.flag n (decide (flag.toNat = 1)) = { f with isSet := false } ∧
          (∀ m second, (m, second) ≠ (n, decide (flag.toNat = 1)) → t.flag m second = s.flag m second) ∧
          OnlyTouches [.link p, .orders p, .flags] s t) ∧
      (f.isSet = false →
        ∃ t : State, exec row s = .next t.settle ∧ OrderRuns row s t ∧
          t.flag n (decide (flag.toNat = 1)) = { f with waiters := f.waiters ++ [{ port := p, left := limit.toNat }] } ∧
          (∀ m second, (m, second) ≠ (n, decide (flag.toNat = 1)) → t.flag m second = s.flag m second) ∧
          OnlyTouches [.link p, .orders p, .flags] s t)) ∧
  (∀ (s : State) (p : Port) (r : OrderRef) (o : OrderRec) (k : Nat) (flag : Byte) (limit : Word), s.powered = true →
      s.running? p = some (r, { record := o, status := .running k }) → s.slot? r = some { record := o, status := .running k } →
      o.order = .waitFlag flag limit →
      ∃ t : State, exec (.waitLimitExpiry p) s = .next t.settle ∧
        t.slot? r = some ⟨o, .ended { verdict := .failed, code := .waitTimeout, d1 := limit.toNat, d2 := 0 }⟩ ∧
        (∀ n second, t.flag n second = { s.flag n second with
          waiters := (s.flag n second).waiters.filter fun w => decide (w.port ≠ p) }) ∧
        OnlyTouches [.orders p, .flags] s t)

/-- PROVE_CLOSE (R170): the first of the eleven conditions that fails, how many were not evaluated, and no change of state. The
eleven interlock conditions are as R6 words them, condition 9 as R171 judges it for a berth admitted or live. That condition 10
takes the other berths with the firm figures held is the model's choice (log entry 50). -/
def Obligations.ProveCloseReportsFirst : Prop :=
  (∀ (s : State) (p : Port) (n : Ix) (stop : Bool) (berth : Byte) (row : Instr), PortReady s p →
      row = .proveClose p stop berth → (p = .t ∨ p = .v n) → berth.toNat = n.toNat →
      (∀ k, k < 11 → (∀ i, i < k → (s.conditions n)[i]? = some true) → (s.conditions n)[k]? = some false →
        ∃ t : State, exec row s = .next t.settle ∧ OrderEnds row s (doneWith (k + 1) (10 - k)) t ∧
          OnlyTouches [.link p, .orders p] s t) ∧
      ((∀ i, i < 11 → (s.conditions n)[i]? = some true) →
        ∃ t : State, exec row s = .next t.settle ∧ OrderEnds row s (doneWith 0 0) t ∧ OnlyTouches [.link p, .orders p] s t)) ∧
  (∀ (s : State) (n : Ix) (d : Declaration), (s.berth n).declaration = some d →
      (s.conditions n).length = 11 ∧
      ((s.conditions n)[0]? = some true ↔ s.oe.held = false) ∧
      ((s.conditions n)[1]? = some true ↔ (s.berth n).plug = .present) ∧
      ((s.conditions n)[2]? = some true ↔ (s.berth n).state ≠ .tripped ∧ (s.berth n).state ≠ .lockedOut) ∧
      ((s.conditions n)[3]? = some true ↔ d.cls = s.storedClass n) ∧
      ((s.conditions n)[4]? = some true ↔ ∃ a, (s.berth n).authorization = some a ∧ a.withdrawn = false) ∧
      ((s.conditions n)[5]? = some true ↔
        (s.berth n).moving = false ∧ (s.berth n).bus = (if d.freq = .f50 then .a else .b)) ∧
      ((s.berth n).bus = .a → ((s.conditions n)[6]? = some true ↔ s.pru.busAPresent = true)) ∧
      ((s.berth n).bus = .b → ((s.conditions n)[6]? = some true ↔
        ∃ m, (s.converter m).state ≠ .faulted ∧ (s.converter m).state ≠ .outOfService)) ∧
      ((s.conditions n)[7]? = some true ↔ s.fresh n = true) ∧
      (s.isAdmitted n = true ∨ s.isLive n = true → (s.conditions n)[8]? = some true) ∧
      ((s.berth n).bus = .a → (s.conditions n)[9]? = some true) ∧
      ((s.berth n).bus = .b → ((s.conditions n)[9]? = some true ↔
        s.heldOnBut .b (some n) + min d.h (s.berth n).rating ≤ s.busBCapacity)) ∧
      ((d.trans = .closed ∧ (s.ship n).side ≠ .dead) → ((s.conditions n)[10]? = some true ↔ s.windowMet n = true)) ∧
      ((d.trans = .opened ∨ (s.ship n).side = .dead) →
        ((s.conditions n)[10]? = some true ↔ (s.berth n).deadCount = .completed)))

/-- What a berth does next (`berthNext`) commands its breaker closed, and no other, only from SYNCING with the window held, or from
DEAD_WAIT with the ship side dead and its count complete, with the plug present, the part released, the berth admitted, the
selector ready, the record fresh, the bus available and its capacity online (R6, R12, R13, R14), by the firm figures held of the
other berths (log entry 50). -/
def Obligations.CloseCommandOnlyWhen : Prop :=
  ∀ (s t : State) (n m : Ix), s.berthNext n = some t → (t.berth m).breaker = .closeSent →
    (s.berth m).breaker ≠ .closeSent →
    m = n ∧ (((s.berth n).state = .syncing ∧ (s.ship n).window = .held) ∨
      ((s.berth n).state = .deadWait ∧ (s.ship n).side = .dead ∧ (s.berth n).deadCount = .completed)) ∧
    (s.berth n).plug = .present ∧ s.oe.held = false ∧ s.isAdmitted n = true ∧ s.selectorReady n = true ∧
    s.fresh n = true ∧ s.busAvailable n = true ∧ s.capacityOnline n = true ∧ (t.berth n).motionLimit = some 500

/-- DELAY starts a timer at its duration and runs; it ends DONE with details 0 when the timer expires (R172), which the
expiry row says (log entry 2). -/
def Obligations.DelayRunsAndEnds : Prop :=
  (∀ (s : State) (p : Port) (stop : Bool) (duration : Word), PortReady s p → 1 ≤ duration.toNat →
    ∃ t : State, exec (.delay p stop duration) s = .next t.settle ∧ OrderRuns (.delay p stop duration) s t ∧
      (t.orders p).timer = some duration.toNat ∧ OnlyTouches [.link p, .orders p] s t) ∧
  (∀ (s : State) (p : Port) (r : OrderRef) (o : OrderRec) (k : Nat) (duration : Word), s.powered = true →
    s.running? p = some (r, { record := o, status := .running k }) → s.slot? r = some { record := o, status := .running k } →
    o.order = .delay duration →
    ∃ t : State, exec (.delayExpiry p) s = .next t.settle ∧ t.slot? r = some { record := o, status := .ended (doneWith 0 0) } ∧
      (t.orders p).timer = none ∧ OnlyTouches [.orders p] s t)

/-! ### Frames (chapters 8 and 10) -/

/-- Frames that are not taken: an intact frame on a closed port, or with 8 answers waiting, is discarded (R173, R175); a kind
outside the catalogue is answered BAD_KIND, a notice frame of another length BAD_FRAME; a frame with a bad CRC, a receive error
or a gap is dropped (R174, R175); a frame that has been sent leaves the queue (R176). -/
def Obligations.OtherFrames : Prop :=
  (∀ (s : State) (c : Instr) (p : Port) (kind : Byte) (payload : List Byte), s.powered = true →
      (c = .chain p payload ∨ c = .cancel p payload ∨ c = .read p payload ∨ c = .noticeClear p payload ∨
        c = .noticeSet p payload ∨ c = .noticeMask p payload ∨ c = .badKindFrame p kind payload) →
      ((s.port p).isOpen = false → s.react = none → exec c s = .next s) ∧
      ((s.port p).isOpen = true → 8 ≤ (s.port p).transmit.countP TxFrame.isAnswer →
        (s.modPort p fun lp => { lp with receive := .hunt }).react = none →
        exec c s = .next (s.modPort p fun lp => { lp with receive := .hunt }))) ∧
  (∀ (s : State) (p : Port), s.powered = true →
      exec (.corruptFrame p) s = .next (s.modPort p fun lp => { lp with receive := .hunt }) ∧
      exec (.frameReceiveError p) s = .next (s.modPort p fun lp => { lp with receive := .hunt }) ∧
      exec (.frameGapTimeout p) s = .next (s.modPort p fun lp => { lp with receive := .hunt }) ∧
      (∀ f rest, (s.port p).transmit = f :: rest →
        exec (.frameSent p) s = .next (s.modPort p fun lp => { lp with transmit := rest })) ∧
      ((s.port p).isOpen = true → s.answersWaiting p < 8 →
        (∀ kind payload, exec (.badKindFrame p kind payload) s = .next (s.modPort p fun lp =>
          { lp with receive := .hunt, transmit := lp.transmit ++ [.reject kind .badKind] })) ∧
        (∀ payload : List Byte, payload.length ≠ 1 →
          exec (.noticeClear p payload) s = .next (s.modPort p fun lp =>
            { lp with receive := .hunt, transmit := lp.transmit ++ [.reject 4 .badFrame] }) ∧
          exec (.noticeSet p payload) s = .next (s.modPort p fun lp =>
            { lp with receive := .hunt, transmit := lp.transmit ++ [.reject 5 .badFrame] }) ∧
          exec (.noticeMask p payload) s = .next (s.modPort p fun lp =>
            { lp with receive := .hunt, transmit := lp.transmit ++ [.reject 6 .badFrame] }))))

/-- A CHAIN frame (R138, R139): BAD_FRAME, QUEUE_FULL and STORE_FULL in this order, else the chain gets its tag and its slots,
joins the tail of its port queue and is answered ACCEPT. At an empty port queue its
first order is taken at once, whatever the length of the chain; behind another chain it waits. -/
def Obligations.ChainIsCheckedAndQueued : Prop :=
  ∀ (s : State) (p : Port) (payload : List Byte) (count : Nat), s.powered = true → (s.port p).isOpen = true →
    s.answersWaiting p < 8 → count = (payload.getD 0 0).toNat →
    (count = 0 ∨ 8 < count ∨ payload.length ≠ 1 + 16 * count →
      ∃ t : State, exec (.chain p payload) s = .next t.settle ∧ t.port p = { s.port p with
        receive := .hunt, transmit := (s.port p).transmit ++ [.reject 1 .badFrame] } ∧ OnlyTouches [.link p] s t) ∧
    (1 ≤ count → count ≤ 8 → payload.length = 1 + 16 * count →
      (4 ≤ (s.orders p).queue.length →
        ∃ t : State, exec (.chain p payload) s = .next t.settle ∧ t.port p = { s.port p with
          receive := .hunt, transmit := (s.port p).transmit ++ [.reject 1 .queueFull] } ∧ OnlyTouches [.link p] s t) ∧
      ((s.orders p).queue.length < 4 → s.freeSlots < count →
        ∃ t : State, exec (.chain p payload) s = .next t.settle ∧ t.port p = { s.port p with
          receive := .hunt, transmit := (s.port p).transmit ++ [.reject 1 .storeFull] } ∧ OnlyTouches [.link p] s t) ∧
      ((s.orders p).queue.length < 4 → count ≤ s.freeSlots → (s.orders p).queue ≠ [] →
        ∃ t : State, exec (.chain p payload) s = .next t.settle ∧
          t.orders p = { s.orders p with
            rolling := if 255 ≤ (s.orders p).rolling then 0 else (s.orders p).rolling + 1
            accepted := (s.orders p).accepted + 1
            queue := (s.orders p).queue ++
              [⟨(s.orders p).accepted, (s.orders p).rolling, (recordsOf count payload.tail).map fun o => ⟨o, .notTaken⟩⟩] } ∧
          (recordsOf count payload.tail).length = count ∧
          t.port p = { s.port p with
            receive := .hunt
            transmit := (s.port p).transmit ++ [.accept (s.orders p).rolling (s.freeSlots - count)] } ∧
          OnlyTouches [.link p, .orders p] s t) ∧
      (∀ first more, (s.orders p).queue = [] → count ≤ s.freeSlots → recordsOf count payload.tail = first :: more →
        ∃ t u : State, exec (.chain p payload) s = .next t.settle ∧
          t = u.takeOrder { port := p, serial := (s.orders p).accepted, pos := 1 } first ∧
          more.length + 1 = count ∧
          u.orders p = { s.orders p with
            rolling := if 255 ≤ (s.orders p).rolling then 0 else (s.orders p).rolling + 1
            accepted := (s.orders p).accepted + 1
            queue := [⟨(s.orders p).accepted, (s.orders p).rolling,
              ⟨first, .notTaken⟩ :: more.map fun o => ⟨o, .notTaken⟩⟩] } ∧
          u.port p = { s.port p with
            receive := .hunt
            transmit := (s.port p).transmit ++ [.accept (s.orders p).rolling (s.freeSlots - count)] } ∧
          OnlyTouches [.link p, .orders p] s u))

/-- A CANCEL frame (R146, R147): BAD_FRAME, NOT_PERMITTED for a tag of another port and UNKNOWN_TAG for a tag not held; a queued
chain is complete out of turn with its orders CANCELLED; in the head chain every order that has not ended ends CANCELLED, the
running one by its kind (R29, R148): a CONNECT that waits to close returns its berth to PLUGGED, a DISCONNECT in RETURN_WAIT
returns it to ON_SHORE or ADOPTED, and in any other state the berth only loses its consenting order; on any port a DELAY ends
with its timer stopped, a RELEASE with the part still HELD, and a WAIT_FLAG leaves the waiters. Where two held chains of a port
share a rolling count, that the head is meant where it has the count, and else the first with it, is the model's choice (log
entry 37). -/
def Obligations.CancelAnswers : Prop :=
  (∀ (s : State) (p : Port) (payload : List Byte), s.powered = true → (s.port p).isOpen = true → s.answersWaiting p < 8 →
      (payload.length ≠ 2 →
        ∃ t : State, exec (.cancel p payload) s = .next t.settle ∧ t.port p = { s.port p with
          receive := .hunt, transmit := (s.port p).transmit ++ [.reject 2 .badFrame] } ∧ OnlyTouches [.link p] s t) ∧
      (∀ port count : Byte, payload = [port, count] →
        (port.toNat ≠ p.code →
          ∃ t : State, exec (.cancel p payload) s = .next t.settle ∧ t.port p = { s.port p with
            receive := .hunt, transmit := (s.port p).transmit ++ [.reject 2 .notPermitted] } ∧ OnlyTouches [.link p] s t) ∧
        (port.toNat = p.code → (∀ c ∈ (s.orders p).queue, c.count ≠ count.toNat) →
          ∃ t : State, exec (.cancel p payload) s = .next t.settle ∧ t.port p = { s.port p with
            receive := .hunt, transmit := (s.port p).transmit ++ [.reject 2 .unknownTag] } ∧ OnlyTouches [.link p] s t) ∧
        (∀ head before c after, port.toNat = p.code → (s.orders p).queue = head :: before ++ c :: after →
          c.count = count.toNat → (∀ x ∈ head :: before, x.count ≠ count.toNat) →
          ∃ t : State, exec (.cancel p payload) s = .next t.settle ∧
            t.orders p = { s.orders p with queue := head :: before ++ after } ∧
            t.port p = { s.port p with
              receive := .hunt
              transmit := (s.port p).transmit ++
                [.completion c.count ((c.cancelRest .cancelled).orders.map Slot.statusRecord)] } ∧
            OnlyTouches [.link p, .orders p] s t) ∧
        (∀ head rest, port.toNat = p.code → (s.orders p).queue = head :: rest → head.count = count.toNat →
          s.running? p = none →
          ∃ t : State, exec (.cancel p payload) s = .next t.settle ∧
            t.orders p = { s.orders p with queue := head.cancelRest .cancelled :: rest, timer := none } ∧
            OnlyTouches [.link p, .orders p] s t))) ∧
  (∀ (s : State) (n : Ix) (count : Byte) (head : Chain) (rest : List Chain) (r : OrderRef) (o : OrderRec) (k : Nat),
      s.powered = true → (s.port (.v n)).isOpen = true → s.answersWaiting (.v n) < 8 →
      (s.orders (.v n)).queue = head :: rest → head.count = count.toNat →
      s.running? (.v n) = some (r, { record := o, status := .running k }) →
      ∃ t : State, exec (.cancel (.v n) [byteOf n.toNat, count]) s = .next t.settle ∧
        t.slot? r = some { record := o, status := .ended { verdict := .cancelled, code := .cancelled, d1 := 0, d2 := 0 } } ∧
        t.orders (.v n) = { s.orders (.v n) with queue := head.cancelRest .cancelled :: rest, timer := none } ∧
        t.port (.v n) = { s.port (.v n) with receive := .hunt } ∧
        ((∃ w, o.order = .connect w) ∨ (∃ tr, o.order = .disconnect tr) →
          ((s.berth n).state.isWaiting = true →
            t.berth n = { (s.berth n).stopTimers with state := .plugged, consenting := none, returnForced := false } ∧
            (t.ship n).window = .inactive ∧ t.pru.holder.map ClaimRequest.berth ≠ some n ∧ t.isAdmitted n = false ∧
            (∀ e ∈ t.ge.queue, e.berth ≠ n) ∧ t.ge.active.recs.get n = State.noGrant ∧ t.ge.staged.recs.get n = State.noGrant ∧
            OnlyTouches [.link (.v n), .orders (.v n), .berth n, .reference, .grants] s t) ∧
          ((s.berth n).state = .returnWait → t.berth n = { s.berth n with
            state := if (s.berth n).markerSet then .adopted else .onShore
            returnLimit := none, permit := false, permitDeadTime := none, consenting := none, returnForced := false }) ∧
          ((s.berth n).state.isWaiting = false → (s.berth n).state ≠ .returnWait →
            t.berth n = { s.berth n with consenting := none, returnForced := false }) ∧
          ((s.berth n).state.isWaiting = false → OnlyTouches [.link (.v n), .orders (.v n), .berth n] s t)) ∧
        (∀ f l, o.order = .waitFlag f l → (∀ m second w, w ∈ (t.flag m second).waiters → w.port ≠ .v n) ∧
          OnlyTouches [.link (.v n), .orders (.v n), .flags] s t)) ∧
  (∀ (s : State) (p : Port) (count : Byte) (head : Chain) (rest : List Chain) (r : OrderRef) (o : OrderRec) (k : Nat),
      s.powered = true → (s.port p).isOpen = true → s.answersWaiting p < 8 →
      (s.orders p).queue = head :: rest → head.count = count.toNat →
      s.running? p = some (r, { record := o, status := .running k }) →
      (∃ d, o.order = .delay d) ∨ o.order = .release ∨ (∃ f l, o.order = .waitFlag f l) →
      ∃ t : State, exec (.cancel p [byteOf p.code, count]) s = .next t.settle ∧
        t.slot? r = some { record := o, status := .ended { verdict := .cancelled, code := .cancelled, d1 := 0, d2 := 0 } } ∧
        t.orders p = { s.orders p with queue := head.cancelRest .cancelled :: rest, timer := none } ∧
        (∀ f l, o.order = .waitFlag f l → ∀ m second, t.flag m second = { s.flag m second with
          waiters := (s.flag m second).waiters.filter fun w => decide (w.port ≠ p) }) ∧
        ((∃ d, o.order = .delay d) ∨ o.order = .release → OnlyTouches [.link p, .orders p] s t) ∧
        OnlyTouches [.link p, .orders p, .flags] s t)

/-- A READ frame is answered with the records as they stand (R177, R178): the frame for the answer joins the transmit queue. The
checks come in the order table, permission, index; a reply holds what was asked for, as far as the table reaches and 237 bytes
hold, and every record of a table has its length of section 10.6. The bytes of a record are those of the model's record functions
(log entries 11, 36, 41, 44, 51, 56 and 58). -/
def Obligations.ReadIsAnswered : Prop :=
  ∀ (s : State) (p : Port) (payload : List Byte), s.powered = true → (s.port p).isOpen = true → s.answersWaiting p < 8 →
    (payload.length ≠ 3 → ∃ t : State, exec (.read p payload) s = .next t ∧ OnlyTouches [.link p] s t ∧ t.port p = { s.port p with
      receive := .hunt, transmit := (s.port p).transmit ++ [.reject 3 .badFrame] }) ∧
    (∀ (table start count : Byte) (answer : TxFrame), payload = [table, start, count] →
      answer = s.readAnswer p table start count →
      (∃ t : State, exec (.read p payload) s = .next t ∧ OnlyTouches [.link p] s t ∧
        t.port p = { s.port p with receive := .hunt, transmit := (s.port p).transmit ++ [answer] }) ∧
      (7 < table.toNat → answer = .reject 3 .badTable) ∧
      (∀ n, p = .v n → (table.toNat = 1 ∨ table.toNat = 5) → answer = .reject 3 .notPermitted) ∧
      (∀ (tb : Table) (records : List (List Byte)), Table.ofByte table = some tb → tb.readable p = true →
        records = s.tableRecords p tb →
        (records.length ≤ start.toNat → answer = .reject 3 .badIndex) ∧
        (∀ k, start.toNat < records.length → k = min count.toNat (min (records.length - start.toNat) (237 / tb.width)) →
          answer = .readReply table.toNat start.toNat k ((records.drop start.toNat).take k).flatten) ∧
        (∀ x ∈ records, x.length = tb.width) ∧
        (tb = .notice → records.length = 8) ∧ (tb = .status → records.length = 7) ∧
        (∀ n, p = .v n → tb ∈ [.berth, .charge, .check] → records.length = 1) ∧
        (p = .t → tb ∈ [.berth, .module, .charge, .check] → records.length = 6) ∧
        (tb = .grant → records.length = if p = .t then 12 else 2)) ∧
      (∀ n, p = .v n → table.toNat = 0 → start.toNat = 0 → 1 ≤ count.toNat →
        answer = .readReply 0 0 1 (s.berthRecord n)) ∧
      (p = .t → table.toNat = 0 → 6 ≤ start.toNat → answer = .reject 3 .badIndex) ∧
      (∀ n, p = .t → start.toNat = n.toNat → count.toNat = 1 →
        (table.toNat = 0 → answer = .readReply 0 n.toNat 1 (s.berthRecord n)) ∧
        (table.toNat = 1 → answer = .readReply 1 n.toNat 1 (s.converter n).record) ∧
        (table.toNat = 2 → answer = .readReply 2 n.toNat 1 (s.grantRecord s.ge.active n)) ∧
        (table.toNat = 3 → answer = .readReply 3 n.toNat 1 (s.grantBerth n).chargeRecord) ∧
        (table.toNat = 4 → answer = .readReply 4 n.toNat 1 (s.check n).record)) ∧
      (∀ n, p = .t → table.toNat = 2 → start.toNat = 6 + n.toNat → count.toNat = 1 →
        answer = .readReply 2 (6 + n.toNat) 1 (s.grantRecord s.ge.staged n)) ∧
      (∀ cls : NoticeClass, table.toNat = 6 → start.toNat = cls.index → count.toNat = 1 →
        answer = .readReply 6 cls.index 1 ((s.port p).notices.get cls).record) ∧
      (table.toNat = 7 → start.toNat = 0 → count.toNat = 1 → answer = .readReply 7 0 1 (pad40 s.statusGrid)) ∧
      (TableInv s → p = .t → table.toNat = 5 → start.toNat ≤ 63 → count.toNat = 1 →
        answer = .readReply 5 start.toNat 1
          [BitVec.ofNat 8 (s.param start.toNat / 256), BitVec.ofNat 8 (s.param start.toNat)]))

/-- NOTICE_CLEAR, NOTICE_SET and NOTICE_MASK act on the named classes of the sending port alone (R180). A NOTICE_SET of an
unmasked class sends its latest content. -/
def Obligations.NoticeFramesAct : Prop :=
  ∀ (s : State) (p : Port) (set : Byte), s.powered = true → (s.port p).isOpen = true → s.answersWaiting p < 8 →
    (∃ t : State, exec (.noticeClear p [set]) s = .next t ∧ OnlyTouches [.link p] s t ∧
      (t.port p).transmit = (s.port p).transmit ∧
      ∀ cls, (t.port p).notices.get cls = if set.getLsbD cls.index = true ∧ cls.actsOn p = true then
        { (s.port p).notices.get cls with flag := false } else (s.port p).notices.get cls) ∧
    (∃ t : State, exec (.noticeMask p [set]) s = .next t ∧ OnlyTouches [.link p] s t ∧
      (t.port p).transmit = (s.port p).transmit ∧
      ∀ cls, (t.port p).notices.get cls = { (s.port p).notices.get cls with masked := set.getLsbD cls.index }) ∧
    (∃ t : State, exec (.noticeSet p [set]) s = .next t ∧ OnlyTouches [.link p] s t ∧
      (∀ cls, (t.port p).notices.get cls = if set.getLsbD cls.index = true ∧ cls.actsOn p = true then
        { (s.port p).notices.get cls with flag := true } else (s.port p).notices.get cls) ∧
      (∀ cls, set.getLsbD cls.index = true → cls.actsOn p = true → ((s.port p).notices.get cls).masked = false →
        TxFrame.notice cls (s.setContent p cls) ∈ (t.port p).transmit ∧
          s.setContent p cls = (((s.port p).notices.get cls).latest).getD
            { berth := none, code := none, value := 0, period := s.ge.period }) ∧
      ((∀ cls, set.getLsbD cls.index = true → cls.actsOn p = true → ((s.port p).notices.get cls).masked = true) →
        (t.port p).transmit = (s.port p).transmit))

/-- The receive state of an open port moves with each byte (R174): the start byte, the kind, the length of 0 to 240, the payload,
the CRC, high byte first; a length above 240 drops the frame. -/
def Obligations.ReceiveStateMoves : Prop :=
  ∀ (s : State) (p : Port) (b : Byte), s.powered = true → (s.port p).isOpen = true →
    (∀ rx, (((s.port p).receive = .hunt ∧ b = 165 ∧ rx = Receive.kind) ∨
        ((s.port p).receive = .hunt ∧ b ≠ 165 ∧ rx = .hunt) ∨
        ((s.port p).receive = .kind ∧ rx = .length b) ∨
        (∃ k, (s.port p).receive = .length k ∧ 240 < b.toNat ∧ rx = .hunt) ∨
        (∃ k, (s.port p).receive = .length k ∧ b.toNat = 0 ∧ rx = .crcHigh k []) ∨
        (∃ k, (s.port p).receive = .length k ∧ 1 ≤ b.toNat ∧ b.toNat ≤ 240 ∧ rx = .payload k b []) ∨
        (∃ k len got, (s.port p).receive = .payload k len got ∧ got.length + 1 < len.toNat ∧
          rx = .payload k len (got ++ [b])) ∨
        (∃ k len got, (s.port p).receive = .payload k len got ∧ got.length + 1 = len.toNat ∧
          rx = .crcHigh k (got ++ [b])) ∨
        (∃ k got, (s.port p).receive = .crcHigh k got ∧ rx = .crcLow k got b) ∨
        (∃ k got high, (s.port p).receive = .crcLow k got high ∧ Word.ofBytes high b ≠ frameCrc k got ∧ rx = .hunt)) →
      ∃ t : State, exec (.frameByteReceived p b) s = .next t.settle ∧ t = s.modPort p fun lp => { lp with receive := rx }) ∧
    (∀ k got high, (s.port p).receive = .crcLow k got high → Word.ofBytes high b = frameCrc k got →
      exec (.frameByteReceived p b) s = .next (s.handling p (State.byKind p k got)).settle)

/-! ### The Grid Interface (chapter 5) -/

/-- A complete grid word (R91): a good one is accepted and L is formed anew, a bad one is discarded. The bytes of a word are
gathered behind the marker 195, the third byte after it completes it, and an error or a gap drops it (R90). -/
def Obligations.GridWordAccepted : Prop :=
  (∀ (s : State) (hi lo check : Byte), s.powered = true →
      (check = ~~~(hi + lo) →
        ∃ t : State, exec (.gridWord hi lo check) s = .next t ∧
          t.gi = { s.gi with
            assembly := .hunt, received := some (min (10 * (256 * hi.toNat + lo.toNat)) s.feeder), state := .current
            staleness := some s.stalenessLimit, ceiling := min (10 * (256 * hi.toNat + lo.toNat)) s.feeder } ∧
          (s.gi.state = .stale → (s.port .t).isOpen = true → (t.port .t).notices.ceiling = { (s.port .t).notices.ceiling with
            flag := true
            latest := some { berth := none, code := some 2, period := s.ge.period,
                             value := min (10 * (256 * hi.toNat + lo.toNat)) s.feeder } }) ∧
          (s.gi.state ≠ .stale → t.port .t = s.port .t) ∧ OnlyTouches [.link .t, .grid] s t) ∧
      (check ≠ ~~~(hi + lo) → exec (.gridWord hi lo check) s = .next (s.modGi fun g => { g with assembly := .hunt }))) ∧
  (∀ (s : State) (b hi lo : Byte), s.powered = true →
      (s.gi.assembly = .hunt → b = 195 →
        exec (.gridByteReceived b) s = .next (s.modGi fun g => { g with assembly := .collect [] })) ∧
      (s.gi.assembly = .hunt → b ≠ 195 → exec (.gridByteReceived b) s = .next s) ∧
      (s.gi.assembly = .collect [] →
        exec (.gridByteReceived b) s = .next (s.modGi fun g => { g with assembly := .collect [b] })) ∧
      (s.gi.assembly = .collect [hi] →
        exec (.gridByteReceived b) s = .next (s.modGi fun g => { g with assembly := .collect [hi, b] })) ∧
      (s.gi.assembly = .collect [hi, lo] → exec (.gridByteReceived b) s = exec (.gridWord hi lo b) s) ∧
      exec .gridReceiveError s = .next (s.modGi fun g => { g with assembly := .hunt }) ∧
      exec .gridWordGapTimeout s = .next (s.modGi fun g => { g with assembly := .hunt }))

/-- The staleness timer expires: STALE, L formed from the fallback ceiling, FALLBACK_ON to T (R92, R93). The shed line (R94 to
R97): asserted, the mode is taken, SHED_ON with it goes to T (R181), and flexible grants are cut in both sets at once, with
GRANT_TRIMMED and GRANT_RESTAGED to the berths concerned (R119), or only in a pending staged set, with no such notice; released,
the shed state clears and no grant changes. The expiry row and the value 0 of SHED_OFF are the model's choices, and the bus of a
staged record without a grant its reading (log entries 2, 35 and 15). -/
def Obligations.CeilingFallsBack : Prop :=
  (∀ s : State, s.powered = true → s.gi.staleness.isSome = true →
      ∃ t : State, exec .stalenessExpiry s = .next t ∧
        t.gi = { s.gi with state := .stale, staleness := none, ceiling := min s.fallback s.feeder } ∧
        ((s.port .t).isOpen = true → (t.port .t).notices.ceiling.latest =
          some { berth := none, code := some 1, value := min s.fallback s.feeder, period := s.ge.period }) ∧
        OnlyTouches [.link .t, .grid] s t) ∧
  (∀ s : State, s.powered = true →
      (s.gi.shed = none →
        ∃ t : State, exec .shedAsserted s = .next t ∧ t.gi = { s.gi with shedLine := true, shed := some s.shedParam } ∧
          Noticed s t .t .ceiling none 3 (if s.param 17 = 0 then 0 else 1) ∧
          (s.param 17 = 0 → ∀ n,
            t.ge.active.recs.get n = { s.ge.active.recs.get n with flexible := 0, share := 0 } ∧
            t.ge.staged.recs.get n = { s.ge.staged.recs.get n with flexible := 0, share := 0 } ∧
            ∀ cut restaged, cut = decide (0 < (s.ge.active.recs.get n).flexible) →
              restaged = (s.ge.staged.pending && decide (0 < (s.ge.staged.recs.get n).flexible)) →
              (restaged = true →
                (t.port (.v n)).isOpen = true → (t.port (.v n)).notices.grant = { (s.port (.v n)).notices.grant with
                  flag := true
                  latest := some { berth := some n, code := some 3, value := (s.ge.staged.recs.get n).firm,
                                   period := s.ge.staged.effective } }) ∧
              (restaged = false → cut = true → Noticed s t (.v n) .grant (some n) 2 (s.ge.active.recs.get n).firm) ∧
              (restaged = false → cut = false → t.port (.v n) = s.port (.v n))) ∧
          (s.param 17 ≠ 0 → t.ge.active = s.ge.active ∧ (∀ n, t.port (.v n) = s.port (.v n)) ∧
            (s.ge.staged.pending = false → t.ge = s.ge) ∧
            (s.ge.staged.pending = true → ∀ n,
              t.ge.staged.recs.get n = { s.ge.staged.recs.get n with
                flexible := 0, share := 0
                bus := if (s.ge.staged.recs.get n).firm = 0 then .none else (s.ge.staged.recs.get n).bus })) ∧
          OnlyTouches ([.inputs, .grid, .grants] ++ allLinks) s t) ∧
      (∀ mode, s.gi.shed = some mode →
        ∃ t : State, exec .shedReleased s = .next t ∧ t.gi = { s.gi with shedLine := false, shed := none } ∧
          ((s.port .t).isOpen = true → (t.port .t).notices.ceiling.latest =
            some { berth := none, code := some 4, value := 0, period := s.ge.period }) ∧
          OnlyTouches [.inputs, .link .t, .grid] s t))

/-! ### Field events of a berth (chapters 1 and 2) -/

/-- PLUG_PRESENT (R24, R35, R52, R56, R173, R180): a VACANT berth is PLUGGED, others keep their state; port Vn opens anew, the
permit dead time starts at an open breaker, the check record is set up and may be chosen at once. PLUG_ABSENT (R25, R51, R66,
R69, R149): port Vn closes with its chains, the permit is withdrawn and the check record cleared; a PLUGGED or waiting berth is
VACANT and cleared, a LOCKED_OUT one cleared, and one that is closing, live or opening is tripped PILOT_LOST with its breaker
commanded open (R25). That port Vn closes first, so that the flags meet the TRIPPED event behind the loss of the waiters of Vn
and the trip gives Vn no notice, is the model's reading (log entry 25), and so is what such a loss repeats for a berth that
opens by a trip (log entry 12). -/
def Obligations.PlugEvents : Prop :=
  (∀ (s : State) (n : Ix) (voltage : Nat), s.powered = true → (s.berth n).plug = .absent →
      ∃ t : State, exec (.plugPresent n voltage) s = .next t.settle ∧
        t.berth n = { s.berth n with
          plug := .present, state := if (s.berth n).state = .vacant then .plugged else (s.berth n).state
          permitDeadTime := if (s.berth n).breaker = .opened ∧ (s.berth n).permit = false then some s.deadTime
            else (s.berth n).permitDeadTime } ∧
        t.port (.v n) = { isOpen := true, receive := .hunt, transmit := [], notices := State.freshNotices } ∧
        t.orders (.v n) = { queue := [], rolling := 0, accepted := (s.orders (.v n)).accepted, timer := none } ∧
        (t.ship n).side = (if voltage < 100 then .dead else if voltage < 800 then .between else .live) ∧
        (t.check n = State.freshCheck ∨ (t.check n).status = .inFlight) ∧
        OnlyTouches [.inputs, .link (.v n), .orders (.v n), .berth n, .reference, .scanner] s t) ∧
  (∀ (s : State) (n : Ix), s.powered = true → (s.berth n).plug = .present →
      ∃ t : State, exec (.plugAbsent n) s = .next t.settle ∧
        (t.berth n).plug = .absent ∧ (t.berth n).permit = false ∧ (t.berth n).permitDeadTime = none ∧
        (t.port (.v n)).isOpen = false ∧ (t.port (.v n)).transmit = [] ∧
        (t.orders (.v n)).queue = [] ∧ (t.orders (.v n)).rolling = (s.orders (.v n)).rolling ∧
        (t.ship n).side = .between ∧ t.check n = State.freshCheck ∧ n ∉ t.cs.queue ∧ n ∉ t.cs.roundList ∧
        ((s.berth n).state = .plugged ∨ (s.berth n).state.isWaiting = true →
          (t.berth n).state = .vacant ∧ (t.berth n).tripCause = none) ∧
        ((s.berth n).state = .plugged ∨ (s.berth n).state.isWaiting = true ∨ (s.berth n).state = .lockedOut →
          (t.berth n).declaration = none ∧ (t.berth n).authorization = none ∧ (t.berth n).forcedOpen = false ∧
            (t.berth n).rating = s.storedRating n ∧ (t.grantBerth n).charge = State.emptyCharge) ∧
        ((s.berth n).state ∈ [.lockedOut, .tripped] → (t.berth n).state = (s.berth n).state) ∧
        ((s.berth n).state = .closing ∨ s.isLive n = true →
          (s.berth n).breaker = .closed ∨ (s.berth n).breaker = .closeSent →
          Tripped s n .pilotLost t ∧ SourceReached n .tripped (s.closePort n) t ∧ (t.berth n).motionLimit = some 300 ∧
            (t.berth n).consenting = none) ∧
        ((s.berth n).state = .opening → (s.berth n).breaker = .openSent →
          ((s.berth n).purpose ≠ some .trip → Tripped s n .pilotLost t) ∧
          (∀ why, (s.berth n).purpose = some .trip → (s.berth n).tripCause = some why →
            (t.berth n).state = .opening ∧ (t.berth n).purpose = some .trip ∧ (t.berth n).tripCause = some why ∧
            (t.berth n).breaker = .openSent ∧ t.ge.active.recs.get n = State.noGrant ∧
            t.ge.staged.recs.get n = State.noGrant ∧ Noticed s t .t .trip (some n) why.index 0) ∧
          SourceReached n .tripped (s.closePort n) t ∧ (t.berth n).motionLimit = (s.berth n).motionLimit ∧
          (t.berth n).consenting = none) ∧
        (∀ m second, (s.closePort n).flag m second = { s.flag m second with
          waiters := (s.flag m second).waiters.filter fun w => decide (w.port ≠ .v n) }) ∧
        (∀ m, m ≠ n → t.berth m = s.berth m) ∧ Untouched [.power, .time, .waiting, .table, .pool, .grid] s t)

/-- BREAKER_CLOSED_REPORT in CLOSING (R3, R15, R31): PARALLEL after a sync approach, ON_SHORE with the CONNECT DONE after a dead
one, ADOPTED when PANEL_RESET met the berth in CLOSING. BREAKER_OPEN_REPORT ends an opening (R3, R21, R52): the permit dead time
starts, the stuck marker clears, and the purpose decides: a return ends its DISCONNECT DONE and is PLUGGED, FORCE and PANEL are
PLUGGED, TRIP is TRIPPED. An ADOPTED berth without a marker enters ON_SHORE next (R28). ON_SHORE_ENTERED and RETURNED reach the
flags whose source they are (R150, R151). -/
def Obligations.BreakerReports : Prop :=
  (∀ (s : State) (n : Ix), s.powered = true → (s.berth n).state = .closing → (s.berth n).breaker = .closeSent →
      ∃ t : State, exec (.breakerClosedReport n) s = .next t.settle ∧ (t.berth n).breaker = .closed ∧
        (t.berth n).motionLimit = none ∧ (t.berth n).approach = none ∧ (t.outlet n).breaker = .closed ∧
        (t.grantBerth n).connected = s.now ∧
        ((s.berth n).adoptOnClose = false → (s.berth n).approach = some .sync →
          (t.berth n).state = .parallel ∧ (t.berth n).parallelLimit = some s.parallelTime ∧
            (t.berth n).consenting = (s.berth n).consenting ∧ t.oe.flags = s.oe.flags) ∧
        ((s.berth n).adoptOnClose = false → (s.berth n).approach = some .dead →
          (t.berth n).state = .onShore ∧ Consented s n .done .none 2 t ∧ SourceReached n .onShoreEntered s t) ∧
        ((s.berth n).adoptOnClose = true → (t.berth n).state = .adopted ∧
          (t.berth n).declarationAwaited = true ∧ (t.berth n).authorizationAwaited = true ∧
          (t.ge.active.recs.get n).firm = (s.berth n).rating ∧ (t.ge.active.recs.get n).flexible = 0 ∧
          t.isAdmitted n = false ∧ t.oe.flags = s.oe.flags) ∧
        Untouched [.power, .time, .waiting, .table, .held, .pool, .grid] s t) ∧
  (∀ (s : State) (n : Ix), s.powered = true → (s.berth n).breaker = .openSent →
      ∃ t : State, exec (.breakerOpenReport n) s = .next t.settle ∧ (t.berth n).breaker = .opened ∧ (t.berth n).stuck = false ∧
        (t.berth n).motionLimit = none ∧ (t.outlet n).breaker = .opened ∧
        ((s.berth n).moving = false → (t.berth n).bus = (s.outlet n).selector) ∧
        ((s.berth n).permit = false → (s.berth n).plug = .present → (t.berth n).permitDeadTime = some s.deadTime) ∧
        ((s.berth n).state = .opening → (s.berth n).purpose = some .ret →
          (t.berth n).state = .plugged ∧ (t.berth n).purpose = none ∧
            Consented s n .done (if (s.berth n).returnForced then .returnForced else .none) (s.berth n).openPower t ∧
            SourceReached n .returned s t) ∧
        ((s.berth n).state ≠ .opening ∨ (s.berth n).purpose ≠ some .ret → t.oe.flags = s.oe.flags) ∧
        ((s.berth n).state = .opening → (s.berth n).purpose = some .force ∨ (s.berth n).purpose = some .panel →
          (t.berth n).state = .plugged ∧ (t.berth n).purpose = none) ∧
        ((s.berth n).state = .opening → (s.berth n).purpose = some .trip →
          (t.berth n).state = .tripped ∧ (t.berth n).purpose = none ∧ (t.berth n).tripCause = (s.berth n).tripCause) ∧
        ((s.berth n).state = .tripped → (t.berth n).state = .tripped ∧ (t.berth n).tripCause = (s.berth n).tripCause) ∧
        OnlyTouches ([.inputs, .flags, .berth n, .reference, .scanner] ++ allOrders) s t) ∧
  (∀ (s : State) (n : Ix), (s.berth n).state = .adopted → (s.berth n).declarationAwaited = false →
      (s.berth n).authorizationAwaited = false → (s.ship n).window = .inactive →
      ((s.berth n).bus ≠ .b ∨ 0 < s.online) →
      ∃ t : State, s.berthNext n = some t ∧ t.berth n = { s.berth n with state := .onShore } ∧
        SourceReached n .onShoreEntered s t ∧ OnlyTouches ([.flags, .berth n] ++ allOrders) s t)

/-- BREAKER_DISAGREEMENT outside a motion (R4): the open command, and a trip CLOSE_FAIL unless the berth is TRIPPED already;
during a motion a position that does not end it is only taken in. The motion limits (R15, R21, R22): a close that does not come
is commanded open and tripped CLOSE_FAIL; an open that does not come makes the berth TRIPPED with cause BREAKER_STUCK and the
stuck marker, the open output still asserted, and of a berth that is TRIPPED it replaces the cause alone, with a notice of the
cause replaced. That the expiry row of a timer that does not run changes nothing is the model's choice (log entry 2). -/
def Obligations.BreakerFailuresTrip : Prop :=
  (∀ (s : State) (n : Ix) (position : Position), s.powered = true →
      (((s.berth n).breaker = .closed ∧ position ≠ .closed) ∨ ((s.berth n).breaker = .opened ∧ position ≠ .opened) →
        ((s.berth n).state ≠ .tripped → (s.berth n).state ≠ .opening →
          ∃ t : State, exec (.breakerDisagreement n position) s = .next t.settle ∧ Tripped s n .closeFail t ∧
            Consented s n .failed .breakerFail 0 t ∧ (t.berth n).motionLimit = some 300 ∧
            OnlyTouches (.inputs :: tripParts n) s t) ∧
        ((s.berth n).state = .tripped →
          ∃ t : State, exec (.breakerDisagreement n position) s = .next t.settle ∧ (t.berth n).state = .tripped ∧
            (t.berth n).tripCause = (s.berth n).tripCause ∧ (t.berth n).breaker = .openSent ∧
            (t.berth n).motionLimit = some 300 ∧
            OnlyTouches [.inputs, .berth n, .reference, .scanner] s t)) ∧
      (((s.berth n).breaker = .closeSent ∧ position ≠ .closed) ∨ ((s.berth n).breaker = .openSent ∧ position ≠ .opened) →
        ∃ t : State, exec (.breakerDisagreement n position) s = .next t.settle ∧ OnlyTouches [.inputs] s t ∧
          (t.outlet n).breaker = position)) ∧
  (∀ (s : State) (n : Ix), s.powered = true → (s.berth n).motionLimit.isSome = true →
      ((s.berth n).state = .closing → (s.berth n).breaker = .closeSent →
        ∃ t : State, exec (.closeMotionLimitExpiry n) s = .next t.settle ∧ Tripped s n .closeFail t ∧
          Consented s n .failed .breakerFail 0 t ∧ (t.berth n).motionLimit = some 300 ∧ OnlyTouches (tripParts n) s t) ∧
      ((s.berth n).state = .opening → (s.berth n).breaker = .openSent →
        ∃ t : State, exec (.openMotionLimitExpiry n) s = .next t.settle ∧ (t.berth n).state = .tripped ∧
          (t.berth n).tripCause = some .breakerStuck ∧ (t.berth n).stuck = true ∧ (t.berth n).breaker = .openSent ∧
          (t.berth n).motionLimit = none ∧ Consented s n .failed .stuck 0 t ∧
          (∀ cause, (s.berth n).tripCause = some cause → cause ≠ .breakerStuck →
            ∀ p, p = .t ∨ p = .v n → Noticed s t p .trip (some n) 7 cause.index) ∧
          SourceReached n .tripped s t ∧ OnlyTouches (tripParts n) s t) ∧
      ((s.berth n).state = .tripped → (s.berth n).breaker = .openSent →
        ∃ t : State, exec (.openMotionLimitExpiry n) s = .next t.settle ∧
          t.berth n = { s.berth n with stuck := true, motionLimit := none, tripCause := some .breakerStuck } ∧
          (∀ cause, (s.berth n).tripCause = some cause → cause ≠ .breakerStuck →
            ∀ p, p = .t ∨ p = .v n → Noticed s t p .trip (some n) 7 cause.index) ∧
          OnlyTouches [.link .t, .link (.v n), .berth n] s t)) ∧
  (∀ (s : State) (n : Ix), s.powered = true →
      ((s.berth n).motionLimit = none ∨ (s.berth n).breaker ≠ .closeSent → exec (.closeMotionLimitExpiry n) s = .next s.settle) ∧
      ((s.berth n).motionLimit = none ∨ (s.berth n).breaker ≠ .openSent → exec (.openMotionLimitExpiry n) s = .next s.settle))

/-- The selector (R5): the commanded position ends its motion, and a SETTLED selector's bus follows the input while the breaker
is open and stays while it is not; at its limit it settles on no bus, and a berth in ADMITTING fails BREAKER_FAIL, with its
queue entry and its admission lost. A berth in ADMITTING commands its selector, and goes to SYNCING or DEAD_WAIT when its
conditions hold (R5, R10, R12, R13), condition 10 with the firm figures held of the other berths (log entry 50). -/
def Obligations.SelectorSettles : Prop :=
  (∀ (s : State) (n : Ix) (position : Bus), s.powered = true →
      ((s.berth n).moving = true → position = (s.berth n).commanded → position ≠ .none →
        ∃ t : State, exec (.selectorPositionReport n position) s = .next t.settle ∧
          t.berth n = { s.berth n with moving := false, bus := position, selectorLimit := none } ∧
          OnlyTouches [.inputs, .berth n, .reference] s t) ∧
      ((s.berth n).moving = true → position ≠ (s.berth n).commanded →
        ∃ t : State, exec (.selectorPositionReport n position) s = .next t.settle ∧ OnlyTouches [.inputs] s t ∧
          (t.outlet n).selector = position) ∧
      ((s.berth n).moving = false → (s.berth n).breaker = .opened →
        ∃ t : State, exec (.selectorPositionReport n position) s = .next t.settle ∧ (t.berth n).bus = position ∧
          (t.berth n).moving = false ∧ OnlyTouches [.inputs, .berth n, .reference] s t) ∧
      ((s.berth n).moving = false → (s.berth n).breaker ≠ .opened →
        ∃ t : State, exec (.selectorPositionReport n position) s = .next t.settle ∧ OnlyTouches [.inputs] s t) ∧
      ((s.berth n).selectorLimit.isSome = true →
        ∃ t : State, exec (.selectorLimitExpiry n) s = .next t.settle ∧ (t.berth n).moving = false ∧ (t.berth n).bus = .none ∧
          (t.berth n).selectorLimit = none ∧
          ((s.berth n).state = .admitting → (t.berth n).state = .plugged ∧ Consented s n .failed .breakerFail 0 t ∧
            t.isAdmitted n = false ∧ (∀ e ∈ t.ge.queue, e.berth ≠ n) ∧ t.ge.active.recs.get n = State.noGrant ∧
            t.ge.staged.recs.get n = State.noGrant ∧ (t.berth n).admissionLimit = none) ∧
          ((s.berth n).state ≠ .admitting → (t.berth n).state = (s.berth n).state) ∧
          OnlyTouches ([.berth n, .reference, .grants] ++ allOrders) s t)) ∧
  (∀ (s : State) (n : Ix) (d : Declaration) (r : OrderRef), (s.berth n).state = .admitting →
      (s.berth n).declaration = some d → (s.berth n).consenting = some r →
      ((s.berth n).moving = false → (s.berth n).bus ≠ d.freq.bus → (s.berth n).breaker = .opened →
        ∃ t : State, s.berthNext n = some t ∧ OnlyTouches [.berth n] s t ∧
          t.berth n = { s.berth n with moving := true, bus := .none, commanded := d.freq.bus, selectorLimit := some 4 }) ∧
      (s.isAdmitted n = true → s.selectorReady n = true → s.busAvailable n = true → s.fresh n = true →
        s.capacityOnline n = true → (s.ship n).window = .inactive →
        (d.trans = .closed → (s.ship n).side = .live →
          ∃ t : State, s.berthNext n = some t ∧ OnlyTouches [.berth n, .reference] s t ∧
            t.berth n = { s.berth n with state := .syncing, syncLimit := some s.syncTime } ∧
            ((s.berth n).bus = .a → (t.ship n).window = .outside)) ∧
        (d.trans = .opened ∨ (s.ship n).side ≠ .live →
          ∃ t : State, s.berthNext n = some t ∧ OnlyTouches [.berth n] s t ∧
            t.berth n = { s.berth n with
              state := .deadWait, openTransitionLimit := some s.openTransitionTime
              deadCount := if (s.ship n).side = .dead then .running s.deadTime else .stopped })) ∧
      (s.isAdmitted n = false ∨ s.selectorReady n = false ∨ s.busAvailable n = false ∨ s.fresh n = false ∨
        s.capacityOnline n = false → (s.berth n).moving = true ∨ (s.berth n).bus = d.freq.bus ∨ (s.berth n).breaker ≠ .opened →
        (s.ship n).window = .inactive → s.berthNext n = none))

/-- The limits of the states that wait to close (R10, R11, R12, R13, R158): the CONNECT ends FAILED with the reason of its
limit, the berth is PLUGGED, its timers stop and its admission ends. The limits of the closed states (R16, R19, R20, R22, R29):
a parallel timeout trips with purpose TRIP, in RETURN_PARALLEL it opens with the mark RETURN_FORCED and leaves the permit, and
the return limit gives the return up. Going back to ADOPTED is no entry of R28: it leaves the markers, the grants and the
reading as they were (log entry 13). An expiry row is the expiry of its own timer while that runs (log entry 2). -/
def Obligations.SequenceLimits : Prop :=
  (∀ (s : State) (n : Ix), s.powered = true →
      ((s.berth n).state = .admitting → (s.berth n).admissionLimit.isSome = true →
        ∃ t : State, exec (.admissionLimitExpiry n) s = .next t.settle ∧ (t.berth n).state = .plugged ∧
          (∀ before e after, s.ge.queue = before ++ e :: after → e.berth = n → (∀ x ∈ before, x.berth ≠ n) →
            Consented s n .failed .noHeadroom (before.length + 1) t) ∧
          ((∀ e ∈ s.ge.queue, e.berth ≠ n) → Consented s n .failed .noHeadroom 0 t) ∧
          (t.berth n).admissionLimit = none ∧ (∀ e ∈ t.ge.queue, e.berth ≠ n) ∧ t.isAdmitted n = false ∧
          OnlyTouches ([.berth n, .reference, .grants] ++ allOrders) s t) ∧
      ((s.berth n).state = .syncing → (s.berth n).syncLimit.isSome = true →
        ∃ t : State, exec (.syncLimitExpiry n) s = .next t.settle ∧ (t.berth n).state = .plugged ∧
          Consented s n .failed .syncTimeout 0 t ∧ (t.berth n).syncLimit = none ∧ (t.ship n).window = .inactive ∧
          t.holdsClaim n = false ∧ t.isAdmitted n = false ∧
          OnlyTouches ([.berth n, .reference, .grants] ++ allOrders) s t) ∧
      ((s.berth n).state = .deadWait → (s.berth n).openTransitionLimit.isSome = true →
        ∃ t : State, exec (.openTransitionLimitExpiry n) s = .next t.settle ∧ (t.berth n).state = .plugged ∧
          Consented s n .failed .deadTimeout 0 t ∧ (t.berth n).openTransitionLimit = none ∧
          (t.berth n).deadCount = .stopped ∧ t.isAdmitted n = false ∧
          OnlyTouches ([.berth n, .reference, .grants] ++ allOrders) s t)) ∧
  (∀ (s : State) (n : Ix), s.powered = true →
      ((s.berth n).state = .parallel → (s.berth n).parallelLimit.isSome = true → (s.berth n).breaker = .closed →
        ∃ t : State, exec (.parallelLimitExpiry n) s = .next t.settle ∧ (t.berth n).state = .opening ∧
          (t.berth n).purpose = some .trip ∧ (t.berth n).tripCause = some .parallelTimeout ∧
          (t.berth n).breaker = .openSent ∧ (t.berth n).motionLimit = some 300 ∧ (t.berth n).parallelLimit = none ∧
          Consented s n .failed .parallelTimeout 0 t ∧ t.isAdmitted n = false ∧
          (∀ p, p = .t ∨ p = .v n → Noticed s t p .trip (some n) 3 0) ∧ SourceReached n .tripped s t ∧
          OnlyTouches (tripParts n) s t) ∧
      ((s.berth n).state = .returnParallel → (s.berth n).parallelLimit.isSome = true → (s.berth n).breaker = .closed →
        ∃ t : State, exec (.returnParallelLimitExpiry n) s = .next t.settle ∧ (t.berth n).state = .opening ∧
          (t.berth n).purpose = some .ret ∧ (t.berth n).returnForced = true ∧
          (t.berth n).openPower = (s.outlet n).meterNow ∧ (t.berth n).breaker = .openSent ∧
          (t.berth n).motionLimit = some 300 ∧ (t.berth n).permit = (s.berth n).permit ∧
          (t.berth n).consenting = (s.berth n).consenting ∧ t.isAdmitted n = false ∧
          OnlyTouches [.berth n, .reference, .scanner, .grants] s t) ∧
      ((s.berth n).state = .returnWait → (s.berth n).returnLimit.isSome = true →
        ∃ t : State, exec (.returnLimitExpiry n) s = .next t.settle ∧
          (t.berth n).state = (if (s.berth n).declarationAwaited ∨ (s.berth n).authorizationAwaited then .adopted
            else .onShore) ∧
          (t.berth n).returnLimit = none ∧ (t.berth n).permit = false ∧ Consented s n .failed .returnTimeout 0 t ∧
          OnlyTouches (.berth n :: allOrders) s t))

/-- SHORE_POWER_LOW (R20): the power is taken in; below 5 % of O in RETURN_PARALLEL the berth opens next, unless it is tripped
BUS_LOST first. DEAD_COUNT_COMPLETION, PERMIT_DEAD_TIME_EXPIRY and SETTLE_TIMER_EXPIRY (R48, R50, R52): the count is complete,
the permit is asserted, the window is held. Bus A (R36): a voltage that crosses 800 starts a second, a crossing back gives it
up, and at its end the availability changes; and the reference in RETURN arrives at 60.000 Hz (R40). An expiry row is the expiry
of its own timer while that runs (log entry 2). -/
def Obligations.BerthSignals : Prop :=
  (∀ (s : State) (n : Ix) (kw : Nat), s.powered = true →
      ∃ t : State, exec (.shorePowerLow n kw) s = .next t.settle ∧ (t.outlet n).meterNow = kw ∧ OnlyTouches [.inputs] s t ∧
        (∀ m, m ≠ n → t.outlet m = s.outlet m) ∧
        ((s.berth n).state = .returnParallel → kw * 20 < (s.berth n).rating →
          ((s.berth n).bus ≠ .b ∨ 0 < s.online) → (s.ship n).window = .inactive →
          ∃ u : State, t.berthNext n = some u ∧ (u.berth n).state = .opening ∧ (u.berth n).purpose = some .ret ∧
            (u.berth n).returnForced = false ∧ (u.berth n).openPower = kw)) ∧
  (∀ (s : State) (n : Ix), s.powered = true →
      (∀ left, (s.berth n).deadCount = .running left →
        ∃ t : State, exec (.deadCountCompletion n) s = .next t.settle ∧
          t.berth n = { s.berth n with deadCount := .completed } ∧ OnlyTouches [.berth n] s t) ∧
      ((s.berth n).permitDeadTime.isSome = true →
        ∃ t : State, exec (.permitDeadTimeExpiry n) s = .next t.settle ∧
          t.berth n = { s.berth n with permit := true, permitDeadTime := none } ∧ OnlyTouches [.berth n] s t) ∧
      ((s.ship n).window = .settling →
        ∃ t : State, exec (.settleTimerExpiry n) s = .next t.settle ∧ (t.ship n).window = .held ∧ (t.ship n).settle = none ∧
          (∀ m, m ≠ n → t.ship m = s.ship m) ∧ OnlyTouches [.reference] s t)) ∧
  (∀ s : State, s.powered = true →
      (∀ voltage, (s.pru.busAPresent = true ↔ voltage < 800) →
        ∃ t : State, exec (.busAVoltageCrossing voltage) s = .next t.settle ∧ t.inputs.busAVoltage = voltage ∧
          t.pru.busATimer.isSome = true ∧ t.pru.busAPresent = s.pru.busAPresent ∧
          (s.pru.busATimer = none → t.pru = { s.pru with busATimer := some 1 }) ∧ OnlyTouches [.inputs, .reference] s t) ∧
      (∀ voltage, (s.pru.busAPresent = true ↔ 800 ≤ voltage) →
        ∃ t : State, exec (.busAVoltageCrossing voltage) s = .next t.settle ∧ t.pru = { s.pru with busATimer := none } ∧
          OnlyTouches [.inputs, .reference] s t) ∧
      (s.pru.busATimer.isSome = true →
        ∃ t : State, exec .busAAvailabilityChange s = .next t.settle ∧
          t.pru = { s.pru with busAPresent := !s.pru.busAPresent, busATimer := none } ∧ OnlyTouches [.reference] s t) ∧
      (s.pru.mode = .ret →
        ∃ t : State, exec .referenceReaches60 s = .next t.settle ∧ t.pru = { s.pru with mode := .free, frequency := 60000 } ∧
          OnlyTouches [.reference] s t))

/-- SHIP_SIDE_REPORT (R12, R13, R35, R50, R65): the side follows the voltage; a dead side takes a SYNCING berth to DEAD_WAIT and
starts the count there, a side that is not dead stops it; a live report aborts a DEAD check of the berth in flight, which is
then chosen again in its new mode. WINDOW_MET_CHANGE (R34, R35, R47, R48): the measurements are taken in, a ship-side voltage
across a threshold acts as a report does, and a window being judged starts its settle time when it is met and is OUTSIDE again
when it is not. The phase difference at the report and the bus voltage at the outlet are the model's reading (log entries 19 and
33). -/
def Obligations.ShipSideActs : Prop :=
  (∀ (s : State) (n : Ix) (voltage : Nat), s.powered = true → (s.berth n).plug = .present →
      (voltage < 100 → (s.ship n).side ≠ .dead →
        ∃ t : State, exec (.shipSideReport n voltage) s = .next t.settle ∧ (t.ship n).side = .dead ∧
          (t.outlet n).shipVoltage = voltage ∧
          ((s.berth n).state = .syncing → (t.berth n).state = .deadWait ∧ (t.berth n).syncLimit = none ∧
            (t.berth n).openTransitionLimit = some s.openTransitionTime ∧ (t.berth n).deadCount = .running s.deadTime ∧
            (t.ship n).window = .inactive ∧ t.holdsClaim n = false) ∧
          ((s.berth n).state = .deadWait → (s.berth n).deadCount = .stopped →
            t.berth n = { s.berth n with deadCount := .running s.deadTime }) ∧
          ((s.berth n).state ∉ [.syncing, .deadWait] → t.berth n = s.berth n) ∧
          OnlyTouches [.inputs, .berth n, .reference] s t) ∧
      (800 ≤ voltage → (s.ship n).side ≠ .live →
        ∃ t : State, exec (.shipSideReport n voltage) s = .next t.settle ∧ (t.ship n).side = .live ∧
          (t.outlet n).shipVoltage = voltage ∧
          ((s.berth n).state = .deadWait → t.berth n = { s.berth n with deadCount := .stopped }) ∧
          ((s.berth n).state ≠ .deadWait → t.berth n = s.berth n) ∧
          ((∀ c, s.cs.scanner = .running c → c.berth ≠ n ∨ c.mode ≠ .dead) → t.cs = s.cs) ∧
          (∀ c, s.cs.scanner = .running c → c.berth = n → c.mode = .dead →
            (s.inputs.instrumentFault = true → t.cs.scanner = .faulted ∧
              t.cs.queue = n :: s.cs.queue.filter (fun x => decide (x ≠ n)) ∧
              t.check n = { s.check n with status := ((s.check n).before.getD .none).status, before := none }) ∧
            (s.inputs.instrumentFault = false →
              t.cs.scanner = .running { berth := n, mode := .live, origin := .request, timer := 1 } ∧
              t.cs.queue = s.cs.queue.filter (fun x => decide (x ≠ n)) ∧
              t.check n = { s.check n with
                status := .inFlight, before := some ((s.check n).before.getD .none), mode := some .live })) ∧
          OnlyTouches [.inputs, .berth n, .reference, .scanner] s t) ∧
      (100 ≤ voltage → voltage < 800 → (s.ship n).side ≠ .between →
        ∃ t : State, exec (.shipSideReport n voltage) s = .next t.settle ∧ (t.ship n).side = .between ∧
          (t.outlet n).shipVoltage = voltage ∧
          ((s.berth n).state = .deadWait → t.berth n = { s.berth n with deadCount := .stopped }) ∧
          ((s.berth n).state ≠ .deadWait → t.berth n = s.berth n) ∧
          OnlyTouches [.inputs, .berth n, .reference] s t) ∧
      (sideOf voltage = (s.ship n).side →
        ∃ t : State, exec (.shipSideReport n voltage) s = .next t.settle ∧ (t.outlet n).shipVoltage = voltage ∧
          OnlyTouches [.inputs] s t)) ∧
  (∀ (s : State) (n : Ix) (m : Measurement) (busAFrequency : Nat), s.powered = true →
      (((s.berth n).plug = .absent ∨ sideOf m.shipVoltage = (s.ship n).side) →
        ∃ t : State, exec (.windowMetChange n m busAFrequency) s = .next t.settle ∧ t.inputs.busAFrequency = busAFrequency ∧
          t.outlet n = { s.outlet n with
            shipVoltage := m.shipVoltage, shipFrequency := m.shipFrequency, phase := m.phase, busVoltage := m.busVoltage } ∧
          t.ship n = { s.ship n with difference := 10 * m.phase } ∧ (∀ k, k ≠ n → t.ship k = s.ship k) ∧
          t.pru = { s.pru with ships := t.pru.ships } ∧
          OnlyTouches [.inputs, .reference] s t ∧
          ((s.berth n).state = .syncing → (s.berth n).moving = false → (s.ship n).window = .outside →
            t.windowMet n = true → t.berthNext n = some (t.setWindow n .settling (some s.settleTime))) ∧
          ((s.berth n).state = .syncing → (s.berth n).moving = false → (s.ship n).window ∈ [.settling, .held] →
            t.windowMet n = false → t.berthNext n = some (t.setWindow n .outside none)) ∧
          (∀ f met, (met ↔ (s.ship n).side = .live ∧
              m.shipFrequency ≤ f + s.frequencyLimit ∧ f ≤ m.shipFrequency + s.frequencyLimit ∧
              m.shipVoltage ≤ m.busVoltage + s.voltageLimit ∧ m.busVoltage ≤ m.shipVoltage + s.voltageLimit ∧
              -(s.phaseLimit : Int) ≤ m.phase ∧ m.phase ≤ s.phaseLimit) →
            ((s.berth n).bus = .a → f = busAFrequency → (t.windowMet n = true ↔ s.pru.busAPresent = true ∧ met)) ∧
            ((s.berth n).bus = .b → f = s.pru.frequency → (t.windowMet n = true ↔
              (∃ k, (s.converter k).state = .online) ∧ met)) ∧
            ((s.berth n).bus = .none → t.windowMet n = false))) ∧
      (∃ u : State, exec (.windowMetChange n m busAFrequency) s = exec (.shipSideReport n m.shipVoltage) u ∧
        u.outlet n = { s.outlet n with shipFrequency := m.shipFrequency, phase := m.phase, busVoltage := m.busVoltage } ∧
        u.ship n = { s.ship n with difference := 10 * m.phase } ∧ u.inputs.busAFrequency = busAFrequency ∧
        OnlyTouches [.inputs, .reference] s u))

/-! ### The Check Scanner (chapter 3) -/

/-- CHECK_TIMER_EXPIRY (R58, R63, R64): the reading is stored; at the threshold or above it is a PASSED result of age 0; below
it is a FAILED one, which fails a CONNECT that waits CHECK_FAILED, or trips a berth whose breaker is not open INSULATION_LOW.
The instrument's fault input (R58, R68): asserted, the check in flight is aborted to its record's earlier status, a requested
one goes to the head of the queue, and the scanner is FAULTED; cleared, it is IDLE and the choice is made. A completion at the
instant of the assertion, which is an assertion that waits next in the queue (log entry 43), takes the result, starts no check,
and leaves nothing to abort. A PASSED result reaches the flags whose source is CHECK_PASSED (R150, R151). The choice (R58, R59,
R61, R62): one berth, from the head of the request queue or else the first eligible berth from the pointer on; DEAD at an open
breaker with the ship side not live, else LIVE. CHECK_TIMER_EXPIRY is the end of the check in flight (log entry 2). -/
def Obligations.ChecksComplete : Prop :=
  (∀ (s : State) (c : InFlight) (reading r : Nat), s.powered = true → TableInv s → s.cs.scanner = .running c →
      r = min reading 65000 → c.berth ∉ s.cs.queue →
      (s.passThreshold ≤ r →
        ∃ t : State, exec (.checkTimerExpiry reading) s = .next t.settle ∧
          t.check c.berth = { s.check c.berth with
            status := .passed, before := none, age := 0, resistance := some r, lapseWarned := false } ∧
          c.berth ∉ t.cs.roundList ∧ (∀ n, t.berth n = s.berth n) ∧ SourceReached c.berth .checkPassed s t ∧
          Untouched [.power, .time, .waiting, .table, .inputs, .reference, .pool, .grid, .grants] s t) ∧
      (r < s.passThreshold → (s.berth c.berth).breaker = .opened →
        ∃ t : State, exec (.checkTimerExpiry reading) s = .next t.settle ∧
          t.check c.berth = { s.check c.berth with status := .failed, before := none, resistance := some r } ∧
          c.berth ∉ t.cs.roundList ∧
          ((s.berth c.berth).state.isWaiting = true →
            (t.berth c.berth).state = .plugged ∧ Consented s c.berth .failed .checkFailed 0 t ∧
              t.isAdmitted c.berth = false) ∧
          ((s.berth c.berth).state.isWaiting = false → t.berth c.berth = s.berth c.berth) ∧
          (∀ p, p = .t ∨ p = .v c.berth → Noticed s t p .check (some c.berth) 1 r) ∧
          Untouched [.power, .time, .waiting, .table, .inputs, .pool, .grid] s t) ∧
      (r < s.passThreshold → (s.berth c.berth).breaker ≠ .opened → (s.berth c.berth).state ≠ .tripped →
        ((s.berth c.berth).state = .opening → (s.berth c.berth).purpose ≠ some .trip) →
        ∃ t : State, exec (.checkTimerExpiry reading) s = .next t.settle ∧
          t.check c.berth = { s.check c.berth with status := .failed, before := none, resistance := some r } ∧
          c.berth ∉ t.cs.roundList ∧ Tripped s c.berth .insulationLow t ∧ Consented s c.berth .failed .checkFailed 0 t ∧
          (∀ p, p = .t ∨ p = .v c.berth → Noticed s t p .check (some c.berth) 1 r) ∧
          Untouched [.power, .time, .waiting, .table, .inputs, .pool, .grid] s t)) ∧
  (∀ s : State, s.powered = true →
      (s.cs.scanner = .idle →
        ∃ t : State, exec .instrumentFaultAsserted s = .next t.settle ∧ t.cs = { s.cs with scanner := .faulted } ∧
          t.inputs = { s.inputs with instrumentFault := true } ∧
          ((s.port .t).isOpen = true → (t.port .t).notices.check.latest =
            some { berth := none, code := some 3, value := 0, period := s.ge.period }) ∧
          OnlyTouches [.inputs, .link .t, .scanner] s t) ∧
      (s.cs.scanner = .faulted →
        ∃ t : State, exec .instrumentFaultAsserted s = .next t.settle ∧ t.cs = s.cs ∧
          t.inputs = { s.inputs with instrumentFault := true } ∧
          (s.inputs.instrumentFault = false → Noticed s t .t .check none 3 0) ∧
          (s.inputs.instrumentFault = true → t.port .t = s.port .t) ∧ OnlyTouches [.inputs, .link .t] s t) ∧
      (∀ c reading, s.cs.scanner = .running c → s.pending.head? = some .instrumentFaultAsserted →
        ∃ t : State, exec (.checkTimerExpiry reading) s = .next t.settle ∧ t.cs.scanner = .faulted ∧ t.cs.pointer = s.cs.pointer ∧
          t.cs.queue = s.cs.queue ∧ c.berth ∉ t.cs.roundList ∧ (∀ n, n ≠ c.berth → t.check n = s.check n) ∧
          t.check c.berth = { s.check c.berth with
            status := if s.passThreshold ≤ min reading 65000 then .passed else .failed
            before := none, resistance := some (min reading 65000)
            age := if s.passThreshold ≤ min reading 65000 then 0 else (s.check c.berth).age
            lapseWarned := if s.passThreshold ≤ min reading 65000 then false else (s.check c.berth).lapseWarned } ∧
          t.inputs = s.inputs ∧ t.pending = s.pending) ∧
      (∀ c, s.cs.scanner = .running c →
        ∃ t : State, exec .instrumentFaultAsserted s = .next t.settle ∧ t.cs.scanner = .faulted ∧
          ((s.check c.berth).before = some .passed → (t.check c.berth).status = .passed) ∧
          ((s.check c.berth).before = some .failed → (t.check c.berth).status = .failed) ∧
          ((s.check c.berth).before = some .none → (t.check c.berth).status = .none) ∧
          (t.check c.berth).before = none ∧
          t.cs.queue = (if c.origin = .request then
            c.berth :: s.cs.queue.filter (fun x => decide (x ≠ c.berth)) else s.cs.queue) ∧
          ((s.port .t).isOpen = true → (t.port .t).notices.check.latest =
            some { berth := some c.berth, code := some 3, value := 0, period := s.ge.period }) ∧
          OnlyTouches [.inputs, .link .t, .scanner] s t) ∧
      (s.cs.scanner = .faulted →
        ∃ t : State, exec .instrumentFaultCleared s = .next t.settle ∧ t.cs.scanner ≠ .faulted ∧
          t.inputs = { s.inputs with instrumentFault := false } ∧
          (∀ n rest, s.cs.queue = n :: rest → t.cs.queue = rest ∧ ∃ c, t.cs.scanner = .running c ∧ c.berth = n) ∧
          ((s.port .t).isOpen = true → (t.port .t).notices.check.latest =
            some { berth := none, code := some 4, value := 0, period := s.ge.period }) ∧
          OnlyTouches [.inputs, .link .t, .scanner] s t)) ∧
  (∀ s : State, s.cs.scanner = .idle →
      (∀ n rest, s.cs.queue = n :: rest → s.chooseCheck.cs.queue = rest ∧ ∃ c, s.chooseCheck.cs.scanner = .running c ∧
        c.berth = n ∧ c.origin = .request ∧ s.chooseCheck.cs.pointer = n.next ∧
        (((s.berth n).breaker = .opened ∧ (s.ship n).side ≠ .live) → c.mode = .dead ∧ c.timer = 3) ∧
        (((s.berth n).breaker ≠ .opened ∨ (s.ship n).side = .live) → c.mode = .live ∧ c.timer = 1) ∧
        (s.chooseCheck.check n).status = .inFlight ∧ (s.chooseCheck.check n).mode = some c.mode) ∧
      (s.cs.queue = [] → (∀ n, s.roundRobin n = false) → s.chooseCheck = s) ∧
      (∀ before n behind, s.cs.queue = [] → s.cs.pointer.circle = before ++ n :: behind →
        (∀ m ∈ before, s.roundRobin m = false) → s.roundRobin n = true →
        ∃ c, s.chooseCheck.cs.scanner = .running c ∧ c.berth = n ∧ c.origin = .round ∧
          s.chooseCheck.cs.pointer = n.next ∧ s.chooseCheck.cs.queue = [] ∧
          (((s.berth n).breaker = .opened ∧ (s.ship n).side ≠ .live) → c.mode = .dead ∧ c.timer = 3) ∧
          (((s.berth n).breaker ≠ .opened ∨ (s.ship n).side = .live) → c.mode = .live ∧ c.timer = 1) ∧
          (s.chooseCheck.check n).status = .inFlight ∧ (s.chooseCheck.check n).mode = some c.mode) ∧
      (∀ n, s.roundRobin n = true ↔ (s.berth n).plug = .present ∧ (s.berth n).state ≠ .vacant ∧
        ((s.check n).status = .none ∨ ((s.check n).status = .passed ∧ s.checkWindow / 2 ≤ (s.check n).age))) ∧
      OnlyTouches [.scanner] s s.chooseCheck)

/-- FRESHNESS_LAPSE and ROUND_ROBIN_ELIGIBLE of a berth whose breaker is open (R57, R61, R62): the age has passed W, and the
record is no longer fresh, or has reached half of W, so that the search may find it. LAPSE_WARNING and CHECK_LAPSED_TRIP of a
closed berth (R67): the warning once, with the age, and the trip CHECK_LAPSED. That these rows bring the age is the model's
choice, and so is that the trip row finds a record of age 0 restarted at this instant, as a PASSED completion leaves it
(ChecksComplete), and does not trip (log entry 27). -/
def Obligations.CheckAges : Prop :=
  (∀ (s : State) (n : Ix), s.powered = true → TableInv s → (s.berth n).breaker = .opened →
      (∃ t : State, exec (.freshnessLapse n) s = .next t.settle ∧ (t.check n).age = max (s.check n).age (s.checkWindow + 1) ∧
        t.fresh n = false ∧ OnlyTouches [.scanner] s t) ∧
      (∃ t : State, exec (.roundRobinEligible n) s = .next t.settle ∧ (t.check n).age = max (s.check n).age (s.checkWindow / 2) ∧
        (s.cs.scanner = .idle → (s.berth n).plug = .present → (s.berth n).state ≠ .vacant → (s.check n).status = .passed →
          t.cs.scanner ≠ .idle) ∧
        OnlyTouches [.scanner] s t)) ∧
  (∀ (s : State) (n : Ix), s.powered = true → TableInv s → (s.berth n).breaker = .closed →
      ((s.check n).lapseWarned = false → (s.check n).age ≤ 2 * s.checkWindow →
        ∃ t : State, exec (.lapseWarning n) s = .next t.settle ∧ (t.check n).lapseWarned = true ∧
          ((s.port .t).isOpen = true → (t.port .t).notices.check.latest =
            some { berth := some n, code := some 2, value := max (s.check n).age (s.checkWindow + 1), period := s.ge.period }) ∧
          OnlyTouches [.link .t, .link (.v n), .scanner] s t) ∧
      ((s.check n).age = 0 → exec (.checkLapsedTrip n) s = .next s.settle) ∧
      (s.isLive n = true → 0 < (s.check n).age →
        ∃ t : State, exec (.checkLapsedTrip n) s = .next t.settle ∧ Tripped s n .checkLapsed t ∧
          Consented s n .failed .checkFailed 0 t ∧ (t.berth n).motionLimit = some 300 ∧ OnlyTouches (tripParts n) s t))

/-! ### The Converter Pool (chapter 4) -/

/-- MODULE_READY, START_LIMIT_EXPIRY and STOP_TIMER_EXPIRY (R73, R74, R77, R78, R80, R82): a STARTING module is ONLINE, or
FAULTED with cause START_FAIL, and OUT_OF_SERVICE at once with both inputs clear unless its ready report comes at that instant
(log entry 31); a STOPPING one is OUT_OF_SERVICE or OFF, or STARTING again where the start test takes it; the run command is
asserted in STARTING and ONLINE. MODULE_FAULT and MODULE_FAULT_CLEARED, and a ready input lost (R74, R75, R81, R82, R118): a
module enters FAULTED with cause TRIPPED and its notice, KB falls and both sets are trimmed to it, at a fall to 0 before the
trips (log entry 57); with both inputs clear again it is OUT_OF_SERVICE; that a fault input on a FAULTED module posts no notice
is log entry 17. With no capacity left a live berth on bus B is tripped BUS_LOST (R83), before anything else that the berth does
(log entry 5). An expiry row is the expiry of its own timer while that runs (log entry 2). -/
def Obligations.ModuleEvents : Prop :=
  (∀ (s : State) (m : Ix), s.powered = true →
      ((s.runCommand m = true ↔ (s.converter m).state = .starting ∨ (s.converter m).state = .online) ∧
        s.modulePassed m = (if s.runCommand m then some (s.pru.mode, s.pru.frequency, s.pru.phase) else none)) ∧
      ((s.converter m).state = .starting →
        ∃ t : State, exec (.moduleReady m) s = .next t.settle ∧
          t.converter m = { s.converter m with state := .online, startLimit := none } ∧
          (t.moduleInputs m).ready = true ∧ OnlyTouches [.inputs, .pool] s t) ∧
      ((s.converter m).state ≠ .starting →
        ∃ t : State, exec (.moduleReady m) s = .next t.settle ∧ (t.moduleInputs m).ready = true ∧ OnlyTouches [.inputs] s t) ∧
      ((s.converter m).state = .starting → (s.converter m).startLimit.isSome = true →
        ((s.moduleInputs m).fault = true ∨ (s.moduleInputs m).ready = true ∨ s.pending.head? = some (.moduleReady m)) →
        ∃ t : State, exec (.startLimitExpiry m) s = .next t.settle ∧
          t.converter m = { state := .faulted, seconds := 0, cause := some .startFail, outPending := false
                            startLimit := none, stopTimer := none } ∧ t.runCommand m = false ∧
          ((s.port .t).isOpen = true → (t.port .t).notices.module.latest =
            some { berth := none, code := some 1, value := m.toNat, period := s.ge.period }) ∧
          OnlyTouches [.link .t, .pool] s t) ∧
      ((s.converter m).state = .starting → (s.converter m).startLimit.isSome = true →
        (s.moduleInputs m).fault = false → (s.moduleInputs m).ready = false → s.pending.head? ≠ some (.moduleReady m) →
        ∃ t : State, exec (.startLimitExpiry m) s = .next t.settle ∧ (t.converter m).state = .outOfService ∧
          (t.converter m).cause = some .startFail ∧ t.runCommand m = false ∧
          ((s.port .t).isOpen = true → (t.port .t).notices.module.latest =
            some { berth := none, code := some 3, value := m.toNat, period := s.ge.period }) ∧
          OnlyTouches [.link .t, .pool] s t) ∧
      ((s.converter m).state = .stopping → (s.converter m).stopTimer.isSome = true → (s.converter m).outPending = true →
        ∃ t : State, exec (.stopTimerExpiry m) s = .next t.settle ∧ (t.converter m).state = .outOfService ∧
          (t.converter m).seconds = 0 ∧ (t.converter m).stopTimer = none ∧ OnlyTouches [.pool] s t) ∧
      ((s.converter m).state = .stopping → (s.converter m).stopTimer.isSome = true → (s.converter m).outPending = false →
        ∃ t : State, exec (.stopTimerExpiry m) s = .next t.settle ∧ (t.converter m).stopTimer = none ∧ OnlyTouches [.pool] s t ∧
          (s.cp.target ≤ s.online + s.starting ∨ 0 < s.starting →
            (t.converter m).state = .off ∧ t.runCommand m = false ∧ t.cp.pointer = s.cp.pointer) ∧
          (∀ before behind, s.online + s.starting < s.cp.target → s.starting = 0 →
            s.cp.pointer.circle = before ++ m :: behind →
            ((∃ x ∈ before, (s.converter x).state = .off) → (t.converter m).state = .off) ∧
            ((∀ x ∈ before, (s.converter x).state ≠ .off) → (t.converter m).state = .starting ∧
              (t.converter m).seconds = 0 ∧ (t.converter m).startLimit = some 30 ∧ t.runCommand m = true ∧
              t.cp.pointer = m.next)))) ∧
  (∀ (s : State) (m : Ix), s.powered = true →
      ((s.converter m).state ≠ .faulted →
        ∃ t : State, exec (.moduleFault m .faultInput) s = .next t.settle ∧
          t.converter m = { state := .faulted, seconds := 0, cause := some .tripped, outPending := false
                            startLimit := none, stopTimer := none } ∧
          (t.moduleInputs m).fault = true ∧ t.runCommand m = false ∧
          ((s.port .t).isOpen = true → (t.port .t).notices.module.latest =
            some { berth := none, code := some 2, value := m.toNat, period := s.ge.period }) ∧
          ((s.converter m).state ≠ .online → t.ge = s.ge) ∧
          ((s.converter m).state = .online → t.online + 1 = s.online ∧ t.ge = { s.ge with
            active := s.ge.active.trim t.busBCapacity, staged := s.ge.staged.trim t.busBCapacity }) ∧
          OnlyTouches ([.inputs, .pool, .grants] ++ allLinks) s t) ∧
      ((s.converter m).state = .faulted →
        ∃ t : State, exec (.moduleFault m .faultInput) s = .next t.settle ∧ (t.moduleInputs m).fault = true ∧
          OnlyTouches [.inputs] s t) ∧
      ((s.converter m).state = .online →
        ∃ t : State, exec (.moduleFault m .readyInput) s = .next t.settle ∧ (t.moduleInputs m).ready = false ∧
          (t.converter m).cause = some .tripped ∧ (t.converter m).seconds = 0 ∧ t.runCommand m = false ∧
          (t.converter m).state = (if (s.moduleInputs m).fault then .faulted else .outOfService) ∧
          ((s.port .t).isOpen = true → (t.port .t).notices.module.latest =
            some { berth := none, code := some (if (s.moduleInputs m).fault then 2 else 3), value := m.toNat,
                   period := s.ge.period }) ∧
          t.online + 1 = s.online ∧ t.ge = { s.ge with
            active := s.ge.active.trim t.busBCapacity, staged := s.ge.staged.trim t.busBCapacity } ∧
          OnlyTouches ([.inputs, .pool, .grants] ++ allLinks) s t) ∧
      ((s.converter m).state ∉ [.online, .faulted] →
        ∃ t : State, exec (.moduleFault m .readyInput) s = .next t.settle ∧ (t.moduleInputs m).ready = false ∧
          OnlyTouches [.inputs] s t) ∧
      ((s.converter m).state = .faulted →
        (∃ t : State, exec (.moduleFaultCleared m .faultInput) s = .next t.settle ∧ (t.moduleInputs m).fault = false ∧
          (t.converter m).cause = (s.converter m).cause ∧
          (t.converter m).state = (if (s.moduleInputs m).ready then .faulted else .outOfService) ∧
          ((s.port .t).isOpen = true → (s.moduleInputs m).ready = false → (t.port .t).notices.module.latest =
            some { berth := none, code := some 3, value := m.toNat, period := s.ge.period }) ∧
          ((s.moduleInputs m).ready = true → OnlyTouches [.inputs] s t) ∧
          OnlyTouches [.inputs, .link .t, .pool] s t) ∧
        (∃ t : State, exec (.moduleFaultCleared m .readyInput) s = .next t.settle ∧ (t.moduleInputs m).ready = false ∧
          (t.converter m).cause = (s.converter m).cause ∧
          (t.converter m).state = (if (s.moduleInputs m).fault then .faulted else .outOfService) ∧
          ((s.port .t).isOpen = true → (s.moduleInputs m).fault = false → (t.port .t).notices.module.latest =
            some { berth := none, code := some 3, value := m.toNat, period := s.ge.period }) ∧
          ((s.moduleInputs m).fault = true → OnlyTouches [.inputs] s t) ∧
          OnlyTouches [.inputs, .link .t, .pool] s t)) ∧
      ((s.converter m).state ≠ .faulted →
        ∃ t : State, exec (.moduleFaultCleared m .faultInput) s = .next t.settle ∧ (t.moduleInputs m).fault = false ∧
          OnlyTouches [.inputs] s t)) ∧
  (∀ (s : State) (n : Ix), s.isLive n = true → (s.berth n).bus = .b → s.online = 0 → (s.berth n).breaker = .closed →
      ∃ t : State, s.berthNext n = some t ∧ Tripped s n .busLost t ∧ Consented s n .failed .tripped 0 t ∧ OnlyTouches (tripParts n) s t)

/-! ### The Grant Engine (chapters 6 and 7) -/

/-- PERIOD_EXPIRY (R103 to R107, R117, R119, R128), in the steps switch (`u`), computation (`v`), service of the admission queue
and publication. The next period number and a period mark for every berth meter; the pending set switched in with the A in
force, or the active set kept, and then trimmed, with GRANT_SWITCHED to the flags of each berth that has a total in the set
switched in or in the one it replaced (R150, R151); a new pending set with every berth's firm figure, which the Grant Engine
then holds (R109, log entry 50), and computed flexible grant, effective in the next period, and GRANT_STAGED to each berth with
a total in either set; the target published to the pool. The computation (R110, R126, R127): each change of an over flag is
posted to T as a CEILING notice, that of OVER_CEILING first (log entry 39), and for each flag that is set the berth of R127 is
advised to return. The publication (R76, R77, R79): the target, the stop count, the hysteresis stop at 6 of the module with the
most running seconds, where the capacity left carries the FirmB held (log entry 50), with the trim at a fall of KB before any
trip (log entry 57), and the start test. -/
def Obligations.PeriodTurns : Prop :=
  (∀ s : State, s.powered = true →
      ∃ u v t : State, exec .periodExpiry s = .next t.settle ∧
        t = (v.serveQueue).publish (v.serveQueue.firmB + ((u.claims.filter Claim.onB).map Claim.cap).sum) ∧
        u.ge.period = (if s.ge.period = 65535 ∨ 65535 < s.ge.period then 0 else s.ge.period + 1) ∧
        u.ge.periodLeft = s.allocation ∧ u.ge.periodLength = s.allocation ∧ u.ge.lastLength = s.ge.periodLength ∧
        (∀ n, u.grantBerth n = { s.grantBerth n with due := true }) ∧
        (s.ge.staged.pending = true → FlagsReached (fun n second => s.flagSource n second = FlagSource.grantSwitched.index ∧
          (0 < (s.ge.staged.recs.get n).total ∨ 0 < (s.ge.active.recs.get n).total)) s t) ∧
        (s.ge.staged.pending = false → t.oe.flags = s.oe.flags) ∧ u.port .t = s.port .t ∧ v = u.compute ∧
        (s.ge.staged.pending = true →
          u.ge.active = ({ s.ge.staged with
            a := s.gi.ceiling - s.ge.reserve, pending := false } : GrantSet).trim s.busBCapacity) ∧
        (s.ge.staged.pending = false →
          u.ge.active = ({ s.ge.active with a := s.gi.ceiling - s.ge.reserve } : GrantSet).trim s.busBCapacity) ∧
        v.ge = { u.ge with
          staged := v.ge.staged, berths := v.ge.berths, overCeiling := decide (u.ge.active.a < u.firmImport)
          overCapacity := decide (u.busBCapacity < u.firmB) } ∧
        (∀ n, v.grantBerth n = { u.grantBerth n with firm := (u.firmFigure n).1 }) ∧ v.heldFirmB = u.firmB ∧
        v.ge.staged.pending = true ∧ v.ge.staged.effective = nextPeriod u.ge.period ∧
        v.ge.staged.a = s.gi.ceiling - s.ge.reserve ∧ v.ge.staged.eta = s.efficiency ∧
        (∀ n f, f = ((flexibleGrants u.efficiency (u.ge.active.a - u.firmImport) (u.busBCapacity - u.firmB) u.claims).find?
            fun x => decide (x.1 = n)).getD (n, 0, 0) →
          v.ge.staged.recs.get n = { firm := (u.firmFigure n).1, flexible := f.2.1, share := f.2.2
                                     bus := if (u.firmFigure n).1 = 0 ∧ f.2.1 = 0 then .none else (u.firmFigure n).2 }) ∧
        (∀ n, (s.port (.v n)).isOpen = true →
          (0 < (v.ge.staged.recs.get n).total ∨ 0 < (u.ge.active.recs.get n).total) →
          (v.port (.v n)).notices.grant.flag = true ∧ (v.port (.v n)).notices.grant.latest =
            some { berth := some n, code := some 1, value := (v.ge.staged.recs.get n).total,
                   period := v.ge.staged.effective }) ∧
        t.cp.target = v.serveQueue.targetFor (v.serveQueue.firmB + ((u.claims.filter Claim.onB).map Claim.cap).sum) ∧
        (∀ w : State, ∀ demand, w.targetFor demand =
          min w.available (if ceilDiv demand 800 = 0 ∧ w.anyOnB = true then 1 else ceilDiv demand 800)) ∧
        t.ge.period = u.ge.period ∧ t.port .t = v.port .t ∧ (∀ n, (t.grantBerth n).due = true) ∧ t.ge.active.a = s.gi.ceiling - s.ge.reserve ∧
        Untouched [.power, .time, .waiting, .table, .inputs, .held, .reference, .scanner, .grid] s t) ∧
  (∀ (s t : State) (a kb needA needB : Nat), t = s.compute → a = s.ge.active.a → kb = s.busBCapacity → needA = s.firmImport →
      needB = s.firmB →
      t.ge.overCeiling = decide (a < needA) ∧ t.ge.overCapacity = decide (kb < needB) ∧
      (s.ge.overCapacity = false → kb < needB → Noticed s t .t .ceiling none 7 (needB - kb)) ∧
      (s.ge.overCapacity = true → needB ≤ kb → Noticed s t .t .ceiling none 8 (kb - needB)) ∧
      (t.ge.overCapacity = s.ge.overCapacity → s.ge.overCeiling = false → a < needA →
        Noticed s t .t .ceiling none 5 (needA - a)) ∧
      (t.ge.overCapacity = s.ge.overCapacity → s.ge.overCeiling = true → needA ≤ a →
        Noticed s t .t .ceiling none 6 (a - needA)) ∧
      (t.ge.overCapacity = s.ge.overCapacity → t.ge.overCeiling = s.ge.overCeiling →
        (t.port .t).notices.ceiling = (s.port .t).notices.ceiling) ∧
      (∀ n, s.adviceRank n = match (s.berth n).authorization with | some x => if x.withdrawn then 4 else x.prio | none => 4) ∧
      (∀ n, kb < needB → AdvisedNext s (fun m => (s.berth m).state ∈ [.onShore, .adopted] ∧ (s.berth m).bus = .b) n →
        ∀ p, p = .t ∨ p = .v n → Noticed s t p .returnAdvice (some n) 4 (needB - kb)) ∧
      (∀ n, a < needA → AdvisedNext s (fun m => (s.berth m).state ∈ [.onShore, .adopted]) n →
        (needB ≤ kb ∨ (∀ m, (s.berth m).state ∈ [.onShore, .adopted] → (s.berth m).bus ≠ .b) →
          Noticed s t .t .returnAdvice (some n) 3 (needA - a)) ∧
        (needB ≤ kb ∨ ¬ AdvisedNext s (fun m => (s.berth m).state ∈ [.onShore, .adopted] ∧ (s.berth m).bus = .b) n →
          Noticed s t (.v n) .returnAdvice (some n) 3 (needA - a))) ∧
      (∀ n, (a < needA → ¬ AdvisedNext s (fun m => (s.berth m).state ∈ [.onShore, .adopted]) n) →
        (kb < needB → ¬ AdvisedNext s (fun m => (s.berth m).state ∈ [.onShore, .adopted] ∧ (s.berth m).bus = .b) n) →
        (t.port (.v n)).notices.returnAdvice = (s.port (.v n)).notices.returnAdvice) ∧
      OnlyTouches (.grants :: allLinks) s t) ∧
  (∀ (s t : State) (demand target count : Nat) (m : Ix), t = s.publish demand → target = s.targetFor demand →
      count = (if target < s.online then min 6 (s.cp.stopCount + 1) else 0) →
      t.cp.target = target ∧
      (target < s.online → count = 6 → s.heldFirmB ≤ 800 * (s.online - 1) → (s.converter m).state = .online →
        (∀ k, (s.converter k).state = .online → k ≠ m → (s.converter k).seconds < (s.converter m).seconds ∨
          ((s.converter k).seconds = (s.converter m).seconds ∧ m.toNat < k.toNat)) →
        t.cp = { s.cp with target, stopCount := 0, modules := t.cp.modules } ∧
        t.converter m = { s.converter m with
          state := .stopping, outPending := false, startLimit := none, stopTimer := some 10 } ∧
        (∀ k, k ≠ m → t.converter k = s.converter k) ∧ t.runCommand m = false ∧ t.online + 1 = s.online ∧
        t.ge = { s.ge with
          active := s.ge.active.trim t.busBCapacity, staged := s.ge.staged.trim t.busBCapacity } ∧
        OnlyTouches ([.pool, .grants] ++ Ix.all.map fun n => .link (.v n)) s t) ∧
      (s.online ≤ target ∨ count < 6 ∨ 800 * (s.online - 1) < s.heldFirmB →
        OnlyTouches [.pool] s t ∧
        (target ≤ s.online + s.starting ∨ 0 < s.starting ∨ (∀ k, (s.converter k).state ≠ .off) →
          t.cp = { s.cp with target, stopCount := count }) ∧
        (∀ before behind, s.online + s.starting < target → s.starting = 0 → s.cp.pointer.circle = before ++ m :: behind →
          (∀ x ∈ before, (s.converter x).state ≠ .off) → (s.converter m).state = .off →
          t.cp = { s.cp with target, stopCount := count, pointer := m.next, modules := t.cp.modules } ∧
          t.converter m = { s.converter m with state := .starting, seconds := 0, startLimit := some 30 } ∧
          t.runCommand m = true ∧ ∀ k, k ≠ m → t.converter k = s.converter k)))

/-- No trim raises a flexible grant or touches a firm one (R117). The two steps of a trim (R117), and what an event's trim gives
in both sets, with GRANT_TRIMMED and GRANT_RESTAGED (R102, R118, R119, R125); an admission and an entry to ADOPTED also set the
firm figure held (log entry 50). The import shares of a computation fit the room on import, and no grant exceeds its berth's cap
(R112, R114, R115). A berth passes the admission test only where the firm import with it fits both the A in force and the import
available, and its bus-B firm fits the available modules (R123), by figures that the model forms anew for it (log entry 50). -/
def Obligations.GrantsStayInBounds : Prop :=
  (∀ (g : GrantSet) (kb : Nat) (n : Ix), (∀ m, (g.recs.get m).bus ≠ .b → (g.recs.get m).share = (g.recs.get m).flexible) →
      ((g.trim kb).recs.get n).firm = (g.recs.get n).firm ∧ ((g.trim kb).recs.get n).bus = (g.recs.get n).bus ∧
        ((g.trim kb).recs.get n).flexible ≤ (g.recs.get n).flexible) ∧
  ((∀ (g : GrantSet) (kb : Nat) (n : Ix), ∀ fb gb, fb = g.sumOn .b GrantRec.firm → gb = g.sumOn .b GrantRec.flexible →
      (0 < gb → kb < fb + gb → (g.trimB kb).recs.get n = if (g.recs.get n).bus = .b then
          { g.recs.get n with
            flexible := (g.recs.get n).flexible * (kb - fb) / gb
            share := ceilDiv ((g.recs.get n).flexible * (kb - fb) / gb * 1000) g.eta }
        else g.recs.get n) ∧
      (gb = 0 ∨ fb + gb ≤ kb → g.trimB kb = g)) ∧
    (∀ (g : GrantSet) (n : Ix), ∀ fi sh, fi = g.firmImport → sh = sumSix (fun k => (g.recs.get k).share) →
      (0 < sh → g.a < fi + sh → ∀ share, share = (g.recs.get n).share * (g.a - fi) / sh →
        g.trimImport.recs.get n = { g.recs.get n with
          share, flexible := if (g.recs.get n).bus = .b then min (g.recs.get n).flexible (share * g.eta / 1000) else share }) ∧
      (sh = 0 ∨ fi + sh ≤ g.a → g.trimImport = g)) ∧
    (∀ (g : GrantSet) (kb : Nat), g.trim kb = (g.trimB kb).trimImport) ∧
    (∀ s t : State, t = s.trimBoth →
      t.ge = { s.ge with active := s.ge.active.trim s.busBCapacity, staged := s.ge.staged.trim s.busBCapacity } ∧
      (∀ n cut restaged,
        cut = decide ((t.ge.active.recs.get n).flexible < (s.ge.active.recs.get n).flexible) →
        restaged = (s.ge.staged.pending &&
          decide ((t.ge.staged.recs.get n).flexible < (s.ge.staged.recs.get n).flexible)) →
        (s.port (.v n)).isOpen = true →
        (restaged = true → (t.port (.v n)).notices.grant.flag = true ∧ (t.port (.v n)).notices.grant.latest =
          some { berth := some n, code := some 3, value := (t.ge.staged.recs.get n).total,
                 period := s.ge.staged.effective }) ∧
        (restaged = false → cut = true → t.port (.v n) = (s.port (.v n)).posted .grant
          { berth := some n, code := some 2, value := (t.ge.active.recs.get n).total, period := s.ge.period }) ∧
        (restaged = false → cut = false → t.port (.v n) = s.port (.v n))) ∧
      OnlyTouches (.grants :: Ix.all.map fun n => .link (.v n)) s t) ∧
    (∀ (s t : State) (n : Ix) (r : GrantRec) (kb : Nat), kb = s.busBCapacity →
      (t = s.admission n ∧ r = mkGrant (s.berth n).declaredFirm 0 0 (s.berth n).declaredBus) ∨
        (t = s.enterAdopted n ∧ r = mkGrant (s.berth n).rating 0 0 (s.berth n).bus) →
      t.ge.active = (s.ge.active.put n r).trim kb ∧ t.ge.staged = (s.ge.staged.put n r).trim kb ∧
        (t.grantBerth n).firm = r.firm ∧ ∀ m, m ≠ n → t.grantBerth m = s.grantBerth m)) ∧
  (∀ (eta r rb : Nat) (l : List Claim), 1 ≤ eta → eta ≤ 1000 →
      ((flexibleGrants eta r rb l).map fun x => x.2.2).sum ≤ r ∧
      (∀ x ∈ flexibleGrants eta r rb l, ∃ c ∈ l, c.berth = x.1 ∧ x.2.1 ≤ c.cap)) ∧
  (∀ (s : State) (n : Ix) (d : Declaration), (s.berth n).declaration = some d → s.admissionTest n = true →
      (d.freq = .f50 → s.firmOnBut .a (some n) + min d.h (s.berth n).rating +
        importB s.efficiency (s.firmOnBut .b (some n)) ≤ min s.ge.active.a (s.gi.ceiling - s.ge.reserve)) ∧
      (d.freq = .f60 → s.firmOnBut .a (some n) +
          importB s.efficiency (s.firmOnBut .b (some n) + min d.h (s.berth n).rating) ≤
            min s.ge.active.a (s.gi.ceiling - s.ge.reserve) ∧
        s.firmOnBut .b (some n) + min d.h (s.berth n).rating ≤ 800 * s.available ∧ s.ge.overCapacity = false) ∧
      s.ge.overCeiling = false)

/-- MINUTE_TICK (R133): D of every berth with its plug present falls by one, not below 0, and CHARGE_SHORT is given once, to Vn
and T, when it is 0 with energy still wanted. METER_READING (R128, R129, R132, R134): a reading that answers a period mark is
clamped to 0 to 9,999 kW and stored with the period it covers, and the first after an entry to ADOPTED is recorded (log entry
14); one without a mark is ignored (log entry 18). For a live berth the power above its firm grant is charged: whole kWh off E,
the rest kept; above 110 % of its total grant for the third time in a row OVERDRAW is posted; over O for the second time in a
row the berth is tripped OVERLOAD. That the content left at T after a minute tick is that of the highest short berth is the
order of the model (log entries 5 and 46), and that a late reading is booked to the period just ended its choice (log entry 40).
-/
def Obligations.ChargeAccounts : Prop :=
  (∀ s : State, s.powered = true →
      ∃ t : State, exec .minuteTick s = .next t.settle ∧ t.ge.minuteLeft = 60 ∧
        (∀ n, (t.grantBerth n).charge = if (s.berth n).plug = .present then
          { (s.grantBerth n).charge with
            d := (s.grantBerth n).charge.d - 1
            warned := (s.grantBerth n).charge.warned ||
              (decide ((s.grantBerth n).charge.d ≤ 1) && decide (0 < (s.grantBerth n).charge.e)) }
          else (s.grantBerth n).charge) ∧
        (∀ short : Ix → Prop, (∀ n, short n ↔ (s.berth n).plug = .present ∧ (s.grantBerth n).charge.d ≤ 1 ∧
            0 < (s.grantBerth n).charge.e ∧ (s.grantBerth n).charge.warned = false) →
          (∀ n, short n → (s.port (.v n)).isOpen = true → t.port (.v n) = (s.port (.v n)).posted .grant
            { berth := some n, code := some 4, value := (s.grantBerth n).charge.e, period := s.ge.period }) ∧
          (∀ n, ¬ short n → t.port (.v n) = s.port (.v n)) ∧
          (∀ n, short n → (∀ m, short m → m.toNat ≤ n.toNat) → (s.port .t).isOpen = true →
            (t.port .t).notices.grant = { (s.port .t).notices.grant with
              flag := true
              latest := some { berth := some n, code := some 4, value := (s.grantBerth n).charge.e, period := s.ge.period } }) ∧
          ((∀ n, ¬ short n) → t.port .t = s.port .t)) ∧
        t.ge.active = s.ge.active ∧ t.ge.staged = s.ge.staged ∧ OnlyTouches (.grants :: allLinks) s t) ∧
  (∀ (s : State) (n : Ix) (reading : Int) (r total : Nat), s.powered = true → (r : Int) = max 0 (min reading 9999) →
      total = (s.grantBerth n).charge.acc + (r - (s.ge.active.recs.get n).firm) * s.ge.lastLength →
      ((s.grantBerth n).due = false →
        ∃ t : State, exec (.meterReading n (some reading)) s = .next t.settle ∧ t = s) ∧
      ((s.grantBerth n).due = true →
        ∃ t : State, exec (.meterReading n none) s = .next t.settle ∧
          t.ge = { s.ge with berths := s.ge.berths.set n { s.grantBerth n with due := false } } ∧
          OnlyTouches [.grants] s t) ∧
      ((s.grantBerth n).due = true → (s.berth n).plug = .absent →
        ∃ t : State, exec (.meterReading n (some reading)) s = .next t.settle ∧
          t.ge = { s.ge with berths := s.ge.berths.set n { s.grantBerth n with due := false } } ∧
          OnlyTouches [.grants] s t) ∧
      ((s.grantBerth n).due = true → (s.berth n).plug = .present →
        ∃ t : State, exec (.meterReading n (some reading)) s = .next t.settle ∧ (t.grantBerth n).due = false ∧
          (t.grantBerth n).reading = some (r, if s.ge.period = 0 then 65535 else s.ge.period - 1) ∧
          ((s.grantBerth n).adoptionUnread = true →
            (t.grantBerth n).sinceAdoption = true ∧ (t.grantBerth n).adoptionUnread = false) ∧
          ((s.grantBerth n).adoptionUnread = false → (t.grantBerth n).sinceAdoption = (s.grantBerth n).sinceAdoption) ∧
          (s.isLive n = false → (t.grantBerth n).charge = (s.grantBerth n).charge ∧
            (t.grantBerth n).firm = (s.grantBerth n).firm ∧ OnlyTouches [.grants] s t) ∧
          (s.isLive n = true →
            (t.grantBerth n).charge = { (s.grantBerth n).charge with
              acc := total % 3600, e := (s.grantBerth n).charge.e - total / 3600 } ∧
            (r ≤ (s.berth n).rating → (t.grantBerth n).overRating = 0 ∧ t.berth n = s.berth n ∧
              (t.grantBerth n).firm = (s.grantBerth n).firm ∧
              (∀ above, (above ↔ (s.berth n).firmFromMeter = false ∧ (s.ge.active.recs.get n).total * 110 < r * 100) →
                ((s.berth n).firmFromMeter = true → (t.grantBerth n).overGrant = (s.grantBerth n).overGrant) ∧
                ((s.berth n).firmFromMeter = false → ¬ above → (t.grantBerth n).overGrant = 0) ∧
                (above → (s.grantBerth n).overGrant < 2 → (t.grantBerth n).overGrant = (s.grantBerth n).overGrant + 1) ∧
                (above → 2 ≤ (s.grantBerth n).overGrant → (t.grantBerth n).overGrant = 0 ∧
                  ∀ p, p = .t ∨ p = .v n → (s.port p).isOpen = true → t.port p = (s.port p).posted .overdraw
                    { berth := some n, code := some 1, value := r, period := s.ge.period }) ∧
                (¬ above ∨ (s.grantBerth n).overGrant < 2 → OnlyTouches [.grants] s t) ∧
                OnlyTouches [.grants, .link .t, .link (.v n)] s t)) ∧
            ((s.berth n).rating < r → (s.grantBerth n).overRating = 0 → (t.grantBerth n).overRating = 1 ∧
              t.berth n = s.berth n) ∧
            ((s.berth n).rating < r → 1 ≤ (s.grantBerth n).overRating → (s.berth n).breaker = .closed →
              Tripped s n .overload t ∧ Consented s n .failed .tripped 0 t))))

/-! ### The follow claim (chapter 2) -/

/-- The follow claim (R38, R41 to R46). A bus-B berth that enters SYNCING is granted the claim while nobody holds it, bus B is not
in use and nobody waits, and joins the waiting list otherwise, DEFERRED under a holder. The holder that leaves SYNCING releases
the claim: RETURN with bus B in use or at its own close, else FREE at 60.000 Hz and a grant to the head. Bus B coming into use
revokes the claim, and leaving use ends RETURN and grants the head. A grant defers every other waiter, a release and a revocation
end every deferral, and no change of mode moves the phase. RETURN at
60.000 Hz and the expiry row of the sync limit are the model's choices (log entries 34 and 2). -/
def Obligations.FollowClaimMoves : Prop :=
  ∀ (s : State) (n : Ix),
    (∀ t, t = s.enterSyncing n → (s.berth n).bus = .b →
      (s.pru.holder = none → s.pru.busBInUse = false → s.pru.waiting = [] →
        t.pru = { s.pru with holder := some { berth := n, time := s.now }, mode := .follow n, ships := t.pru.ships } ∧
        (t.ship n).window = .outside) ∧
      (∀ r, s.pru.holder = some r →
        t.pru = { s.pru with waiting := s.pru.waiting ++ [{ berth := n, time := s.now }], ships := t.pru.ships } ∧
        (t.ship n).window = .deferred) ∧
      (s.pru.holder = none → s.pru.busBInUse = true →
        t.pru = { s.pru with waiting := s.pru.waiting ++ [{ berth := n, time := s.now }], ships := t.pru.ships } ∧
        (t.ship n).window = .outside)) ∧
    (s.powered = true → (s.berth n).state = .syncing → (s.berth n).syncLimit.isSome = true → s.holdsClaim n = true →
      (∀ r ∈ s.pru.waiting, r.berth ≠ n) →
      ∃ t : State, exec (.syncLimitExpiry n) s = .next t.settle ∧ (t.ship n).window = .inactive ∧
        (s.pru.busBInUse = true →
          t.pru = { s.pru with holder := none, mode := .ret, ships := t.pru.ships } ∧
          (∀ r ∈ t.pru.waiting, (t.ship r.berth).window ≠ .deferred)) ∧
        (s.pru.busBInUse = false → s.pru.waiting = [] →
          t.pru = { s.pru with holder := none, mode := .free, frequency := 60000, ships := t.pru.ships }) ∧
        (∀ r rest, s.pru.busBInUse = false → s.pru.waiting = r :: rest → (∀ x ∈ rest, x.berth ≠ r.berth) →
          t.pru = { s.pru with
            holder := some r, waiting := rest, mode := .follow r.berth, frequency := 60000, ships := t.pru.ships } ∧
          (t.ship r.berth).window ∈ [.outside, .settling, .held] ∧
          (∀ x ∈ rest, (t.ship x.berth).window = .deferred ∧ (t.ship x.berth).settle = none))) ∧
    (s.syncCloseDue n = true → s.windowMet n = true → (s.berth n).bus = .b → s.holdsClaim n = true →
      ∃ t : State, s.berthNext n = some t ∧ (t.berth n).breaker = .closeSent ∧ t.pru.holder = none ∧ t.pru.mode = .ret ∧
        t.pru.frequency = s.pru.frequency ∧ t.pru.phase = s.pru.phase ∧ t.pru.busBInUse = true ∧
        t.pru.waiting = s.pru.waiting.filter (fun x => decide (x.berth ≠ n)) ∧
        (∀ r ∈ t.pru.waiting, (t.ship r.berth).window ≠ .deferred)) ∧
    (∀ t r, t = s.followBusB → s.pru.holder = some r → s.pru.busBInUse = false → s.busBUsed = true →
      t.pru = { s.pru with
        busBInUse := true, holder := none, waiting := r :: s.pru.waiting, mode := .ret, ships := t.pru.ships } ∧
      (∀ x ∈ t.pru.waiting, (t.ship x.berth).window ≠ .deferred) ∧
      ((s.ship r.berth).window ≠ .deferred → (t.ship r.berth).window = (s.ship r.berth).window)) ∧
    (∀ t, t = s.followBusB → s.pru.holder = none → s.pru.busBInUse = true → s.busBUsed = false →
      ∀ f, f = (if s.pru.mode = .ret then 60000 else s.pru.frequency) →
      (s.pru.waiting = [] → t.pru = { s.pru with
        busBInUse := false, mode := if s.pru.mode = .ret then .free else s.pru.mode, frequency := f }) ∧
      (∀ r rest, s.pru.waiting = r :: rest → (∀ x ∈ rest, x.berth ≠ r.berth) →
        t.pru = { s.pru with
          busBInUse := false, holder := some r, waiting := rest, mode := .follow r.berth, frequency := f
          ships := t.pru.ships } ∧
        (∀ x ∈ rest, (t.ship x.berth).window = .deferred ∧ (t.ship x.berth).settle = none)))

end Slice0
end

