-- ==== Sys2Proof/Laws/State.lean ====
section
/-! SUPPORT. One lemma per field of the state per update, and reading what was written. -/

namespace Sys2Proof

/-! ### Six and seven -/

@[simp] theorem Six.get_set_same {α : Type} (v : Six α) (n : Ix) (a : α) : (v.set n a).get n = a := by cases n <;> rfl

@[simp] theorem Six.get_set_ne {α : Type} (v : Six α) {n m : Ix} (a : α) (h : m ≠ n) : (v.set n a).get m = v.get m := by
  cases n <;> cases m <;> first | rfl | exact absurd rfl h

theorem Six.get_set {α : Type} (v : Six α) (n m : Ix) (a : α) : (v.set n a).get m = if m = n then a else v.get m := by
  cases n <;> cases m <;> rfl

@[simp] theorem Six.get_ofFn {α : Type} (f : Ix → α) (n : Ix) : (Six.ofFn f).get n = f n := by cases n <;> rfl

@[simp] theorem Six.get_map {α β : Type} (f : α → β) (v : Six α) (n : Ix) : (v.map f).get n = f (v.get n) := by
  cases n <;> rfl

namespace Machine

@[simp] theorem PortMap.get_set_same {α : Type} (m : PortMap α) (p : Port) (a : α) : (m.set p a).get p = a := by
  cases p <;> simp [PortMap.get, PortMap.set]

@[simp] theorem PortMap.get_set_ne {α : Type} (m : PortMap α) {p q : Port} (a : α) (h : q ≠ p) :
    (m.set p a).get q = m.get q := by
  cases p <;> cases q <;> simp_all [PortMap.get, PortMap.set]

@[simp] theorem PortMap.get_map {α β : Type} (f : α → β) (m : PortMap α) (p : Port) : (m.map f).get p = f (m.get p) := by
  cases p <;> simp [PortMap.get, PortMap.map]

namespace State

variable (s : State)

/-! ### modBerth -/

@[simp] theorem powered_modBerth (n : Ix) (f : Berth → Berth) : (s.modBerth n f).powered = s.powered := rfl
@[simp] theorem now_modBerth (n : Ix) (f : Berth → Berth) : (s.modBerth n f).now = s.now := rfl
@[simp] theorem table_modBerth (n : Ix) (f : Berth → Berth) : (s.modBerth n f).table = s.table := rfl
@[simp] theorem inputs_modBerth (n : Ix) (f : Berth → Berth) : (s.modBerth n f).inputs = s.inputs := rfl
@[simp] theorem link_modBerth (n : Ix) (f : Berth → Berth) : (s.modBerth n f).link = s.link := rfl
@[simp] theorem oe_modBerth (n : Ix) (f : Berth → Berth) : (s.modBerth n f).oe = s.oe := rfl
@[simp] theorem berths_modBerth (n : Ix) (f : Berth → Berth) :
    (s.modBerth n f).berths = s.berths.set n (f (s.berths.get n)) := rfl
@[simp] theorem pru_modBerth (n : Ix) (f : Berth → Berth) : (s.modBerth n f).pru = s.pru := rfl
@[simp] theorem cs_modBerth (n : Ix) (f : Berth → Berth) : (s.modBerth n f).cs = s.cs := rfl
@[simp] theorem cp_modBerth (n : Ix) (f : Berth → Berth) : (s.modBerth n f).cp = s.cp := rfl
@[simp] theorem gi_modBerth (n : Ix) (f : Berth → Berth) : (s.modBerth n f).gi = s.gi := rfl
@[simp] theorem ge_modBerth (n : Ix) (f : Berth → Berth) : (s.modBerth n f).ge = s.ge := rfl
@[simp] theorem pending_modBerth (n : Ix) (f : Berth → Berth) : (s.modBerth n f).pending = s.pending := rfl

/-! ### modPort -/

@[simp] theorem powered_modPort (p : Port) (f : LinkPort → LinkPort) : (s.modPort p f).powered = s.powered := rfl
@[simp] theorem now_modPort (p : Port) (f : LinkPort → LinkPort) : (s.modPort p f).now = s.now := rfl
@[simp] theorem table_modPort (p : Port) (f : LinkPort → LinkPort) : (s.modPort p f).table = s.table := rfl
@[simp] theorem inputs_modPort (p : Port) (f : LinkPort → LinkPort) : (s.modPort p f).inputs = s.inputs := rfl
@[simp] theorem link_modPort (p : Port) (f : LinkPort → LinkPort) :
    (s.modPort p f).link = s.link.set p (f (s.link.get p)) := rfl
@[simp] theorem oe_modPort (p : Port) (f : LinkPort → LinkPort) : (s.modPort p f).oe = s.oe := rfl
@[simp] theorem berths_modPort (p : Port) (f : LinkPort → LinkPort) : (s.modPort p f).berths = s.berths := rfl
@[simp] theorem pru_modPort (p : Port) (f : LinkPort → LinkPort) : (s.modPort p f).pru = s.pru := rfl
@[simp] theorem cs_modPort (p : Port) (f : LinkPort → LinkPort) : (s.modPort p f).cs = s.cs := rfl
@[simp] theorem cp_modPort (p : Port) (f : LinkPort → LinkPort) : (s.modPort p f).cp = s.cp := rfl
@[simp] theorem gi_modPort (p : Port) (f : LinkPort → LinkPort) : (s.modPort p f).gi = s.gi := rfl
@[simp] theorem ge_modPort (p : Port) (f : LinkPort → LinkPort) : (s.modPort p f).ge = s.ge := rfl
@[simp] theorem pending_modPort (p : Port) (f : LinkPort → LinkPort) : (s.modPort p f).pending = s.pending := rfl

/-! ### modOe -/

@[simp] theorem powered_modOe (f : OrderEngine → OrderEngine) : (s.modOe f).powered = s.powered := rfl
@[simp] theorem now_modOe (f : OrderEngine → OrderEngine) : (s.modOe f).now = s.now := rfl
@[simp] theorem table_modOe (f : OrderEngine → OrderEngine) : (s.modOe f).table = s.table := rfl
@[simp] theorem inputs_modOe (f : OrderEngine → OrderEngine) : (s.modOe f).inputs = s.inputs := rfl
@[simp] theorem link_modOe (f : OrderEngine → OrderEngine) : (s.modOe f).link = s.link := rfl
@[simp] theorem oe_modOe (f : OrderEngine → OrderEngine) : (s.modOe f).oe = f s.oe := rfl
@[simp] theorem berths_modOe (f : OrderEngine → OrderEngine) : (s.modOe f).berths = s.berths := rfl
@[simp] theorem pru_modOe (f : OrderEngine → OrderEngine) : (s.modOe f).pru = s.pru := rfl
@[simp] theorem cs_modOe (f : OrderEngine → OrderEngine) : (s.modOe f).cs = s.cs := rfl
@[simp] theorem cp_modOe (f : OrderEngine → OrderEngine) : (s.modOe f).cp = s.cp := rfl
@[simp] theorem gi_modOe (f : OrderEngine → OrderEngine) : (s.modOe f).gi = s.gi := rfl
@[simp] theorem ge_modOe (f : OrderEngine → OrderEngine) : (s.modOe f).ge = s.ge := rfl
@[simp] theorem pending_modOe (f : OrderEngine → OrderEngine) : (s.modOe f).pending = s.pending := rfl

/-! ### modOrders -/

@[simp] theorem powered_modOrders (p : Port) (f : PortOrders → PortOrders) :
    (s.modOrders p f).powered = s.powered := rfl
@[simp] theorem now_modOrders (p : Port) (f : PortOrders → PortOrders) : (s.modOrders p f).now = s.now := rfl
@[simp] theorem table_modOrders (p : Port) (f : PortOrders → PortOrders) : (s.modOrders p f).table = s.table := rfl
@[simp] theorem inputs_modOrders (p : Port) (f : PortOrders → PortOrders) : (s.modOrders p f).inputs = s.inputs := rfl
@[simp] theorem link_modOrders (p : Port) (f : PortOrders → PortOrders) : (s.modOrders p f).link = s.link := rfl
@[simp] theorem oe_modOrders (p : Port) (f : PortOrders → PortOrders) :
    (s.modOrders p f).oe = { s.oe with ports := s.oe.ports.set p (f (s.oe.ports.get p)) } := rfl
@[simp] theorem berths_modOrders (p : Port) (f : PortOrders → PortOrders) : (s.modOrders p f).berths = s.berths := rfl
@[simp] theorem pru_modOrders (p : Port) (f : PortOrders → PortOrders) : (s.modOrders p f).pru = s.pru := rfl
@[simp] theorem cs_modOrders (p : Port) (f : PortOrders → PortOrders) : (s.modOrders p f).cs = s.cs := rfl
@[simp] theorem cp_modOrders (p : Port) (f : PortOrders → PortOrders) : (s.modOrders p f).cp = s.cp := rfl
@[simp] theorem gi_modOrders (p : Port) (f : PortOrders → PortOrders) : (s.modOrders p f).gi = s.gi := rfl
@[simp] theorem ge_modOrders (p : Port) (f : PortOrders → PortOrders) : (s.modOrders p f).ge = s.ge := rfl
@[simp] theorem pending_modOrders (p : Port) (f : PortOrders → PortOrders) :
    (s.modOrders p f).pending = s.pending := rfl

/-! ### modPru -/

@[simp] theorem powered_modPru (f : PhaseUnit → PhaseUnit) : (s.modPru f).powered = s.powered := rfl
@[simp] theorem now_modPru (f : PhaseUnit → PhaseUnit) : (s.modPru f).now = s.now := rfl
@[simp] theorem table_modPru (f : PhaseUnit → PhaseUnit) : (s.modPru f).table = s.table := rfl
@[simp] theorem inputs_modPru (f : PhaseUnit → PhaseUnit) : (s.modPru f).inputs = s.inputs := rfl
@[simp] theorem link_modPru (f : PhaseUnit → PhaseUnit) : (s.modPru f).link = s.link := rfl
@[simp] theorem oe_modPru (f : PhaseUnit → PhaseUnit) : (s.modPru f).oe = s.oe := rfl
@[simp] theorem berths_modPru (f : PhaseUnit → PhaseUnit) : (s.modPru f).berths = s.berths := rfl
@[simp] theorem pru_modPru (f : PhaseUnit → PhaseUnit) : (s.modPru f).pru = f s.pru := rfl
@[simp] theorem cs_modPru (f : PhaseUnit → PhaseUnit) : (s.modPru f).cs = s.cs := rfl
@[simp] theorem cp_modPru (f : PhaseUnit → PhaseUnit) : (s.modPru f).cp = s.cp := rfl
@[simp] theorem gi_modPru (f : PhaseUnit → PhaseUnit) : (s.modPru f).gi = s.gi := rfl
@[simp] theorem ge_modPru (f : PhaseUnit → PhaseUnit) : (s.modPru f).ge = s.ge := rfl
@[simp] theorem pending_modPru (f : PhaseUnit → PhaseUnit) : (s.modPru f).pending = s.pending := rfl

/-! ### modShip -/

@[simp] theorem powered_modShip (n : Ix) (f : ShipPhase → ShipPhase) : (s.modShip n f).powered = s.powered := rfl
@[simp] theorem now_modShip (n : Ix) (f : ShipPhase → ShipPhase) : (s.modShip n f).now = s.now := rfl
@[simp] theorem table_modShip (n : Ix) (f : ShipPhase → ShipPhase) : (s.modShip n f).table = s.table := rfl
@[simp] theorem inputs_modShip (n : Ix) (f : ShipPhase → ShipPhase) : (s.modShip n f).inputs = s.inputs := rfl
@[simp] theorem link_modShip (n : Ix) (f : ShipPhase → ShipPhase) : (s.modShip n f).link = s.link := rfl
@[simp] theorem oe_modShip (n : Ix) (f : ShipPhase → ShipPhase) : (s.modShip n f).oe = s.oe := rfl
@[simp] theorem berths_modShip (n : Ix) (f : ShipPhase → ShipPhase) : (s.modShip n f).berths = s.berths := rfl
@[simp] theorem pru_modShip (n : Ix) (f : ShipPhase → ShipPhase) :
    (s.modShip n f).pru = { s.pru with ships := s.pru.ships.set n (f (s.pru.ships.get n)) } := rfl
@[simp] theorem cs_modShip (n : Ix) (f : ShipPhase → ShipPhase) : (s.modShip n f).cs = s.cs := rfl
@[simp] theorem cp_modShip (n : Ix) (f : ShipPhase → ShipPhase) : (s.modShip n f).cp = s.cp := rfl
@[simp] theorem gi_modShip (n : Ix) (f : ShipPhase → ShipPhase) : (s.modShip n f).gi = s.gi := rfl
@[simp] theorem ge_modShip (n : Ix) (f : ShipPhase → ShipPhase) : (s.modShip n f).ge = s.ge := rfl
@[simp] theorem pending_modShip (n : Ix) (f : ShipPhase → ShipPhase) : (s.modShip n f).pending = s.pending := rfl

/-! ### modCs -/

@[simp] theorem powered_modCs (f : CheckUnit → CheckUnit) : (s.modCs f).powered = s.powered := rfl
@[simp] theorem now_modCs (f : CheckUnit → CheckUnit) : (s.modCs f).now = s.now := rfl
@[simp] theorem table_modCs (f : CheckUnit → CheckUnit) : (s.modCs f).table = s.table := rfl
@[simp] theorem inputs_modCs (f : CheckUnit → CheckUnit) : (s.modCs f).inputs = s.inputs := rfl
@[simp] theorem link_modCs (f : CheckUnit → CheckUnit) : (s.modCs f).link = s.link := rfl
@[simp] theorem oe_modCs (f : CheckUnit → CheckUnit) : (s.modCs f).oe = s.oe := rfl
@[simp] theorem berths_modCs (f : CheckUnit → CheckUnit) : (s.modCs f).berths = s.berths := rfl
@[simp] theorem pru_modCs (f : CheckUnit → CheckUnit) : (s.modCs f).pru = s.pru := rfl
@[simp] theorem cs_modCs (f : CheckUnit → CheckUnit) : (s.modCs f).cs = f s.cs := rfl
@[simp] theorem cp_modCs (f : CheckUnit → CheckUnit) : (s.modCs f).cp = s.cp := rfl
@[simp] theorem gi_modCs (f : CheckUnit → CheckUnit) : (s.modCs f).gi = s.gi := rfl
@[simp] theorem ge_modCs (f : CheckUnit → CheckUnit) : (s.modCs f).ge = s.ge := rfl
@[simp] theorem pending_modCs (f : CheckUnit → CheckUnit) : (s.modCs f).pending = s.pending := rfl

/-! ### modCheck -/

@[simp] theorem powered_modCheck (n : Ix) (f : CheckRec → CheckRec) : (s.modCheck n f).powered = s.powered := rfl
@[simp] theorem now_modCheck (n : Ix) (f : CheckRec → CheckRec) : (s.modCheck n f).now = s.now := rfl
@[simp] theorem table_modCheck (n : Ix) (f : CheckRec → CheckRec) : (s.modCheck n f).table = s.table := rfl
@[simp] theorem inputs_modCheck (n : Ix) (f : CheckRec → CheckRec) : (s.modCheck n f).inputs = s.inputs := rfl
@[simp] theorem link_modCheck (n : Ix) (f : CheckRec → CheckRec) : (s.modCheck n f).link = s.link := rfl
@[simp] theorem oe_modCheck (n : Ix) (f : CheckRec → CheckRec) : (s.modCheck n f).oe = s.oe := rfl
@[simp] theorem berths_modCheck (n : Ix) (f : CheckRec → CheckRec) : (s.modCheck n f).berths = s.berths := rfl
@[simp] theorem pru_modCheck (n : Ix) (f : CheckRec → CheckRec) : (s.modCheck n f).pru = s.pru := rfl
@[simp] theorem cs_modCheck (n : Ix) (f : CheckRec → CheckRec) :
    (s.modCheck n f).cs = { s.cs with records := s.cs.records.set n (f (s.cs.records.get n)) } := rfl
@[simp] theorem cp_modCheck (n : Ix) (f : CheckRec → CheckRec) : (s.modCheck n f).cp = s.cp := rfl
@[simp] theorem gi_modCheck (n : Ix) (f : CheckRec → CheckRec) : (s.modCheck n f).gi = s.gi := rfl
@[simp] theorem ge_modCheck (n : Ix) (f : CheckRec → CheckRec) : (s.modCheck n f).ge = s.ge := rfl
@[simp] theorem pending_modCheck (n : Ix) (f : CheckRec → CheckRec) : (s.modCheck n f).pending = s.pending := rfl

/-! ### modCp -/

@[simp] theorem powered_modCp (f : Pool → Pool) : (s.modCp f).powered = s.powered := rfl
@[simp] theorem now_modCp (f : Pool → Pool) : (s.modCp f).now = s.now := rfl
@[simp] theorem table_modCp (f : Pool → Pool) : (s.modCp f).table = s.table := rfl
@[simp] theorem inputs_modCp (f : Pool → Pool) : (s.modCp f).inputs = s.inputs := rfl
@[simp] theorem link_modCp (f : Pool → Pool) : (s.modCp f).link = s.link := rfl
@[simp] theorem oe_modCp (f : Pool → Pool) : (s.modCp f).oe = s.oe := rfl
@[simp] theorem berths_modCp (f : Pool → Pool) : (s.modCp f).berths = s.berths := rfl
@[simp] theorem pru_modCp (f : Pool → Pool) : (s.modCp f).pru = s.pru := rfl
@[simp] theorem cs_modCp (f : Pool → Pool) : (s.modCp f).cs = s.cs := rfl
@[simp] theorem cp_modCp (f : Pool → Pool) : (s.modCp f).cp = f s.cp := rfl
@[simp] theorem gi_modCp (f : Pool → Pool) : (s.modCp f).gi = s.gi := rfl
@[simp] theorem ge_modCp (f : Pool → Pool) : (s.modCp f).ge = s.ge := rfl
@[simp] theorem pending_modCp (f : Pool → Pool) : (s.modCp f).pending = s.pending := rfl

/-! ### modConverter -/

@[simp] theorem powered_modConverter (m : Ix) (f : Converter → Converter) :
    (s.modConverter m f).powered = s.powered := rfl
@[simp] theorem now_modConverter (m : Ix) (f : Converter → Converter) : (s.modConverter m f).now = s.now := rfl
@[simp] theorem table_modConverter (m : Ix) (f : Converter → Converter) : (s.modConverter m f).table = s.table := rfl
@[simp] theorem inputs_modConverter (m : Ix) (f : Converter → Converter) : (s.modConverter m f).inputs = s.inputs := rfl
@[simp] theorem link_modConverter (m : Ix) (f : Converter → Converter) : (s.modConverter m f).link = s.link := rfl
@[simp] theorem oe_modConverter (m : Ix) (f : Converter → Converter) : (s.modConverter m f).oe = s.oe := rfl
@[simp] theorem berths_modConverter (m : Ix) (f : Converter → Converter) : (s.modConverter m f).berths = s.berths := rfl
@[simp] theorem pru_modConverter (m : Ix) (f : Converter → Converter) : (s.modConverter m f).pru = s.pru := rfl
@[simp] theorem cs_modConverter (m : Ix) (f : Converter → Converter) : (s.modConverter m f).cs = s.cs := rfl
@[simp] theorem cp_modConverter (m : Ix) (f : Converter → Converter) :
    (s.modConverter m f).cp = { s.cp with modules := s.cp.modules.set m (f (s.cp.modules.get m)) } := rfl
@[simp] theorem gi_modConverter (m : Ix) (f : Converter → Converter) : (s.modConverter m f).gi = s.gi := rfl
@[simp] theorem ge_modConverter (m : Ix) (f : Converter → Converter) : (s.modConverter m f).ge = s.ge := rfl
@[simp] theorem pending_modConverter (m : Ix) (f : Converter → Converter) :
    (s.modConverter m f).pending = s.pending := rfl

/-! ### modGi -/

@[simp] theorem powered_modGi (f : GridUnit → GridUnit) : (s.modGi f).powered = s.powered := rfl
@[simp] theorem now_modGi (f : GridUnit → GridUnit) : (s.modGi f).now = s.now := rfl
@[simp] theorem table_modGi (f : GridUnit → GridUnit) : (s.modGi f).table = s.table := rfl
@[simp] theorem inputs_modGi (f : GridUnit → GridUnit) : (s.modGi f).inputs = s.inputs := rfl
@[simp] theorem link_modGi (f : GridUnit → GridUnit) : (s.modGi f).link = s.link := rfl
@[simp] theorem oe_modGi (f : GridUnit → GridUnit) : (s.modGi f).oe = s.oe := rfl
@[simp] theorem berths_modGi (f : GridUnit → GridUnit) : (s.modGi f).berths = s.berths := rfl
@[simp] theorem pru_modGi (f : GridUnit → GridUnit) : (s.modGi f).pru = s.pru := rfl
@[simp] theorem cs_modGi (f : GridUnit → GridUnit) : (s.modGi f).cs = s.cs := rfl
@[simp] theorem cp_modGi (f : GridUnit → GridUnit) : (s.modGi f).cp = s.cp := rfl
@[simp] theorem gi_modGi (f : GridUnit → GridUnit) : (s.modGi f).gi = f s.gi := rfl
@[simp] theorem ge_modGi (f : GridUnit → GridUnit) : (s.modGi f).ge = s.ge := rfl
@[simp] theorem pending_modGi (f : GridUnit → GridUnit) : (s.modGi f).pending = s.pending := rfl

/-! ### modGe -/

@[simp] theorem powered_modGe (f : GrantUnit → GrantUnit) : (s.modGe f).powered = s.powered := rfl
@[simp] theorem now_modGe (f : GrantUnit → GrantUnit) : (s.modGe f).now = s.now := rfl
@[simp] theorem table_modGe (f : GrantUnit → GrantUnit) : (s.modGe f).table = s.table := rfl
@[simp] theorem inputs_modGe (f : GrantUnit → GrantUnit) : (s.modGe f).inputs = s.inputs := rfl
@[simp] theorem link_modGe (f : GrantUnit → GrantUnit) : (s.modGe f).link = s.link := rfl
@[simp] theorem oe_modGe (f : GrantUnit → GrantUnit) : (s.modGe f).oe = s.oe := rfl
@[simp] theorem berths_modGe (f : GrantUnit → GrantUnit) : (s.modGe f).berths = s.berths := rfl
@[simp] theorem pru_modGe (f : GrantUnit → GrantUnit) : (s.modGe f).pru = s.pru := rfl
@[simp] theorem cs_modGe (f : GrantUnit → GrantUnit) : (s.modGe f).cs = s.cs := rfl
@[simp] theorem cp_modGe (f : GrantUnit → GrantUnit) : (s.modGe f).cp = s.cp := rfl
@[simp] theorem gi_modGe (f : GrantUnit → GrantUnit) : (s.modGe f).gi = s.gi := rfl
@[simp] theorem ge_modGe (f : GrantUnit → GrantUnit) : (s.modGe f).ge = f s.ge := rfl
@[simp] theorem pending_modGe (f : GrantUnit → GrantUnit) : (s.modGe f).pending = s.pending := rfl

/-! ### modGrantBerth -/

@[simp] theorem powered_modGrantBerth (n : Ix) (f : GrantBerth → GrantBerth) :
    (s.modGrantBerth n f).powered = s.powered := rfl
@[simp] theorem now_modGrantBerth (n : Ix) (f : GrantBerth → GrantBerth) : (s.modGrantBerth n f).now = s.now := rfl
@[simp] theorem table_modGrantBerth (n : Ix) (f : GrantBerth → GrantBerth) :
    (s.modGrantBerth n f).table = s.table := rfl
@[simp] theorem inputs_modGrantBerth (n : Ix) (f : GrantBerth → GrantBerth) :
    (s.modGrantBerth n f).inputs = s.inputs := rfl
@[simp] theorem link_modGrantBerth (n : Ix) (f : GrantBerth → GrantBerth) : (s.modGrantBerth n f).link = s.link := rfl
@[simp] theorem oe_modGrantBerth (n : Ix) (f : GrantBerth → GrantBerth) : (s.modGrantBerth n f).oe = s.oe := rfl
@[simp] theorem berths_modGrantBerth (n : Ix) (f : GrantBerth → GrantBerth) :
    (s.modGrantBerth n f).berths = s.berths := rfl
@[simp] theorem pru_modGrantBerth (n : Ix) (f : GrantBerth → GrantBerth) : (s.modGrantBerth n f).pru = s.pru := rfl
@[simp] theorem cs_modGrantBerth (n : Ix) (f : GrantBerth → GrantBerth) : (s.modGrantBerth n f).cs = s.cs := rfl
@[simp] theorem cp_modGrantBerth (n : Ix) (f : GrantBerth → GrantBerth) : (s.modGrantBerth n f).cp = s.cp := rfl
@[simp] theorem gi_modGrantBerth (n : Ix) (f : GrantBerth → GrantBerth) : (s.modGrantBerth n f).gi = s.gi := rfl
@[simp] theorem ge_modGrantBerth (n : Ix) (f : GrantBerth → GrantBerth) :
    (s.modGrantBerth n f).ge = { s.ge with berths := s.ge.berths.set n (f (s.ge.berths.get n)) } := rfl
@[simp] theorem pending_modGrantBerth (n : Ix) (f : GrantBerth → GrantBerth) :
    (s.modGrantBerth n f).pending = s.pending := rfl

/-! ### modInputs -/

@[simp] theorem powered_modInputs (f : Inputs → Inputs) : (s.modInputs f).powered = s.powered := rfl
@[simp] theorem now_modInputs (f : Inputs → Inputs) : (s.modInputs f).now = s.now := rfl
@[simp] theorem table_modInputs (f : Inputs → Inputs) : (s.modInputs f).table = s.table := rfl
@[simp] theorem inputs_modInputs (f : Inputs → Inputs) : (s.modInputs f).inputs = f s.inputs := rfl
@[simp] theorem link_modInputs (f : Inputs → Inputs) : (s.modInputs f).link = s.link := rfl
@[simp] theorem oe_modInputs (f : Inputs → Inputs) : (s.modInputs f).oe = s.oe := rfl
@[simp] theorem berths_modInputs (f : Inputs → Inputs) : (s.modInputs f).berths = s.berths := rfl
@[simp] theorem pru_modInputs (f : Inputs → Inputs) : (s.modInputs f).pru = s.pru := rfl
@[simp] theorem cs_modInputs (f : Inputs → Inputs) : (s.modInputs f).cs = s.cs := rfl
@[simp] theorem cp_modInputs (f : Inputs → Inputs) : (s.modInputs f).cp = s.cp := rfl
@[simp] theorem gi_modInputs (f : Inputs → Inputs) : (s.modInputs f).gi = s.gi := rfl
@[simp] theorem ge_modInputs (f : Inputs → Inputs) : (s.modInputs f).ge = s.ge := rfl
@[simp] theorem pending_modInputs (f : Inputs → Inputs) : (s.modInputs f).pending = s.pending := rfl

/-! ### modOutlet -/

@[simp] theorem powered_modOutlet (n : Ix) (f : OutletInputs → OutletInputs) :
    (s.modOutlet n f).powered = s.powered := rfl
@[simp] theorem now_modOutlet (n : Ix) (f : OutletInputs → OutletInputs) : (s.modOutlet n f).now = s.now := rfl
@[simp] theorem table_modOutlet (n : Ix) (f : OutletInputs → OutletInputs) : (s.modOutlet n f).table = s.table := rfl
@[simp] theorem inputs_modOutlet (n : Ix) (f : OutletInputs → OutletInputs) :
    (s.modOutlet n f).inputs = { s.inputs with outlet := s.inputs.outlet.set n (f (s.inputs.outlet.get n)) } := rfl
@[simp] theorem link_modOutlet (n : Ix) (f : OutletInputs → OutletInputs) : (s.modOutlet n f).link = s.link := rfl
@[simp] theorem oe_modOutlet (n : Ix) (f : OutletInputs → OutletInputs) : (s.modOutlet n f).oe = s.oe := rfl
@[simp] theorem berths_modOutlet (n : Ix) (f : OutletInputs → OutletInputs) : (s.modOutlet n f).berths = s.berths := rfl
@[simp] theorem pru_modOutlet (n : Ix) (f : OutletInputs → OutletInputs) : (s.modOutlet n f).pru = s.pru := rfl
@[simp] theorem cs_modOutlet (n : Ix) (f : OutletInputs → OutletInputs) : (s.modOutlet n f).cs = s.cs := rfl
@[simp] theorem cp_modOutlet (n : Ix) (f : OutletInputs → OutletInputs) : (s.modOutlet n f).cp = s.cp := rfl
@[simp] theorem gi_modOutlet (n : Ix) (f : OutletInputs → OutletInputs) : (s.modOutlet n f).gi = s.gi := rfl
@[simp] theorem ge_modOutlet (n : Ix) (f : OutletInputs → OutletInputs) : (s.modOutlet n f).ge = s.ge := rfl
@[simp] theorem pending_modOutlet (n : Ix) (f : OutletInputs → OutletInputs) :
    (s.modOutlet n f).pending = s.pending := rfl

/-! ### modModuleInputs -/

@[simp] theorem powered_modModuleInputs (m : Ix) (f : ModuleInputs → ModuleInputs) :
    (s.modModuleInputs m f).powered = s.powered := rfl
@[simp] theorem now_modModuleInputs (m : Ix) (f : ModuleInputs → ModuleInputs) :
    (s.modModuleInputs m f).now = s.now := rfl
@[simp] theorem table_modModuleInputs (m : Ix) (f : ModuleInputs → ModuleInputs) :
    (s.modModuleInputs m f).table = s.table := rfl
@[simp] theorem inputs_modModuleInputs (m : Ix) (f : ModuleInputs → ModuleInputs) :
    (s.modModuleInputs m f).inputs = { s.inputs with modules := s.inputs.modules.set m (f (s.inputs.modules.get m)) } := rfl
@[simp] theorem link_modModuleInputs (m : Ix) (f : ModuleInputs → ModuleInputs) :
    (s.modModuleInputs m f).link = s.link := rfl
@[simp] theorem oe_modModuleInputs (m : Ix) (f : ModuleInputs → ModuleInputs) : (s.modModuleInputs m f).oe = s.oe := rfl
@[simp] theorem berths_modModuleInputs (m : Ix) (f : ModuleInputs → ModuleInputs) :
    (s.modModuleInputs m f).berths = s.berths := rfl
@[simp] theorem pru_modModuleInputs (m : Ix) (f : ModuleInputs → ModuleInputs) :
    (s.modModuleInputs m f).pru = s.pru := rfl
@[simp] theorem cs_modModuleInputs (m : Ix) (f : ModuleInputs → ModuleInputs) : (s.modModuleInputs m f).cs = s.cs := rfl
@[simp] theorem cp_modModuleInputs (m : Ix) (f : ModuleInputs → ModuleInputs) : (s.modModuleInputs m f).cp = s.cp := rfl
@[simp] theorem gi_modModuleInputs (m : Ix) (f : ModuleInputs → ModuleInputs) : (s.modModuleInputs m f).gi = s.gi := rfl
@[simp] theorem ge_modModuleInputs (m : Ix) (f : ModuleInputs → ModuleInputs) : (s.modModuleInputs m f).ge = s.ge := rfl
@[simp] theorem pending_modModuleInputs (m : Ix) (f : ModuleInputs → ModuleInputs) :
    (s.modModuleInputs m f).pending = s.pending := rfl

/-! ### modTable -/

@[simp] theorem powered_modTable (f : List Nat → List Nat) : (s.modTable f).powered = s.powered := rfl
@[simp] theorem now_modTable (f : List Nat → List Nat) : (s.modTable f).now = s.now := rfl
@[simp] theorem table_modTable (f : List Nat → List Nat) : (s.modTable f).table = f s.table := rfl
@[simp] theorem inputs_modTable (f : List Nat → List Nat) : (s.modTable f).inputs = s.inputs := rfl
@[simp] theorem link_modTable (f : List Nat → List Nat) : (s.modTable f).link = s.link := rfl
@[simp] theorem oe_modTable (f : List Nat → List Nat) : (s.modTable f).oe = s.oe := rfl
@[simp] theorem berths_modTable (f : List Nat → List Nat) : (s.modTable f).berths = s.berths := rfl
@[simp] theorem pru_modTable (f : List Nat → List Nat) : (s.modTable f).pru = s.pru := rfl
@[simp] theorem cs_modTable (f : List Nat → List Nat) : (s.modTable f).cs = s.cs := rfl
@[simp] theorem cp_modTable (f : List Nat → List Nat) : (s.modTable f).cp = s.cp := rfl
@[simp] theorem gi_modTable (f : List Nat → List Nat) : (s.modTable f).gi = s.gi := rfl
@[simp] theorem ge_modTable (f : List Nat → List Nat) : (s.modTable f).ge = s.ge := rfl
@[simp] theorem pending_modTable (f : List Nat → List Nat) : (s.modTable f).pending = s.pending := rfl

end State

end Machine

end Sys2Proof
end

