-- ==== Sys2Proof/Laws/Stable.lean ====
section
/-! SUPPORT. What every operation of the machine can do, said once: a property that the primitive updates keep, under the
bounds that the operations in fact observe, is kept by every operation, by `exec` and by `step`. -/

namespace Sys2Proof.Machine

/-! ### The bounds of the primitive updates -/

/-- The slots that a queue of chains holds. -/
def slotsOf (q : List Chain) : Nat := (q.map fun c => c.orders.length).sum

/-- A queue has not grown. -/
def QueueLe (new old : List Chain) : Prop := new.length ≤ old.length ∧ slotsOf new ≤ slotsOf old

/-- The Order Engine has not grown. -/
def OeLe (new old : OrderEngine) : Prop := ∀ p, QueueLe (new.ports.get p).queue (old.ports.get p).queue

/-- The Grant Engine's counts are as they were or within their ranges. -/
def GeOk (new old : GrantUnit) : Prop :=
  (new.period = old.period ∨ new.period ≤ 65535) ∧
    ∀ n, (new.berths.get n).charge.acc = (old.berths.get n).charge.acc ∨ (new.berths.get n).charge.acc ≤ 3599

/-- The reference frequency is within its band. -/
def PhaseUnit.inBand (u : PhaseUnit) : Prop := Config.refLow ≤ u.frequency ∧ u.frequency ≤ Config.refHigh

/-- The reference frequency is as it was, or has not left its band. -/
def PruOk (new old : PhaseUnit) : Prop := new.frequency = old.frequency ∨ (old.inBand → new.inBand)

/-- The ages are as they were or within their range. -/
def CsOk (new old : CheckUnit) : Prop :=
  ∀ n, (new.records.get n).age = (old.records.get n).age ∨ (new.records.get n).age ≤ 65535

/-- A property that every primitive update keeps. -/
structure Stable (P : State → Prop) : Prop where
  berths : ∀ s x, P s → P { s with berths := x }
  link : ∀ s x, P s → P { s with link := x }
  inputs : ∀ s x, P s → P { s with inputs := x }
  cp : ∀ s x, P s → P { s with cp := x }
  gi : ∀ s x, P s → P { s with gi := x }
  now : ∀ s x, P s → P { s with now := x }
  powered : ∀ s x, P s → P { s with powered := x }
  pending : ∀ s x, P s → P { s with pending := x }
  table : ∀ s i v, P s → P { s with table := s.table.set i (entryClamp i v) }
  pru : ∀ s x, PruOk x s.pru → P s → P { s with pru := x }
  cs : ∀ s x, CsOk x s.cs → P s → P { s with cs := x }
  ge : ∀ s x, GeOk x s.ge → P s → P { s with ge := x }
  oe : ∀ s x, OeLe x s.oe → P s → P { s with oe := x }
  queue : ∀ s p recs, (s.orders p).queue.length < Config.portChains → recs.length ≤ s.freeSlots → P s →
    P (s.queueChain p recs)
  power : ∀ s i, P s → P (s.powerOnBlocks (checkedTable s.table) i)

theorem QueueLe.refl (q : List Chain) : QueueLe q q := ⟨le_rfl, le_rfl⟩

theorem OeLe.refl (o : OrderEngine) : OeLe o o := fun _ => QueueLe.refl _

theorem OeLe.of_ports {o o' : OrderEngine} (h : o'.ports = o.ports) : OeLe o' o := fun p => by rw [h]; exact QueueLe.refl _

theorem GeOk.of_acc {g g' : GrantUnit} (hp : g'.period = g.period)
    (ha : ∀ n, (g'.berths.get n).charge.acc = (g.berths.get n).charge.acc) : GeOk g' g := ⟨Or.inl hp, fun n => Or.inl (ha n)⟩

theorem GeOk.refl (g : GrantUnit) : GeOk g g := .of_acc rfl fun _ => rfl

theorem slotsOf_cons (c : Chain) (q : List Chain) : slotsOf (c :: q) = c.orders.length + slotsOf q := by
  simp [slotsOf]

theorem QueueLe.nil (q : List Chain) : QueueLe [] q := ⟨Nat.zero_le _, by simp [slotsOf]⟩

theorem QueueLe.tail (q : List Chain) : QueueLe q.tail q := by
  cases q with
  | nil => exact QueueLe.refl _
  | cons c q => exact ⟨by simp, by simp [slotsOf_cons]⟩

theorem QueueLe.filter (f : Chain → Bool) (q : List Chain) : QueueLe (q.filter f) q := by
  refine ⟨List.length_filter_le _ _, ?_⟩
  induction q with
  | nil => simp
  | cons c q ih =>
    simp only [List.filter_cons, slotsOf_cons]
    split
    · simp only [slotsOf_cons]; omega
    · omega

theorem QueueLe.eraseP (f : Chain → Bool) (q : List Chain) : QueueLe (q.eraseP f) q := by
  refine ⟨List.length_eraseP_le, ?_⟩
  induction q with
  | nil => simp
  | cons c q ih =>
    simp only [List.eraseP_cons, slotsOf_cons]
    cases f c <;> simp only [cond_true, cond_false, slotsOf_cons] <;> omega

theorem QueueLe.head {f : Chain → Chain} (hf : ∀ c, (f c).orders.length = c.orders.length) (q : List Chain) :
    QueueLe ((q.take 1).map f ++ q.drop 1) q := by
  cases q with
  | nil => exact QueueLe.refl _
  | cons c q => exact ⟨by simp, by simp [slotsOf_cons, hf]⟩

theorem QueueLe.modChain {serial : Nat} {f : Chain → Chain} (hf : ∀ c, (f c).orders.length = c.orders.length)
    (q : List Chain) : QueueLe (modChain serial f q) q := by
  refine ⟨by simp [Machine.modChain], le_of_eq ?_⟩
  induction q with
  | nil => rfl
  | cons c q ih =>
    simp only [Machine.modChain, List.map_cons, slotsOf_cons] at ih ⊢
    rw [ih]
    split <;> simp [hf]

theorem modSlot_length (pos : Nat) (f : Slot → Slot) (c : Chain) : (c.modSlot pos f).orders.length = c.orders.length := by
  unfold Chain.modSlot; split <;> simp

theorem stopOnError_length (pos : Nat) (st : Status) (sl : Slot) (c : Chain) :
    (c.stopOnError pos st sl).orders.length = c.orders.length := by
  unfold Chain.stopOnError; split <;> simp

theorem endOrder_length (pos : Nat) (st : Status) (c : Chain) : (c.endOrder pos st).orders.length = c.orders.length := by
  unfold Chain.endOrder
  split
  · split <;> simp [stopOnError_length, modSlot_length]
  · rfl

theorem cancelRest_length (code : Code) (c : Chain) : (c.cancelRest code).orders.length = c.orders.length := by
  simp [Chain.cancelRest]

/-- A property that each step of a sequence keeps is kept by the sequence. -/
theorem keep_forEach {P : State → Prop} {α : Type} {f : α → State → State} (hf : ∀ a s, P s → P (f a s)) (l : List α) :
    ∀ {s : State}, P s → P (s.forEach l f) := by
  induction l with
  | nil => exact fun h => h
  | cons a l ih => exact fun h => ih (hf a _ h)

namespace Stable

variable {P : State → Prop} (h : Stable P) {s : State}
include h

/-! ### The primitive updates -/

theorem modBerth {n : Ix} {f : Berth → Berth} (hs : P s) : P (s.modBerth n f) := h.berths _ _ hs
theorem modPort {p : Port} {f : LinkPort → LinkPort} (hs : P s) : P (s.modPort p f) := h.link _ _ hs
theorem modInputs {f : Inputs → Inputs} (hs : P s) : P (s.modInputs f) := h.inputs _ _ hs
theorem modOutlet {n : Ix} {f : OutletInputs → OutletInputs} (hs : P s) : P (s.modOutlet n f) := h.inputs _ _ hs
theorem modModuleInputs {m : Ix} {f : ModuleInputs → ModuleInputs} (hs : P s) : P (s.modModuleInputs m f) :=
  h.inputs _ _ hs
theorem modCp {f : Pool → Pool} (hs : P s) : P (s.modCp f) := h.cp _ _ hs
theorem modConverter {m : Ix} {f : Converter → Converter} (hs : P s) : P (s.modConverter m f) := h.cp _ _ hs
theorem modGi {f : GridUnit → GridUnit} (hs : P s) : P (s.modGi f) := h.gi _ _ hs
theorem modPru {f : PhaseUnit → PhaseUnit} (hf : PruOk (f s.pru) s.pru) (hs : P s) : P (s.modPru f) := h.pru _ _ hf hs
theorem modShip {n : Ix} {f : ShipPhase → ShipPhase} (hs : P s) : P (s.modShip n f) := h.pru _ _ (Or.inl rfl) hs
theorem modCs {f : CheckUnit → CheckUnit} (hf : CsOk (f s.cs) s.cs) (hs : P s) : P (s.modCs f) := h.cs _ _ hf hs
theorem modGe {f : GrantUnit → GrantUnit} (hf : GeOk (f s.ge) s.ge) (hs : P s) : P (s.modGe f) := h.ge _ _ hf hs
theorem modOe {f : OrderEngine → OrderEngine} (hf : OeLe (f s.oe) s.oe) (hs : P s) : P (s.modOe f) := h.oe _ _ hf hs

theorem modCheck {n : Ix} {f : CheckRec → CheckRec} (hf : ∀ c, (f c).age = c.age ∨ (f c).age ≤ 65535) (hs : P s) :
    P (s.modCheck n f) := by
  refine h.cs _ _ (fun m => ?_) hs
  simp only [Six.get_set]
  split
  · subst m; exact hf _
  · exact Or.inl rfl

theorem modGrantBerth {n : Ix} {f : GrantBerth → GrantBerth}
    (hf : ∀ b, (f b).charge.acc = b.charge.acc ∨ (f b).charge.acc ≤ 3599) (hs : P s) : P (s.modGrantBerth n f) := by
  refine h.ge _ _ ⟨Or.inl rfl, fun m => ?_⟩ hs
  simp only [Six.get_set]
  split
  · subst m; exact hf _
  · exact Or.inl rfl

theorem modOrders {p : Port} {f : PortOrders → PortOrders} (hf : QueueLe (f (s.oe.ports.get p)).queue (s.oe.ports.get p).queue)
    (hs : P s) : P (s.modOrders p f) := by
  refine h.oe _ _ (fun q => ?_) hs
  by_cases hq : q = p
  · subst hq; simpa using hf
  · simpa [hq] using QueueLe.refl _

/-! ### Link, Orders, Flags, Grid -/

theorem send {p : Port} {f : TxFrame} (hs : P s) : P (s.send p f) := h.modPort hs
theorem post {p : Port} {c : NoticeClass} {x : Notice} (hs : P s) : P (s.post p c x) := h.modPort hs
theorem notify {p : Port} {c : NoticeClass} {b : Option Ix} {code v : Nat} (hs : P s) : P (s.notify p c b code v) := h.post hs
theorem notifyBoth {n : Ix} {c : NoticeClass} {code v : Nat} (hs : P s) : P (s.notifyBoth n c code v) :=
  h.notify (h.notify hs)

theorem endOrder {r : OrderRef} {st : Status} (hs : P s) : P (s.endOrder r st) :=
  h.modOrders (QueueLe.modChain (endOrder_length _ _) _) hs

theorem endConsenting {n : Ix} {v : Verdict} {c : Code} {d : Nat} (hs : P s) : P (s.endConsenting n v c d) := by
  unfold State.endConsenting
  split
  · exact hs
  · exact h.modBerth (h.endOrder hs)

theorem failConsenting {n : Ix} {c : Code} (hs : P s) : P (s.failConsenting n c) := h.endConsenting hs

theorem setFlag {n : Ix} {b : Bool} {f : SyncFlag} (hs : P s) : P (s.setFlag n b f) := h.modOe (OeLe.of_ports rfl) hs

theorem endRunning {p : Port} {v : Verdict} {c : Code} (hs : P s) : P (s.endRunning p v c) := by
  unfold State.endRunning
  split
  · exact hs
  · exact h.endOrder hs

theorem flagEvent {n : Ix} {b : Bool} (hs : P s) : P (s.flagEvent n b) := by
  unfold State.flagEvent
  simp only
  split
  · exact h.endRunning (h.setFlag hs)
  · exact h.setFlag hs
  · exact h.setFlag hs

theorem postSource {n : Ix} {src : FlagSource} (hs : P s) : P (s.postSource n src) := by
  unfold State.postSource
  simp only
  split <;> split <;> first | exact hs | exact h.flagEvent hs | exact h.flagEvent (h.flagEvent hs)

theorem dropWaiter {p : Port} (hs : P s) : P (s.dropWaiter p) := h.modOe (OeLe.of_ports rfl) hs

theorem resetFlags {n : Ix} (hs : P s) : P (s.resetFlags n) :=
  keep_forEach (fun _ _ hs => h.endRunning hs) _ (h.modOe (OeLe.of_ports rfl) hs)

theorem notifyCeiling {c : CeilingCode} {v : Nat} (hs : P s) : P (s.notifyCeiling c v) := h.notify hs
theorem reformCeiling (hs : P s) : P s.reformCeiling := h.modGi hs

theorem takeWord {hi lo c : Byte} (hs : P s) : P (s.takeWord hi lo c) := by
  unfold State.takeWord
  simp only
  split
  · split
    · exact h.notifyCeiling (h.reformCeiling (h.modGi hs))
    · exact h.reformCeiling (h.modGi hs)
  · exact hs

theorem becomeStale (hs : P s) : P s.becomeStale := h.notifyCeiling (h.reformCeiling (h.modGi hs))
theorem dropWord (hs : P s) : P s.dropWord := h.modGi hs

theorem gridByte {b : Byte} (hs : P s) : P (s.gridByte b) := by
  unfold State.gridByte
  split
  · split
    · exact h.modGi hs
    · exact hs
  · exact h.modGi hs
  · exact h.modGi hs
  · exact h.takeWord (h.dropWord hs)

/-! ### Grants -/

theorem notifyGrant {n : Ix} {c v p : Nat} (hs : P s) : P (s.notifyGrant n c v p) := h.post hs

theorem warnShort {n : Ix} (hs : P s) : P (s.warnShort n) := by
  unfold State.warnShort
  simp only
  split
  · exact h.notify (h.notify (h.modGrantBerth (fun _ => Or.inl rfl) hs))
  · exact hs

theorem cutActive {f : GrantSet → GrantSet} (hs : P s) : P (s.cutActive f) := by
  refine keep_forEach (fun _ _ hs => ?_) _ (h.modGe (GeOk.refl _) hs)
  split
  · exact h.notifyGrant hs
  · exact hs

theorem cutStaged {f : GrantSet → GrantSet} (hs : P s) : P (s.cutStaged f) := by
  refine keep_forEach (fun _ _ hs => ?_) _ (h.modGe (GeOk.refl _) hs)
  split
  · exact h.notifyGrant hs
  · exact hs

theorem trimActive (hs : P s) : P s.trimActive := h.cutActive hs
theorem trimBoth (hs : P s) : P s.trimBoth := h.cutStaged (h.trimActive hs)
theorem cutAll (hs : P s) : P s.cutAll := h.cutStaged (h.cutActive hs)

theorem zeroStaged (hs : P s) : P s.zeroStaged := by
  unfold State.zeroStaged
  split
  · exact h.modGe (GeOk.refl _) hs
  · exact hs

theorem shedGrants {m : ShedMode} (hs : P s) : P (s.shedGrants m) := by
  cases m
  · exact h.cutAll hs
  · exact h.zeroStaged hs

theorem putBoth {n : Ix} {r : GrantRec} (hs : P s) : P (s.putBoth n r) :=
  h.modGe (GeOk.of_acc rfl fun m => by simp only [Six.get_set]; split <;> simp_all) hs
theorem zeroGrants {n : Ix} (hs : P s) : P (s.zeroGrants n) := h.putBoth hs
theorem dropFlexible {n : Ix} (hs : P s) : P (s.dropFlexible n) := by
  unfold State.dropFlexible
  exact h.modGe (GeOk.refl _) hs
theorem leaveQueue {n : Ix} (hs : P s) : P (s.leaveQueue n) := h.modGe (GeOk.refl _) hs
theorem endAdmission {n : Ix} (hs : P s) : P (s.endAdmission n) :=
  h.zeroGrants (h.modGrantBerth (fun _ => Or.inl rfl) (h.leaveQueue hs))
theorem clearOverdraw {n : Ix} (hs : P s) : P (s.clearOverdraw n) := h.modGrantBerth (fun _ => Or.inl rfl) hs
theorem clearCharge {n : Ix} (hs : P s) : P (s.clearCharge n) :=
  h.clearOverdraw (h.modGrantBerth (fun _ => Or.inr (Nat.zero_le _)) hs)
theorem setConnected {n : Ix} (hs : P s) : P (s.setConnected n) := h.modGrantBerth (fun _ => Or.inl rfl) hs
theorem adoptGrants {n : Ix} (hs : P s) : P (s.adoptGrants n) :=
  h.trimBoth (h.putBoth (h.modGrantBerth (fun _ => Or.inl rfl) (h.endAdmission hs)))
theorem admission {n : Ix} (hs : P s) : P (s.admission n) :=
  h.trimBoth (h.putBoth (h.modBerth (h.modGrantBerth (fun _ => Or.inl rfl) (h.leaveQueue hs))))

theorem serveUpTo (k : Nat) : ∀ {s : State}, P s → P (State.serveUpTo k s) := by
  induction k with
  | zero => exact fun hs => hs
  | succ k ih =>
    intro s hs
    unfold State.serveUpTo
    split
    · exact hs
    · split
      · exact ih (h.admission hs)
      · exact hs

theorem serveQueue (hs : P s) : P s.serveQueue := h.serveUpTo _ hs
theorem joinQueue {n : Ix} (hs : P s) : P (s.joinQueue n) := h.serveQueue (h.modGe (GeOk.refl _) hs)

theorem requeue {n : Ix} {prio : Nat} (hs : P s) : P (s.requeue n prio) := by
  unfold State.requeue
  split
  · exact hs
  · exact h.modGe (GeOk.refl _) (h.leaveQueue hs)

theorem switchSets (hs : P s) : P s.switchSets := by
  unfold State.switchSets
  refine h.trimActive ?_
  have ht : P (s.modGe fun g =>
    if g.staged.pending then
      { g with active := { g.staged with a := s.importAvailable, pending := false }, staged := { g.staged with pending := false } }
    else { g with active := { g.active with a := s.importAvailable } }) := by
    refine h.modGe ?_ hs
    split <;> exact GeOk.refl _
  split
  · refine keep_forEach (fun _ _ hs => ?_) _ ht
    split
    · exact h.postSource hs
    · exact hs
  · exact ht

theorem judgeFlag {o : Bool} {a b : Nat} {on off : CeilingCode} (hs : P s) : P (s.judgeFlag o a b on off) := by
  unfold State.judgeFlag
  split
  · exact h.notifyCeiling hs
  · split
    · exact h.notifyCeiling hs
    · exact hs

theorem judgeFlags (hs : P s) : P s.judgeFlags := h.judgeFlag (h.judgeFlag (h.modGe (GeOk.refl _) hs))

theorem advise {t : Ix → Bool} {c d : Nat} (hs : P s) : P (s.advise t c d) := by
  unfold State.advise
  split
  · exact h.notify (h.notify hs)
  · exact hs

theorem adviseReturns (hs : P s) : P s.adviseReturns := by
  unfold State.adviseReturns
  simp only
  split <;> split <;> first | exact hs | exact h.advise hs | exact h.advise (h.advise hs)

theorem announceStaged (hs : P s) : P s.announceStaged := by
  refine keep_forEach (fun _ _ hs => ?_) _ hs
  split
  · exact h.notifyGrant hs
  · exact hs

theorem compute (hs : P s) : P s.compute :=
  h.announceStaged (h.adviseReturns (h.judgeFlags (h.modGe (GeOk.of_acc rfl fun n => by simp only [State.formedFigures, Six.get_ofFn, State.grantBerth]) hs)))

/-! ### The Phase Reference Unit -/

theorem setWindow {n : Ix} {w : Window} {t : Option Nat} (hs : P s) : P (s.setWindow n w t) := h.modShip hs
theorem deferWaiters (hs : P s) : P s.deferWaiters := keep_forEach (fun _ _ hs => h.setWindow hs) _ hs

theorem endDeferral (hs : P s) : P s.endDeferral := by
  refine keep_forEach (fun _ _ hs => ?_) _ hs
  split
  · exact h.setWindow hs
  · exact hs

theorem freeReference (hs : P s) : P s.freeReference :=
  h.modPru (Or.inr fun _ => ⟨show 59000 ≤ 60000 by decide, show 60000 ≤ 61000 by decide⟩) hs

theorem grantClaim {r : ClaimRequest} (hs : P s) : P (s.grantClaim r) := by
  unfold State.grantClaim
  simp only
  have ht := h.deferWaiters (h.modPru (f := fun u : PhaseUnit =>
    { u with holder := some r, waiting := u.waiting.filter fun x => decide (x.berth ≠ r.berth), mode := .follow r.berth })
    (Or.inl rfl) hs)
  split
  · exact h.setWindow ht
  · exact h.setWindow ht
  · exact ht
  · exact ht
  · exact ht

theorem grantHead (hs : P s) : P s.grantHead := by
  unfold State.grantHead
  split
  · split
    · exact hs
    · exact h.grantClaim hs
  · exact hs

theorem requestClaim {n : Ix} (hs : P s) : P (s.requestClaim n) := h.grantHead (h.modPru (Or.inl rfl) (h.setWindow hs))
theorem leaveClaims {n : Ix} (hs : P s) : P (s.leaveClaims n) := h.modPru (Or.inl rfl) hs

theorem releaseClaim {b : Bool} (hs : P s) : P (s.releaseClaim b) := by
  unfold State.releaseClaim
  simp only
  split
  · exact h.endDeferral (h.modPru (Or.inl rfl) (h.modPru (Or.inl rfl) hs))
  · exact h.grantHead (h.endDeferral (h.freeReference (h.modPru (Or.inl rfl) hs)))

theorem leaveSyncing {n : Ix} {b : Bool} (hs : P s) : P (s.leaveSyncing n b) := by
  unfold State.leaveSyncing
  simp only
  split
  · exact h.releaseClaim (h.setWindow (h.leaveClaims hs))
  · exact h.setWindow (h.leaveClaims hs)

theorem revokeClaim (hs : P s) : P s.revokeClaim := by
  unfold State.revokeClaim
  split
  · exact hs
  · exact h.endDeferral (h.modPru (Or.inl rfl) hs)

theorem followBusB (hs : P s) : P s.followBusB := by
  unfold State.followBusB
  simp only
  have ht := h.modPru (f := fun u : PhaseUnit => { u with busBInUse := s.busBUsed }) (Or.inl rfl) hs
  split
  · exact h.revokeClaim ht
  · split
    · exact h.grantHead (h.freeReference ht)
    · exact h.grantHead ht
  · exact ht

/-! ### The Check Scanner -/

theorem setUpCheck {n : Ix} (hs : P s) : P (s.setUpCheck n) := h.modCheck (fun _ => Or.inr (Nat.zero_le _)) hs

theorem startCheck {n : Ix} {o : CheckOrigin} (hs : P s) : P (s.startCheck n o) := by
  unfold State.startCheck
  exact h.modCs (fun _ => Or.inl rfl) (h.modCheck (fun _ => Or.inl rfl) hs)

theorem chooseCheck (hs : P s) : P s.chooseCheck := by
  unfold State.chooseCheck
  split
  · exact hs
  · exact hs
  · split
    · exact h.startCheck (h.modCs (fun _ => Or.inl rfl) hs)
    · split
      · exact h.startCheck hs
      · exact hs

theorem freeInstrument (hs : P s) : P s.freeInstrument := h.modCs (fun _ => Or.inl rfl) hs
theorem dropRequest {n : Ix} (hs : P s) : P (s.dropRequest n) := h.modCs (fun _ => Or.inl rfl) hs
theorem requestFirst {n : Ix} (hs : P s) : P (s.requestFirst n) := h.modCs (fun _ => Or.inl rfl) hs

theorem fileRequest {n : Ix} (hs : P s) : P (s.fileRequest n) := by
  unfold State.fileRequest
  split
  · exact h.chooseCheck (h.modCs (fun _ => Or.inl rfl) hs)
  · exact hs
  · exact hs

theorem abortRecord {n : Ix} (hs : P s) : P (s.abortRecord n) := h.modCheck (fun _ => Or.inl rfl) hs

theorem abortDead {n : Ix} (hs : P s) : P (s.abortDead n) := by
  unfold State.abortDead
  split
  · split
    · exact h.chooseCheck (h.requestFirst (h.freeInstrument (h.abortRecord hs)))
    · exact hs
  · exact hs
  · exact hs

theorem dropCheck {n : Ix} (hs : P s) : P (s.dropCheck n) := by
  unfold State.dropCheck
  simp only
  split
  · exact h.chooseCheck (h.freeInstrument (h.dropRequest hs))
  · exact h.dropRequest hs

theorem clearCheck {n : Ix} (hs : P s) : P (s.clearCheck n) := by
  unfold State.clearCheck
  simp only
  split
  · exact h.chooseCheck (h.dropCheck (h.setUpCheck hs))
  · exact h.dropCheck (h.setUpCheck hs)

theorem resetScanner (hs : P s) : P s.resetScanner := by
  unfold State.resetScanner
  simp only
  have ht := h.modCs (f := fun u : CheckUnit => { u with queue := [] }) (fun _ => Or.inl rfl) hs
  split
  · exact h.chooseCheck (h.freeInstrument (h.abortRecord ht))
  · exact ht
  · exact ht

/-! ### Breaker and berth -/

theorem withdrawPermit {n : Ix} (hs : P s) : P (s.withdrawPermit n) := h.modBerth hs
theorem assertPermit {n : Ix} (hs : P s) : P (s.assertPermit n) := h.modBerth hs

theorem startPermitDeadTime {n : Ix} (hs : P s) : P (s.startPermitDeadTime n) := by
  unfold State.startPermitDeadTime
  split
  · exact h.modBerth hs
  · exact hs

theorem leaveOpen {n : Ix} {b : Breaker} (hs : P s) : P (s.leaveOpen n b) := h.followBusB (h.abortDead (h.modBerth hs))
theorem reachOpen {n : Ix} (hs : P s) : P (s.reachOpen n) := h.followBusB (h.startPermitDeadTime (h.modBerth hs))

theorem commandOpen {n : Ix} (hs : P s) : P (s.commandOpen n) := by
  unfold State.commandOpen
  split
  · exact hs
  · split
    · exact hs
    · exact h.leaveOpen (h.modBerth hs)
  · exact h.leaveOpen (h.modBerth hs)
  · exact h.leaveOpen (h.modBerth hs)

theorem openCommand {n : Ix} (hs : P s) : P (s.openCommand n) := h.withdrawPermit (h.commandOpen hs)
theorem settleSelector {n : Ix} {bus : Bus} (hs : P s) : P (s.settleSelector n bus) := h.followBusB (h.modBerth hs)
theorem selectorCommand {n : Ix} (hs : P s) : P (s.selectorCommand n) := h.modBerth hs

theorem closeCommand {n : Ix} {a : Approach} (hs : P s) : P (s.closeCommand n a) := by
  unfold State.closeCommand
  simp only
  split
  · exact h.leaveOpen (h.withdrawPermit (h.modBerth (h.leaveSyncing hs)))
  · exact h.leaveOpen (h.withdrawPermit (h.modBerth hs))

theorem rerate {n : Ix} (hs : P s) : P (s.rerate n) := h.modBerth hs
theorem departLive {n : Ix} (hs : P s) : P (s.departLive n) := h.clearOverdraw (h.endAdmission hs)

theorem tripTo {n : Ix} {c : TripCause} {v : Nat} {d : BerthState} {p : Option Purpose} (hs : P s) :
    P (s.tripTo n c v d p) := by
  unfold State.tripTo
  simp only
  have ht := h.modBerth (n := n) (f := fun b : Berth =>
    { b.stopTimers with tripCause := some c, state := d, purpose := p, approach := none, adoptOnClose := false }) hs
  split
  · exact h.postSource (h.notifyBoth (h.failConsenting (h.departLive (h.withdrawPermit (h.leaveSyncing ht)))))
  · exact h.postSource (h.notifyBoth (h.failConsenting (h.departLive (h.withdrawPermit (h.leaveSyncing (h.commandOpen ht))))))

theorem trip {n : Ix} {c : TripCause} (hs : P s) : P (s.trip n c) := by
  unfold State.trip
  split
  · exact hs
  · exact h.tripTo hs
  · exact h.tripTo hs

theorem openStuck {n : Ix} (hs : P s) : P (s.openStuck n) := by
  unfold State.openStuck
  simp only
  split
  · exact h.notifyBoth (h.modBerth (h.modBerth hs))
  · exact h.tripTo (h.modBerth hs)

theorem abandon {n : Ix} {d : BerthState} (hs : P s) : P (s.abandon n d) := h.endAdmission (h.leaveSyncing (h.modBerth hs))
theorem failWaiting {n : Ix} {c : Code} {d : BerthState} (hs : P s) : P (s.failWaiting n c d) :=
  h.abandon (h.failConsenting hs)
theorem headroomFailed {n : Ix} (hs : P s) : P (s.headroomFailed n) := h.abandon (h.endConsenting hs)

omit h in
theorem ite {c : Prop} [Decidable c] {a b : State} (ha : P a) (hb : P b) : P (if c then a else b) := by
  split
  · exact ha
  · exact hb

theorem enterAdmitting {n : Ix} {r : OrderRef} {m : Nat} (hs : P s) : P (s.enterAdmitting n r m) := by
  unfold State.enterAdmitting
  have h1 := h.joinQueue (n := n) (h.modBerth (n := n) (f := fun b : Berth =>
    { b with state := .admitting, consenting := some r, returnForced := false, openPower := 0, purpose := none,
             approach := none }) hs)
  have h2 := fun t (ht : P t) => ite (P := P) (c := t.isAdmitted n = true) ht
    (h.modBerth (n := n) (f := fun b : Berth => { b with admissionLimit := some (60 * m) }) ht)
  have h3 := fun t (ht : P t) => ite (P := P) (c := t.selectorDue n = true) (h.selectorCommand (n := n) ht) ht
  have h4 := fun t (ht : P t) => ite (P := P) (c := t.fresh n = true) ht (h.fileRequest (n := n) ht)
  have h5 := fun t (ht : P t) => ite (P := P) (c := t.isAdmitted n = true) ht
    (ite (P := P) (c := m = 0) (h.headroomFailed (n := n) ht) ht)
  exact h5 _ (h4 _ (h3 _ (h2 _ h1)))

theorem enterSyncing {n : Ix} (hs : P s) : P (s.enterSyncing n) := by
  unfold State.enterSyncing
  simp only
  split
  · exact h.requestClaim (h.modBerth hs)
  · exact h.setWindow (h.modBerth hs)

theorem enterDeadWait {n : Ix} (hs : P s) : P (s.enterDeadWait n) := h.modBerth hs

theorem leaveAdmitting {n : Ix} (hs : P s) : P (s.leaveAdmitting n) := by
  unfold State.leaveAdmitting
  split
  · split
    · exact h.enterSyncing hs
    · exact h.enterDeadWait hs
  · exact h.enterDeadWait hs

theorem syncToDead {n : Ix} (hs : P s) : P (s.syncToDead n) := h.enterDeadWait (h.leaveSyncing (h.modBerth hs))
theorem enterOnShore {n : Ix} (hs : P s) : P (s.enterOnShore n) := h.postSource (h.modBerth hs)
theorem enterAdopted {n : Ix} (hs : P s) : P (s.enterAdopted n) := h.adoptGrants (h.modBerth hs)

theorem closedReport {n : Ix} (hs : P s) : P (s.closedReport n) := by
  unfold State.closedReport
  simp only
  have ht := h.setConnected (n := n) (h.leaveOpen (n := n) (b := .closed) (h.modBerth (n := n) (f := fun b : Berth =>
    { b with motionLimit := none, approach := none }) hs))
  split
  · exact h.enterAdopted ht
  · split
    · exact h.modBerth ht
    · exact h.enterOnShore (h.endConsenting ht)
    · exact h.enterOnShore (h.endConsenting ht)

theorem genOpened {n : Ix} (hs : P s) : P (s.genOpened n) := h.enterOnShore (h.endConsenting (h.modBerth hs))

theorem openReport {n : Ix} (hs : P s) : P (s.openReport n) := by
  unfold State.openReport
  simp only
  have ht := h.reachOpen (n := n) (h.modBerth (n := n) (f := fun b : Berth => { b with motionLimit := none, stuck := false }) hs)
  split
  · exact h.postSource (h.endConsenting (h.modBerth ht))
  · exact h.modBerth ht
  · exact h.modBerth ht
  · exact ht

theorem enterReturnWait {n : Ix} {r : OrderRef} (hs : P s) : P (s.enterReturnWait n r) :=
  h.dropFlexible (h.assertPermit (h.modBerth hs))
theorem enterOpening {n : Ix} {p : Purpose} (hs : P s) : P (s.enterOpening n p) := h.departLive (h.openCommand (h.modBerth hs))
theorem enterReturnParallel {n : Ix} (hs : P s) : P (s.enterReturnParallel n) := h.modBerth hs
theorem backFromReturn {n : Ix} (hs : P s) : P (s.backFromReturn n) := h.withdrawPermit (h.modBerth hs)
theorem openFromReturn {n : Ix} {b : Bool} (hs : P s) : P (s.openFromReturn n b) :=
  h.departLive (h.commandOpen (h.modBerth hs))
theorem clearParts {n : Ix} (hs : P s) : P (s.clearParts n) := h.clearCharge (h.clearCheck (h.modBerth hs))
theorem resetSequence {n : Ix} (hs : P s) : P (s.resetSequence n) := h.modBerth hs
theorem enterVacant {n : Ix} (hs : P s) : P (s.enterVacant n) :=
  h.modGrantBerth (fun _ => Or.inl rfl) (h.clearParts (h.modBerth hs))

/-! ### Results, lapses, the round -/

theorem releasePart (hs : P s) : P s.releasePart :=
  keep_forEach (fun _ _ hs => h.notify hs) _ (h.modOe (OeLe.of_ports rfl) hs)

theorem closeRound (hs : P s) : P s.closeRound := by
  unfold State.closeRound
  simp only
  have ht := h.modCs (f := fun u : CheckUnit => { u with roundClosed := true }) (fun _ => Or.inl rfl) hs
  split
  · exact h.releasePart (h.endRunning ht)
  · exact ht

theorem leaveRound {n : Ix} (hs : P s) : P (s.leaveRound n) := by
  unfold State.leaveRound
  simp only
  have ht := h.modCs (f := fun u : CheckUnit => { u with roundList := u.roundList.filter fun x => decide (x ≠ n) })
    (fun _ => Or.inl rfl) hs
  split
  · exact h.closeRound ht
  · exact ht

theorem checkPassed {n : Ix} {r : Nat} (hs : P s) : P (s.checkPassed n r) :=
  h.postSource (h.modCheck (fun _ => Or.inr (Nat.zero_le _)) hs)

theorem checkFailed {n : Ix} {r : Nat} (hs : P s) : P (s.checkFailed n r) := by
  unfold State.checkFailed
  simp only
  have ht := h.notifyBoth (n := n) (c := .check) (code := 1) (v := r) (h.modCheck (n := n) (f := fun c : CheckRec =>
    { c with status := .failed, before := none, resistance := some r }) (fun _ => Or.inl rfl) hs)
  split
  · split
    · exact h.failWaiting ht
    · exact ht
  · exact h.trip ht

theorem faultScanner (hs : P s) : P s.faultScanner := h.modCs (fun _ => Or.inl rfl) hs

theorem freeCompleted (hs : P s) : P s.freeCompleted := by
  unfold State.freeCompleted
  split
  · exact h.faultScanner hs
  · exact h.freeInstrument hs

theorem completeCheck {r : Nat} (hs : P s) : P (s.completeCheck r) := by
  unfold State.completeCheck
  split
  · simp only
    split
    · exact h.chooseCheck (h.leaveRound (h.checkPassed (h.freeCompleted hs)))
    · exact h.chooseCheck (h.leaveRound (h.checkFailed (h.freeCompleted hs)))
  · exact hs
  · exact hs

theorem warnLapse {n : Ix} (hs : P s) : P (s.warnLapse n) := by
  unfold State.warnLapse
  split
  · exact h.notifyBoth (h.modCheck (fun _ => Or.inl rfl) hs)
  · exact hs

theorem lapse {n : Ix} (hs : P s) : P (s.lapse n) := by
  unfold State.lapse
  split
  · split
    · exact h.trip (h.warnLapse hs)
    · exact h.warnLapse hs
  · split
    · exact h.trip (h.warnLapse hs)
    · exact h.warnLapse hs
  · exact hs
  · exact hs

theorem ageReaches {n : Ix} {a : Nat} (hs : P s) : P (s.ageReaches n a) := by
  refine h.lapse (h.chooseCheck (h.modCheck (fun c => ?_) hs))
  rcases Nat.le_total (min a 65535) c.age with hle | hle
  · exact Or.inl (Nat.max_eq_left hle)
  · right
    simp only [Nat.max_eq_right hle]
    exact Nat.min_le_right _ _

theorem lapseTripDue {n : Ix} (hs : P s) : P (s.lapseTripDue n) := ite hs (h.ageReaches hs)

theorem instrumentFails (hs : P s) : P s.instrumentFails := by
  unfold State.instrumentFails
  simp only
  have ht := h.modInputs (f := fun i : Inputs => { i with instrumentFault := true }) hs
  split
  · split
    · exact ht
    · exact h.notify ht
  · exact h.notify (h.faultScanner ht)
  · split
    · exact h.notify (h.requestFirst (h.faultScanner (h.abortRecord ht)))
    · exact h.notify (h.faultScanner (h.abortRecord ht))

theorem instrumentClears (hs : P s) : P s.instrumentClears := by
  unfold State.instrumentClears
  simp only
  have ht := h.modInputs (f := fun i : Inputs => { i with instrumentFault := false }) hs
  split
  · exact h.chooseCheck (h.notify (h.modCs (fun _ => Or.inl rfl) ht))
  · exact ht
  · exact ht

/-! ### What the berths do next -/

theorem berthNext {n : Ix} {t : State} (hs : P s) (ht : s.berthNext n = some t) : P t := by
  unfold State.berthNext at ht
  split at ht
  · cases ht; exact h.trip hs
  split at ht
  · cases ht; exact h.selectorCommand hs
  split at ht
  · cases ht; exact h.setWindow hs
  split at ht
  · cases ht; exact h.setWindow hs
  split at ht
  · cases ht; exact h.leaveAdmitting hs
  split at ht
  · cases ht; exact h.closeCommand hs
  split at ht
  · cases ht; exact h.closeCommand hs
  split at ht
  · cases ht; exact h.openFromReturn hs
  split at ht
  · cases ht; exact h.enterOnShore hs
  · cases ht

theorem berthReact {t : State} (hs : P s) (ht : s.berthReact = some t) : P t := by
  obtain ⟨n, -, hn⟩ := List.exists_of_findSome?_eq_some ht
  exact h.berthNext hs hn

theorem followUpTo (k : Nat) : ∀ {s : State}, P s → P (State.followUpTo k s) := by
  induction k with
  | zero => exact fun hs => hs
  | succ k ih =>
    intro s hs
    unfold State.followUpTo
    split
    · rename_i t ht
      exact ih (h.berthReact hs ht)
    · exact hs

theorem follow (hs : P s) : P s.follow := h.followUpTo _ hs

end Stable

end Sys2Proof.Machine
end

