-- ==== Sys2Proof/Laws/StableSteps.lean ====
section
/-! SUPPORT. The rest of `Stable`: the Converter Pool, metering, the takes of orders, settling, frames, field events, power-on,
the tick, `exec` and `step`. -/

namespace Sys2Proof.Machine

/-- A property holds of the state that a take answers. -/
def Keeps (P : State → Prop) (x : Take) : Prop := P x.1

theorem Keeps.mk {P : State → Prop} {t : State} {st : Option Status} (ht : P t) : Keeps P (t, st) := ht

namespace Stable

variable {P : State → Prop} (h : Stable P) {s : State}
include h

/-! ### The Converter Pool -/

theorem notifyModule {m : Ix} {c : Nat} (hs : P s) : P (s.notifyModule m c) := h.notify hs

theorem startTest (hs : P s) : P s.startTest := by
  unfold State.startTest
  split
  · split
    · exact h.modCp (h.modConverter hs)
    · exact hs
  · exact hs

theorem trimAfterFall {k : Nat} (hs : P s) : P (s.trimAfterFall k) := ite (h.trimBoth hs) hs
theorem clearFault {m : Ix} (hs : P s) : P (s.clearFault m) := ite (h.startTest (h.notifyModule (h.modConverter hs))) hs
theorem enterFault {m : Ix} {c : FaultCause} {k : Nat} (hs : P s) : P (s.enterFault m c k) :=
  h.trimAfterFall (h.notifyModule (h.modConverter hs))
theorem faultModule {m : Ix} {c : FaultCause} {k : Nat} (hs : P s) : P (s.faultModule m c k) :=
  h.startTest (h.clearFault (h.enterFault hs))
theorem moduleFaultInput {m : Ix} (hs : P s) : P (s.moduleFaultInput m) :=
  ite (h.modModuleInputs hs) (h.faultModule (h.modModuleInputs hs))
theorem moduleReadyLost {m : Ix} (hs : P s) : P (s.moduleReadyLost m) :=
  ite (h.faultModule (h.modModuleInputs hs)) (h.clearFault (h.modModuleInputs hs))
theorem moduleFaultClears {m : Ix} (hs : P s) : P (s.moduleFaultClears m) := h.clearFault (h.modModuleInputs hs)
theorem moduleReadyInput {m : Ix} (hs : P s) : P (s.moduleReadyInput m) :=
  ite (h.startTest (h.modConverter (h.modModuleInputs hs))) (h.modModuleInputs hs)
theorem startFails {m : Ix} (hs : P s) : P (s.startFails m) :=
  ite (h.startTest (h.enterFault hs)) (h.faultModule hs)
theorem stopEnds {m : Ix} (hs : P s) : P (s.stopEnds m) := h.startTest (h.modConverter hs)

theorem tryStop (hs : P s) : P s.tryStop := by
  unfold State.tryStop
  split
  · split
    · exact h.trimAfterFall (h.modCp (h.modConverter hs))
    · exact hs
  · exact hs

theorem publish {d : Nat} (hs : P s) : P (s.publish d) := h.startTest (ite (h.tryStop (h.modCp hs)) (h.modCp hs))
theorem serveModule {m : Ix} {f : Converter → Converter} (hs : P s) : P (s.serveModule m f) :=
  h.startTest (h.trimAfterFall (h.modConverter hs))

theorem moduleIn {m : Ix} (hs : P s) : P (s.moduleIn m).1 := by
  unfold State.moduleIn
  simp only
  split
  · exact hs
  · simp only
    split <;> first | exact h.serveModule hs | exact h.modConverter hs | exact hs

theorem moduleOut {m : Ix} (hs : P s) : P (s.moduleOut m).1 := by
  unfold State.moduleOut
  simp only
  split
  · exact hs
  · simp only
    split
    · exact h.serveModule hs
    · exact h.serveModule hs
    · exact ite (h.serveModule hs) hs
    · exact h.modConverter hs
    · exact hs
    · exact hs

/-! ### Metering -/

theorem periodExpiry (hs : P s) : P s.periodExpiry := by
  unfold State.periodExpiry
  extract_lets t t1 claims t2
  have h0 : P t := by
    refine h.modGe ⟨Or.inr ?_, fun n => Or.inl ?_⟩ hs
    · simp only [nextPeriod]; split <;> omega
    · simp
  have h2 : P t2 := h.serveQueue (h.compute (h.switchSets h0))
  exact h.publish h2

theorem minuteTick (hs : P s) : P s.minuteTick := by
  unfold State.minuteTick
  refine keep_forEach ?_ _ (h.modGe (GeOk.refl _) hs)
  intro n t ht
  exact ite (h.warnShort (h.modGrantBerth (fun _ => Or.inl rfl) ht)) ht

theorem overGrantTest {n : Ix} {r : Nat} (hs : P s) : P (s.overGrantTest n r) :=
  ite hs (ite (ite (h.notify (h.notify (h.modGrantBerth (fun _ => Or.inl rfl) hs))) (h.modGrantBerth (fun _ => Or.inl rfl) hs))
    (h.modGrantBerth (fun _ => Or.inl rfl) hs))

theorem overRatingTest {n : Ix} {r : Nat} (hs : P s) : P (s.overRatingTest n r) :=
  ite (ite (h.trip hs) (h.modGrantBerth (fun _ => Or.inl rfl) hs)) (h.modGrantBerth (fun _ => Or.inl rfl) hs)

theorem liveReading {n : Ix} {r : Nat} (hs : P s) : P (s.liveReading n r) := by
  refine h.overRatingTest (h.overGrantTest (h.modGrantBerth (fun b => Or.inr ?_) hs))
  simp only [Charge.account]
  omega

theorem takeReading {n : Ix} {r : Option Int} (hs : P s) : P (s.takeReading n r) := by
  unfold State.takeReading
  simp only
  have ht := h.modGrantBerth (n := n) (f := fun g : GrantBerth => { g with due := false }) (fun _ => Or.inl rfl) hs
  split
  · split
    · exact ht
    · split
      · have hu := fun x : Option (Nat × Nat) => h.modGrantBerth (n := n) (f := fun g : GrantBerth =>
          { g.readSince with reading := x }) (fun _ => Or.inl (by simp only [GrantBerth.readSince]; split <;> rfl)) ht
        exact ite (h.liveReading (hu _)) (hu _)
      · exact ht
  · exact hs

/-! ### The takes of orders -/

theorem takeDeclare {n : Ix} {a b c : Byte} {d e f g : Word} (hs : P s) : Keeps P (s.takeDeclare n a b c d e f g) := by
  unfold State.takeDeclare Keeps
  simp only
  split
  · exact hs
  · exact h.warnShort (h.modGrantBerth (fun _ => Or.inr (Nat.zero_le _)) (h.modBerth hs))

theorem takeConnect {n : Ix} {r : OrderRef} {m : Word} (hs : P s) : Keeps P (s.takeConnect n r m) := by
  unfold State.takeConnect Keeps
  split
  · exact hs
  · exact h.enterAdmitting hs

theorem takeGenOpened {n : Ix} (hs : P s) : Keeps P (s.takeGenOpened n) := by
  unfold State.takeGenOpened Keeps
  split
  · exact h.genOpened hs
  all_goals first | exact hs | (split <;> exact hs)

theorem takeGenClosed {n : Ix} (hs : P s) : Keeps P (s.takeGenClosed n) := by
  unfold State.takeGenClosed Keeps
  split
  · exact h.enterReturnParallel hs
  · exact hs

theorem takeDisconnect {n : Ix} {r : OrderRef} {b : Byte} (hs : P s) : Keeps P (s.takeDisconnect n r b) := by
  unfold State.takeDisconnect
  split
  · split
    · exact .mk (h.enterReturnWait hs)
    · exact .mk (h.modBerth (h.enterOpening hs))
  · split
    · exact .mk (h.enterReturnWait hs)
    · exact .mk (h.modBerth (h.enterOpening hs))
  all_goals exact hs

theorem takeAuthorize {n : Ix} {b : Byte} {c : Word} (hs : P s) : Keeps P (s.takeAuthorize n b c) := by
  unfold State.takeAuthorize Keeps
  simp only
  split
  · exact hs
  · exact h.requeue (h.rerate (h.modBerth hs))

theorem withdrawAuthorization {n : Ix} (hs : P s) : P (s.withdrawAuthorization n) :=
  ite (h.failWaiting (h.notify (h.modBerth hs))) (h.notify (h.modBerth hs))

theorem forceOpen {n : Ix} (hs : P s) : P (s.forceOpen n) :=
  h.notify (h.enterOpening (h.modBerth (h.failConsenting hs)))

theorem takeWithdraw {n : Ix} {b : Byte} (hs : P s) : Keeps P (s.takeWithdraw n b) := by
  unfold State.takeWithdraw Keeps
  simp only
  split
  · exact h.forceOpen (h.withdrawAuthorization hs)
  · exact h.withdrawAuthorization hs

theorem takeSetReserve {w : Word} (hs : P s) : Keeps P (s.takeSetReserve w) :=
  .mk (h.modGe (f := fun g : GrantUnit => { g with reserve := clampTop s.feeder w.toNat }) (GeOk.refl _) hs)

theorem entryWritten {i : Nat} (hs : P s) : P (s.entryWritten i) := by
  unfold State.entryWritten
  split
  · exact h.reformCeiling hs
  · split
    · exact h.follow (keep_forEach (fun _ _ hs => h.lapse hs) _ (h.chooseCheck hs))
    · split
      · exact h.follow hs
      · split
        · exact hs
        · split
          · split
            · exact h.rerate hs
            · exact hs
          · exact hs

theorem storeEntry {i v : Nat} (hs : P s) : P (s.storeEntry i v) := h.entryWritten (h.table _ _ _ hs)

theorem writeRun (l : List Nat) : ∀ {i a b : Nat} {s : State}, P s → P (State.writeRun i l a b s).1 := by
  induction l with
  | nil => exact fun hs => hs
  | cons v l ih =>
    intro i a b s hs
    unfold State.writeRun
    split
    · exact hs
    · split
      · exact hs
      · exact ih (h.storeEntry hs)

theorem takeSetParameter {a b : Byte} {l : List Word} (hs : P s) : Keeps P (s.takeSetParameter a b l) := h.writeRun _ hs

theorem takeModuleService {m d : Byte} (hs : P s) : Keeps P (s.takeModuleService m d) := by
  unfold State.takeModuleService Keeps
  simp only
  split
  · exact h.moduleIn hs
  · exact h.moduleOut hs

theorem takeCheckBerth {n : Ix} (hs : P s) : Keeps P (s.takeCheckBerth n) := by
  unfold State.takeCheckBerth Keeps
  simp only
  split
  · exact hs
  · exact h.fileRequest hs

theorem takeAckTrip {n : Ix} (hs : P s) : Keeps P (s.takeAckTrip n) := by
  unfold State.takeAckTrip
  simp only
  split
  · exact hs
  · split
    · exact hs
    · split
      · exact .mk (h.modBerth hs)
      · exact .mk (h.enterVacant hs)

theorem takeLockoutOn {n : Ix} (hs : P s) : Keeps P (s.takeLockoutOn n) := by
  unfold State.takeLockoutOn
  split <;> first | exact .mk (h.modBerth hs) | exact .mk (h.failWaiting hs) | exact .mk hs

theorem takeLockoutOff {n : Ix} (hs : P s) : Keeps P (s.takeLockoutOff n) :=
  ite (ite (h.modBerth hs) (h.enterVacant hs)) hs

theorem takeRelease (hs : P s) : Keeps P s.takeRelease := by
  unfold State.takeRelease
  split
  · exact hs
  · split
    · exact .mk (h.releasePart hs)
    · exact .mk (h.modOrders (f := fun po : PortOrders => { po with timer := some Config.releaseLimit }) (QueueLe.refl _) hs)

theorem takeBerthReset {n : Ix} (hs : P s) : Keeps P (s.takeBerthReset n) := by
  unfold State.takeBerthReset Keeps
  simp only
  split
  · exact hs
  · exact h.resetFlags (h.clearParts (h.resetSequence (ite (h.failWaiting hs) hs)))

theorem panelBerth {n : Ix} (hs : P s) : P (s.panelBerth n) := by
  unfold State.panelBerth
  split <;> first | exact h.abandon hs | exact h.modBerth hs | exact h.enterOpening hs | exact h.enterAdopted hs | exact hs

theorem resetReference (hs : P s) : P s.resetReference := h.freeReference (h.modPru (Or.inl rfl) hs)
theorem passCompletion {p : Port} {c : Chain} (hs : P s) : P (s.passCompletion p c) := h.send hs

theorem endPort {c : Code} {p : Port} (hs : P s) : P (s.endPort c p) :=
  h.modOrders (QueueLe.nil _) (keep_forEach (fun _ _ hs => h.passCompletion hs) _ hs)

theorem panelBlocks (hs : P s) : P s.panelBlocks :=
  keep_forEach (fun _ _ hs => h.panelBerth hs) _ (h.resetScanner (h.resetReference (h.modCp (h.modGe (GeOk.refl _) hs))))

omit h in
theorem keep_foldl {α : Type} {f : State → α → State} (hf : ∀ a s, P s → P (f s a)) (l : List α) :
    ∀ {s : State}, P s → P (l.foldl f s) := by
  induction l with
  | nil => exact fun hs => hs
  | cons a l ih => exact fun hs => ih (hf a _ hs)

theorem takePanelReset {r : OrderRef} (hs : P s) : Keeps P (s.takePanelReset r) := by
  unfold State.takePanelReset
  extract_lets opens st t t1 t2 t3 t4
  have h0 : P t := h.link _ _ hs
  have h1 : P t1 := h.endOrder h0
  have h2 : P t2 := keep_foldl (fun _ _ hs => h.endPort hs) _ h1
  have h3 : P t3 := h.modOe (OeLe.of_ports rfl) h2
  have h4 : P t4 := keep_forEach (fun _ _ hs => h.modBerth hs) _ h3
  exact .mk (h.panelBlocks h4)

theorem takeRaiseFlag {n : Ix} {b : Byte} (hs : P s) : Keeps P (s.takeRaiseFlag n b) := h.flagEvent hs

theorem takeWaitFlag {n : Ix} {p : Port} {b : Byte} {w : Word} (hs : P s) : Keeps P (s.takeWaitFlag n p b w) := by
  unfold State.takeWaitFlag Keeps
  simp only
  split <;> exact h.setFlag hs

theorem takeDelay {p : Port} {w : Word} (hs : P s) : Keeps P (s.takeDelay p w) :=
  .mk (h.modOrders (f := fun po : PortOrders => { po with timer := some w.toNat }) (QueueLe.refl _) hs)

theorem handOrder {r : OrderRef} {x : OrderRec} (hs : P s) : Keeps P (s.handOrder r x) := by
  unfold State.handOrder
  simp only
  split
  · exact h.takeDeclare hs
  · exact h.takeConnect hs
  · exact h.takeGenOpened hs
  · exact h.takeGenClosed hs
  · exact h.takeDisconnect hs
  · exact h.takeAuthorize hs
  · exact h.takeWithdraw hs
  · exact h.takeSetReserve hs
  · exact h.takeSetParameter hs
  · exact h.takeModuleService hs
  · exact h.takeCheckBerth hs
  · exact h.takeAckTrip hs
  · split
    · exact h.takeLockoutOn hs
    · exact h.takeLockoutOff hs
  · exact h.takeRelease hs
  · exact h.takePanelReset hs
  · exact h.takeBerthReset hs
  · exact h.takeRaiseFlag hs
  · exact h.takeWaitFlag hs
  · exact hs
  · exact h.takeDelay hs
  · exact hs

theorem takeRunning {r : OrderRef} {x : OrderRec} (hs : P s) : Keeps P (s.takeRunning r x) := by
  unfold State.takeRunning
  split
  · exact hs
  · exact h.handOrder hs

theorem markRunning {r : OrderRef} (hs : P s) : P (s.markRunning r) :=
  h.modOrders (QueueLe.modChain (modSlot_length _ _) _) hs

theorem finishTake {r : OrderRef} : ∀ {x : Take}, Keeps P x → P (State.finishTake r x)
  | (_, some _), hx => h.endOrder hx
  | (_, none), hx => hx

theorem takeOrder {r : OrderRef} {x : OrderRec} (hs : P s) : P (s.takeOrder r x) :=
  h.finishTake (h.takeRunning (h.markRunning hs))

/-! ### Settling -/

theorem completeHead {p : Port} {c : Chain} (hs : P s) : P (s.completeHead p c) :=
  h.modOrders (QueueLe.tail _) (h.passCompletion hs)

theorem portNext {p : Port} {t : State} (hs : P s) (ht : s.portNext p = some t) : P t := by
  unfold State.portNext at ht
  split at ht
  · cases ht
  split at ht
  · cases ht; exact h.completeHead hs
  split at ht
  all_goals
    obtain ⟨x, -, rfl⟩ := Option.map_eq_some_iff.mp ht
    exact h.takeOrder hs

theorem react {t : State} (hs : P s) (ht : s.react = some t) : P t := by
  unfold State.react at ht
  split at ht
  · rename_i u hu
    cases ht
    exact h.berthReact hs hu
  · obtain ⟨p, -, hp⟩ := List.exists_of_findSome?_eq_some ht
    exact h.portNext hs hp

theorem settleUpTo (k : Nat) : ∀ {s : State}, P s → P (State.settleUpTo k s) := by
  induction k with
  | zero => exact fun hs => hs
  | succ k ih =>
    intro s hs
    unfold State.settleUpTo
    split
    · rename_i t ht
      exact ih (h.react hs ht)
    · exact hs

theorem settle (hs : P s) : P s.settle := h.settleUpTo _ hs

/-! ### Frames -/

theorem setReceive {p : Port} {r : Receive} (hs : P s) : P (s.setReceive p r) := h.modPort hs

theorem offerChain {p : Port} {l : List OrderRec} (hs : P s) : P (s.offerChain p l) := by
  unfold State.offerChain
  split
  · exact h.send hs
  · rename_i hq
    split
    · exact h.send hs
    · rename_i hf
      have ht := h.send (p := p) (f := .accept (s.orders p).rolling (s.queueChain p l).freeSlots)
        (h.queue s p l (Nat.lt_of_not_le hq) (Nat.le_of_not_lt hf) hs)
      unfold State.acceptChain
      simp only
      split
      · exact h.takeOrder ht
      · exact ht

theorem handleChain {p : Port} {l : List Byte} (hs : P s) : P (s.handleChain p l) := ite (h.send hs) (h.offerChain hs)

theorem backFrom {n : Ix} (hs : P s) : P (s.abortBerth n) := by
  unfold State.abortBerth
  simp only
  have ht := h.modBerth (n := n) (f := fun b : Berth => { b with consenting := none, returnForced := false }) hs
  split <;> first | exact h.abandon ht | exact h.backFromReturn ht | exact ht

theorem abortOrder {p : Port} {o : Order} (hs : P s) : P (s.abortOrder p o) := by
  unfold State.abortOrder
  split <;> first | exact h.backFrom hs | exact h.dropWaiter hs | exact hs

theorem cancelOrders {p : Port} (hs : P s) : P (s.cancelOrders p) := h.modOrders (QueueLe.head (cancelRest_length _) _) hs

theorem cancelHead {p : Port} (hs : P s) : P (s.cancelHead p) := by
  unfold State.cancelHead
  simp only
  split
  · exact h.abortOrder (h.cancelOrders hs)
  · exact h.cancelOrders hs

theorem cancelQueued {p : Port} {c : Chain} (hs : P s) : P (s.cancelQueued p c) :=
  h.modOrders (QueueLe.eraseP _ _) (h.passCompletion hs)

theorem handleCancel {p : Port} {l : List Byte} (hs : P s) : P (s.handleCancel p l) := by
  unfold State.handleCancel
  split
  · split
    · exact h.send hs
    · split
      · exact h.send hs
      · split
        · exact h.cancelHead hs
        · split
          · exact h.cancelQueued hs
          · exact h.send hs
  · exact h.send hs

theorem handleRead {p : Port} {l : List Byte} (hs : P s) : P (s.handleRead p l) := by
  unfold State.handleRead
  split <;> exact h.send hs

theorem noticeClear {p : Port} {b : Byte} (hs : P s) : P (s.noticeClear p b) := h.modPort hs
theorem noticeSet {p : Port} {b : Byte} (hs : P s) : P (s.noticeSet p b) := keep_forEach (fun _ _ hs => h.modPort hs) _ hs
theorem noticeMask {p : Port} {b : Byte} (hs : P s) : P (s.noticeMask p b) := h.modPort hs

theorem handleNotices {p : Port} {k : Byte} {act : Port → Byte → State → State} {l : List Byte}
    (ha : ∀ b s, P s → P (act p b s)) (hs : P s) : P (s.handleNotices p k act l) := by
  unfold State.handleNotices
  split
  · exact ha _ _ hs
  · exact h.send hs

theorem handling {p : Port} {act : State → State} (ha : ∀ s, P s → P (act s)) (hs : P s) : P (s.handling p act) :=
  ite (ite (h.setReceive hs) (ha _ (h.setReceive hs))) hs

theorem byKind {p : Port} {k : Byte} {l : List Byte} (hs : P s) : P (s.byKind p k l) := by
  unfold State.byKind
  split
  · exact h.handleChain hs
  · exact h.handleCancel hs
  · exact h.handleRead hs
  · exact h.handleNotices (fun _ _ hs => h.noticeClear hs) hs
  · exact h.handleNotices (fun _ _ hs => h.noticeSet hs) hs
  · exact h.handleNotices (fun _ _ hs => h.noticeMask hs) hs
  · exact h.send hs

theorem frameByte {p : Port} {b : Byte} (hs : P s) : P (s.frameByte p b) := by
  unfold State.frameByte
  split
  · split
    · exact h.setReceive hs
    · exact ite (h.handling (fun _ hs => h.byKind hs) hs) (h.setReceive hs)
  · exact hs

theorem dropFrame {p : Port} (hs : P s) : P (s.dropFrame p) := h.setReceive hs
theorem frameSent {p : Port} (hs : P s) : P (s.frameSent p) := h.modPort hs
theorem offerOrder {p : Port} {o : Order} {b : Bool} {n : Byte} (hs : P s) : P (s.offerOrder p o b n) :=
  h.handling (fun _ hs => h.offerChain hs) hs

/-! ### Field events -/

theorem openPort {n : Ix} (hs : P s) : P (s.openPort n) := h.modOrders (QueueLe.nil _) (h.modPort hs)
theorem closePort {n : Ix} (hs : P s) : P (s.closePort n) := h.dropWaiter (h.modOrders (QueueLe.nil _) (h.modPort hs))

theorem plugIn {n : Ix} {v : Nat} (hs : P s) : P (s.plugIn n v) := by
  unfold State.plugIn
  simp only
  refine ite (h.modOutlet hs) ?_
  have ht := h.modShip (n := n) (f := fun p : ShipPhase => { p with side := sideOf v }) (h.openPort (n := n)
    (h.modBerth (n := n) (f := fun b : Berth =>
      { b with plug := .present, state := if b.state = .vacant then .plugged else b.state })
      (h.modOutlet (n := n) (f := fun o : OutletInputs => { o with plug := .present, shipVoltage := v }) hs)))
  exact h.chooseCheck (h.setUpCheck (ite (h.startPermitDeadTime ht) ht))

theorem loseBerth {n : Ix} (hs : P s) : P (s.loseBerth n) := by
  unfold State.loseBerth
  split <;> with_reducible
    first | exact hs | exact h.trip hs | exact h.clearParts hs | exact h.enterVacant (h.failWaiting hs) | exact h.enterVacant hs

theorem plugOut {n : Ix} (hs : P s) : P (s.plugOut n) := by
  unfold State.plugOut
  extract_lets t t1 t2
  have h0 : P t := h.modOutlet hs
  have h1 : P t1 := h.closePort (h.modBerth (n := n) (f := fun b : Berth => { b with plug := .absent }) h0)
  have h2 : P t2 := h.loseBerth (h.modShip (n := n) (f := fun p : ShipPhase => { p with side := .between }) h1)
  exact ite h0 (h.leaveRound (h.clearCheck (h.withdrawPermit h2)))

theorem breakerPosition {n : Ix} {x : Position} (hs : P s) : P (s.breakerPosition n x) := by
  unfold State.breakerPosition
  simp only
  have ht := h.modOutlet (n := n) (f := fun o : OutletInputs => { o with breaker := x }) hs
  split <;> first | exact h.closedReport ht | exact h.openReport ht | exact h.trip (h.openCommand ht) | exact ht

theorem closeMotionExpires {n : Ix} (hs : P s) : P (s.closeMotionExpires n) := ite (h.trip (h.openCommand hs)) hs
theorem openMotionExpires {n : Ix} (hs : P s) : P (s.openMotionExpires n) := ite (h.openStuck hs) hs

theorem selectorPosition {n : Ix} {x : Bus} (hs : P s) : P (s.selectorPosition n x) :=
  ite (ite (h.settleSelector (h.modOutlet hs)) (h.modOutlet hs)) (ite (h.settleSelector (h.modOutlet hs)) (h.modOutlet hs))

theorem selectorExpires {n : Ix} (hs : P s) : P (s.selectorExpires n) :=
  ite (ite (h.failWaiting (h.settleSelector hs)) (h.settleSelector hs)) hs
theorem admissionExpires {n : Ix} (hs : P s) : P (s.admissionExpires n) := ite (h.headroomFailed hs) hs
theorem syncExpires {n : Ix} (hs : P s) : P (s.syncExpires n) := ite (h.failWaiting hs) hs
theorem openTransitionExpires {n : Ix} (hs : P s) : P (s.openTransitionExpires n) := ite (h.failWaiting hs) hs
theorem deadCountCompletes {n : Ix} (hs : P s) : P (s.deadCountCompletes n) := ite (h.modBerth hs) hs
theorem parallelExpires {n : Ix} (hs : P s) : P (s.parallelExpires n) := ite (h.tripTo hs) hs
theorem returnParallelExpires {n : Ix} (hs : P s) : P (s.returnParallelExpires n) := ite (h.openFromReturn hs) hs
theorem returnExpires {n : Ix} (hs : P s) : P (s.returnExpires n) := ite (h.backFromReturn (h.failConsenting hs)) hs
theorem shorePower {n : Ix} {k : Nat} (hs : P s) : P (s.shorePower n k) := h.modOutlet hs
theorem permitExpires {n : Ix} (hs : P s) : P (s.permitExpires n) := ite (h.assertPermit hs) hs

theorem sideReport {n : Ix} {x : ShipSide} (hs : P s) : P (s.sideReport n x) := by
  unfold State.sideReport
  have ht := h.modShip (n := n) (f := fun p : ShipPhase => { p with side := x }) hs
  refine (fun {t : State} (hu : P t) => ite (c := x = .live) (h.abortDead hu) hu) ?_
  split <;> first | exact h.syncToDead ht | exact ite (h.modBerth ht) ht | exact h.modBerth ht | exact ht

theorem shipVoltage {n : Ix} {v : Nat} (hs : P s) : P (s.shipVoltage n v) :=
  ite (h.sideReport (h.modOutlet hs)) (h.modOutlet hs)

theorem busAVoltage {v : Nat} (hs : P s) : P (s.busAVoltage v) :=
  ite (h.modPru (Or.inl rfl) (h.modInputs hs)) (h.modPru (Or.inl rfl) (h.modInputs hs))

theorem busAChanges (hs : P s) : P s.busAChanges := ite (h.modPru (Or.inl rfl) hs) hs
theorem measure {n : Ix} {m : Measurement} {f : Nat} (hs : P s) : P (s.measure n m f) :=
  h.shipVoltage (h.modShip (h.modOutlet (h.modInputs hs)))
theorem settleExpires {n : Ix} (hs : P s) : P (s.settleExpires n) := ite (h.setWindow hs) hs
theorem referenceArrives (hs : P s) : P s.referenceArrives := ite (h.freeReference hs) hs

theorem shedAsserts (hs : P s) : P s.shedAsserts := by
  unfold State.shedAsserts
  simp only
  split
  · exact h.modInputs hs
  · exact h.notifyCeiling (h.shedGrants (h.modGi (h.modInputs hs)))

theorem shedReleases (hs : P s) : P s.shedReleases := by
  unfold State.shedReleases
  simp only
  split
  · exact h.modInputs hs
  · exact h.notifyCeiling (h.modGi (h.modInputs hs))

theorem stalenessExpires (hs : P s) : P s.stalenessExpires := ite (h.becomeStale hs) hs
theorem startExpires {m : Ix} (hs : P s) : P (s.startExpires m) := ite (h.startFails hs) hs
theorem stopExpires {m : Ix} (hs : P s) : P (s.stopExpires m) := ite (h.stopEnds hs) hs

theorem moduleFaults {m : Ix} {x : ModuleSignal} (hs : P s) : P (s.moduleFaults m x) := by
  cases x
  · exact h.moduleFaultInput hs
  · exact h.moduleReadyLost hs

theorem moduleClears {m : Ix} {x : ModuleSignal} (hs : P s) : P (s.moduleClears m x) := by
  cases x
  · exact h.moduleFaultClears hs
  · exact h.moduleReadyLost hs

theorem waitExpires {p : Port} (hs : P s) : P (s.waitExpires p) := by
  unfold State.waitExpires
  split
  · exact ite (h.endOrder (h.dropWaiter hs)) hs
  · exact hs

theorem delayExpires {p : Port} (hs : P s) : P (s.delayExpires p) := by
  unfold State.delayExpires
  split
  · exact ite (h.endOrder hs) hs
  · exact hs

theorem releaseExpires (hs : P s) : P s.releaseExpires := by
  unfold State.releaseExpires
  split
  · exact ite (h.endOrder hs) hs
  · exact hs

/-! ### Power -/

theorem powerOnEvents (hs : P s) : P s.powerOnEvents := by
  unfold State.powerOnEvents
  simp only
  have h1 : P (s.forEach Ix.all fun n t =>
      match (s.berth n).tripCause with
      | some cause => (t.notifyBoth n .trip cause.index 0).postSource n .tripped
      | none => t) := by
    refine keep_forEach (fun n t ht => ?_) _ hs
    split
    · exact h.postSource (h.notifyBoth ht)
    · exact ht
  have h2 := keep_forEach (P := P) (f := fun n (u : State) => if u.busLost n then u.trip n .busLost else u)
    (fun n t ht => ite (h.trip ht) ht) Ix.all h1
  have h3 := ite (P := P) (c := s.inputs.instrumentFault = true) (h.notify (p := .t) (c := .check) (b := none) (code := 3)
    (v := 0) h2) h2
  split
  · exact h.notifyCeiling (h.shedGrants h3)
  · exact h3

theorem powerUp {i : Inputs} (hs : P s) : P (s.powerUp i) := h.chooseCheck (h.powerOnEvents (h.power _ _ hs))

theorem writeSome (l : List (Nat × Bool)) : ∀ {i : Nat} {s : State}, P s → P (State.writeSome i l s) := by
  induction l with
  | nil => exact fun hs => hs
  | cons x l ih =>
    intro i s hs
    obtain ⟨v, w⟩ := x
    unfold State.writeSome
    exact ite hs (ih (ite (h.table _ _ _ hs) hs))

theorem powerDown {r : Option (Nat × List (Nat × Bool))} (hs : P s) : P (s.powerDown r) := by
  unfold State.powerDown
  split
  · exact h.powered _ _ (h.writeSome _ hs)
  · exact h.powered _ _ hs

/-! ### The tick -/

theorem steer (hs : P s) : P s.steer := by
  have hband : ∀ step a b, (Config.refLow ≤ a ∧ a ≤ Config.refHigh) → (Config.refLow ≤ b ∧ b ≤ Config.refHigh) →
      (Config.refLow ≤ approachBy step a b ∧ approachBy step a b ≤ Config.refHigh) := by
    intro step a b ha hb
    unfold approachBy
    split <;> omega
  have hclamp : ∀ x, Config.refLow ≤ clamp Config.refLow Config.refHigh x ∧
      clamp Config.refLow Config.refHigh x ≤ Config.refHigh := by
    intro x
    show 59000 ≤ min 61000 (max 59000 x) ∧ min 61000 (max 59000 x) ≤ 61000
    omega
  unfold State.steer
  split
  · exact hs
  · exact h.modPru (Or.inr fun hu => hband _ _ _ hu ⟨show 59000 ≤ 60000 by decide, show 60000 ≤ 61000 by decide⟩) hs
  · split
    · exact h.modPru (Or.inr fun hu => hband _ _ _ hu (hclamp _)) hs
    · exact hs

theorem turnPhases (hs : P s) : P s.turnPhases := h.modPru (Or.inl rfl) hs

theorem pass (hs : P s) : P s.pass := by
  refine h.turnPhases (h.steer ?_)
  have h1 := h.now s (s.now + 1) hs
  have h2 := h.link _ (s.link.map fun lp => { lp with receive := .hunt }) h1
  have h3 := h.oe _ { s.oe with
    ports := s.oe.ports.map fun po => { po with timer := runDown 1 po.timer }
    flags := s.oe.flags.map (FlagPair.both SyncFlag.pass) } (by intro p; simpa using QueueLe.refl _) h2
  have h4 := h.berths _ (s.berths.map Berth.pass) h3
  have h5 := h.pru _ { s.pru with
    busATimer := runDown 1 s.pru.busATimer
    ships := s.pru.ships.map fun p => { p with settle := runDown 10 p.settle } } (by exact Or.inl rfl) h4
  have h6 := h.cs _ { s.cs with
    records := s.cs.records.map fun c => { c with age := countUp 65535 c.age }
    scanner := s.cs.scanner.pass } (by
      intro n
      right
      simp only [Six.get_map, countUp]
      split <;> omega) h5
  have h7 := h.cp _ { s.cp with modules := s.cp.modules.map Converter.pass } h6
  have h8 := h.gi _ { s.gi with assembly := .hunt, staleness := runDown 1 s.gi.staleness } h7
  have h9 := h.ge _ { s.ge with periodLeft := s.ge.periodLeft - 1, minuteLeft := s.ge.minuteLeft - 1 }
    (by exact ⟨Or.inl rfl, fun _ => Or.inl rfl⟩) h8
  exact h9

theorem fire {due : State → Bool} {act : State → State} (ha : ∀ s, P s → P (act s)) (hs : P s) : P (s.fire due act) :=
  ite (h.settle (ha _ hs)) hs

theorem fireBerth {n : Ix} (hs : P s) : P (s.fireBerth n) := by
  unfold State.fireBerth
  dsimp only
  refine h.fire ?_ <| h.fire ?_ <| h.fire ?_ <| h.fire ?_ <| h.fire ?_ <| h.fire ?_ <| h.fire ?_ <| h.fire ?_ <|
    h.fire ?_ <| h.fire ?_ <| h.fire ?_ hs
  · exact fun _ hs => h.lapse (h.chooseCheck hs)
  · exact fun _ hs => h.settleExpires hs
  · exact fun _ hs => h.permitExpires hs
  · exact fun _ hs => h.returnExpires hs
  · exact fun _ hs => h.returnParallelExpires (h.parallelExpires hs)
  · exact fun _ hs => h.openTransitionExpires hs
  · exact fun _ hs => h.deadCountCompletes hs
  · exact fun _ hs => h.syncExpires hs
  · exact fun _ hs => h.admissionExpires hs
  · exact fun _ hs => h.selectorExpires hs
  · exact fun _ hs => h.openMotionExpires (h.closeMotionExpires hs)

theorem fireModule {m : Ix} (hs : P s) : P (s.fireModule m) := by
  unfold State.fireModule
  refine h.fire ?_ (h.fire ?_ hs)
  · exact fun _ hs => h.stopExpires hs
  · exact fun _ hs => h.startExpires hs

theorem firePort {p : Port} (hs : P s) : P (s.firePort p) := by
  unfold State.firePort
  dsimp only
  refine h.fire ?_ (h.fire ?_ hs)
  · exact fun _ hs => ite (h.releaseExpires (h.delayExpires hs)) (h.delayExpires hs)
  · exact fun _ hs => h.waitExpires hs

theorem fireAll (hs : P s) : P s.fireAll := by
  unfold State.fireAll
  dsimp only
  refine h.fire ?_ <| h.fire ?_ <| keep_forEach ?_ Port.all <| keep_forEach ?_ Ix.all <| keep_forEach ?_ Ix.all <|
    h.fire ?_ <| h.fire ?_ <| h.fire ?_ hs
  · exact fun _ hs => h.periodExpiry hs
  · exact fun _ hs => h.minuteTick hs
  · exact fun _ _ hs => h.firePort hs
  · exact fun _ _ hs => h.fireModule hs
  · exact fun _ _ hs => h.fireBerth hs
  · exact fun _ hs => h.referenceArrives hs
  · exact fun _ hs => h.busAChanges hs
  · exact fun _ hs => h.stalenessExpires hs

theorem tick (hs : P s) : P s.tick := ite (h.fireAll (h.pass hs)) hs

end Stable

end Sys2Proof.Machine
end

