-- ==== Sys2Proof/Laws/Invariants.lean ====
section
/-! SUPPORT. `exec` and `step` keep what the primitive updates keep, and the invariants of Safety.lean are kept by the
primitive updates. -/

namespace Sys2Proof.Machine

/-! ### `exec` and `step` -/

theorem event_keeps {P : State → Prop} (h : Stable P) {f : State → State} (hf : ∀ s, P s → P (f s)) {s t : State} (hs : P s)
    (ht : event f s = .next t) : P t := by
  cases ht
  exact Stable.ite (h.settle (hf s hs)) hs

theorem quiet_keeps {P : State → Prop} {f : State → State} (hf : ∀ s, P s → P (f s)) {s t : State} (hs : P s)
    (ht : quiet f s = .next t) : P t := by
  cases ht
  exact Stable.ite (hf s hs) hs

theorem Stable.exec {P : State → Prop} (h : Stable P) (c : Instr) {s t : State} (hs : P s)
    (ht : exec c s = .next t) : P t := by
  cases c with
  | powerOn i => cases ht; exact h.settle (h.powerUp hs)
  | supplyFailure r => cases ht; exact Stable.ite (h.powerDown hs) hs
  | chain => exact event_keeps h (fun _ hs => h.handling (fun _ hs => h.handleChain hs) hs) hs ht
  | cancel => exact event_keeps h (fun _ hs => h.handling (fun _ hs => h.handleCancel hs) hs) hs ht
  | read => exact quiet_keeps (fun _ hs => h.handling (fun _ hs => h.handleRead hs) hs) hs ht
  | noticeClear =>
    exact quiet_keeps (fun _ hs => h.handling (fun _ hs => h.handleNotices (fun _ _ hs => h.noticeClear hs) hs) hs) hs ht
  | noticeSet =>
    exact quiet_keeps (fun _ hs => h.handling (fun _ hs => h.handleNotices (fun _ _ hs => h.noticeSet hs) hs) hs) hs ht
  | noticeMask =>
    exact quiet_keeps (fun _ hs => h.handling (fun _ hs => h.handleNotices (fun _ _ hs => h.noticeMask hs) hs) hs) hs ht
  | badKindFrame => exact quiet_keeps (fun _ hs => h.handling (fun _ hs => h.send hs) hs) hs ht
  | corruptFrame | frameReceiveError | frameGapTimeout => exact quiet_keeps (fun _ hs => h.dropFrame hs) hs ht
  | gridWord => exact quiet_keeps (fun _ hs => h.takeWord (h.dropWord hs)) hs ht
  | gridReceiveError | gridWordGapTimeout => exact quiet_keeps (fun _ hs => h.dropWord hs) hs ht
  | gridByteReceived => exact quiet_keeps (fun _ hs => h.gridByte hs) hs ht
  | stalenessExpiry => exact quiet_keeps (fun _ hs => h.stalenessExpires hs) hs ht
  | shedAsserted => exact quiet_keeps (fun _ hs => h.shedAsserts hs) hs ht
  | shedReleased => exact quiet_keeps (fun _ hs => h.shedReleases hs) hs ht
  | frameSent => exact quiet_keeps (fun _ hs => h.frameSent hs) hs ht
  | frameByteReceived => exact event_keeps h (fun _ hs => h.frameByte hs) hs ht
  | plugPresent => exact event_keeps h (fun _ hs => h.plugIn hs) hs ht
  | plugAbsent => exact event_keeps h (fun _ hs => h.plugOut hs) hs ht
  | breakerClosedReport | breakerOpenReport | breakerDisagreement =>
    exact event_keeps h (fun _ hs => h.breakerPosition hs) hs ht
  | closeMotionLimitExpiry => exact event_keeps h (fun _ hs => h.closeMotionExpires hs) hs ht
  | openMotionLimitExpiry => exact event_keeps h (fun _ hs => h.openMotionExpires hs) hs ht
  | selectorPositionReport => exact event_keeps h (fun _ hs => h.selectorPosition hs) hs ht
  | selectorLimitExpiry => exact event_keeps h (fun _ hs => h.selectorExpires hs) hs ht
  | admissionLimitExpiry => exact event_keeps h (fun _ hs => h.admissionExpires hs) hs ht
  | syncLimitExpiry => exact event_keeps h (fun _ hs => h.syncExpires hs) hs ht
  | openTransitionLimitExpiry => exact event_keeps h (fun _ hs => h.openTransitionExpires hs) hs ht
  | deadCountCompletion => exact event_keeps h (fun _ hs => h.deadCountCompletes hs) hs ht
  | parallelLimitExpiry => exact event_keeps h (fun _ hs => h.parallelExpires hs) hs ht
  | returnParallelLimitExpiry => exact event_keeps h (fun _ hs => h.returnParallelExpires hs) hs ht
  | returnLimitExpiry => exact event_keeps h (fun _ hs => h.returnExpires hs) hs ht
  | shorePowerLow => exact event_keeps h (fun _ hs => h.shorePower hs) hs ht
  | permitDeadTimeExpiry => exact event_keeps h (fun _ hs => h.permitExpires hs) hs ht
  | shipSideReport => exact event_keeps h (fun _ hs => h.shipVoltage hs) hs ht
  | busAVoltageCrossing => exact event_keeps h (fun _ hs => h.busAVoltage hs) hs ht
  | busAAvailabilityChange => exact event_keeps h (fun _ hs => h.busAChanges hs) hs ht
  | windowMetChange => exact event_keeps h (fun _ hs => h.measure hs) hs ht
  | settleTimerExpiry => exact event_keeps h (fun _ hs => h.settleExpires hs) hs ht
  | referenceReaches60 => exact event_keeps h (fun _ hs => h.referenceArrives hs) hs ht
  | checkTimerExpiry => exact event_keeps h (fun _ hs => h.completeCheck hs) hs ht
  | instrumentFaultAsserted => exact event_keeps h (fun _ hs => h.instrumentFails hs) hs ht
  | instrumentFaultCleared => exact event_keeps h (fun _ hs => h.instrumentClears hs) hs ht
  | freshnessLapse | roundRobinEligible | lapseWarning => exact event_keeps h (fun _ hs => h.ageReaches hs) hs ht
  | checkLapsedTrip => exact event_keeps h (fun _ hs => h.lapseTripDue hs) hs ht
  | moduleReady => exact event_keeps h (fun _ hs => h.moduleReadyInput hs) hs ht
  | startLimitExpiry => exact event_keeps h (fun _ hs => h.startExpires hs) hs ht
  | stopTimerExpiry => exact event_keeps h (fun _ hs => h.stopExpires hs) hs ht
  | moduleFault => exact event_keeps h (fun _ hs => h.moduleFaults hs) hs ht
  | moduleFaultCleared => exact event_keeps h (fun _ hs => h.moduleClears hs) hs ht
  | periodExpiry => exact event_keeps h (fun _ hs => h.periodExpiry hs) hs ht
  | minuteTick => exact event_keeps h (fun _ hs => h.minuteTick hs) hs ht
  | meterReading => exact event_keeps h (fun _ hs => h.takeReading hs) hs ht
  | waitLimitExpiry => exact event_keeps h (fun _ hs => h.waitExpires hs) hs ht
  | delayExpiry => exact event_keeps h (fun _ hs => h.delayExpires hs) hs ht
  | releaseLimitExpiry => exact event_keeps h (fun _ hs => h.releaseExpires hs) hs ht
  | _ => exact event_keeps h (fun _ hs => h.offerOrder hs) hs ht

theorem Stable.step {P : State → Prop} (h : Stable P) {s t : State} (hs : P s) (ht : step s = .next t) : P t := by
  unfold Machine.step at ht
  split at ht
  · cases ht; exact h.tick hs
  · exact h.exec _ (h.pending _ _ hs) ht

/-! ### The parameter table -/

theorem entryClamp_ok (i v : Nat) : entryOk i (entryClamp i v) = true := by
  have hr : (entryRange i).1 ≤ (entryRange i).2 := by
    unfold entryRange
    split <;> try decide
    split
    · decide
    · split <;> decide
  have h1 : (entryRange i).1 ≤ entryClamp i v := le_min hr (le_max_left _ _)
  have h2 : entryClamp i v ≤ (entryRange i).2 := min_le_left _ _
  simp [entryOk, h1, h2]

theorem TableOk.set {l : List Nat} (hl : TableOk l) (i v : Nat) : TableOk (l.set i (entryClamp i v)) := by
  refine ⟨by simpa using hl.1, fun j hj => ?_⟩
  by_cases hij : i = j
  · subst hij
    have : (l.set i (entryClamp i v)).getD i 0 = entryClamp i v := by
      rw [List.getD_eq_getElem?_getD, List.getElem?_set_self (by rw [hl.1]; exact hj)]
      rfl
    rw [this]
    exact entryClamp_ok i v
  · have : (l.set i (entryClamp i v)).getD j 0 = l.getD j 0 := by
      rw [List.getD_eq_getElem?_getD, List.getElem?_set_ne hij, ← List.getD_eq_getElem?_getD]
    rw [this]
    exact hl.2 j hj

theorem defaultTable_ok : TableOk State.defaultTable := by decide

theorem checkedTable_ok (l : List Nat) : TableOk (checkedTable l) := by
  refine ⟨by simp [checkedTable], fun i hi => ?_⟩
  have : (checkedTable l).getD i 0 = if entryOk i (l.getD i 0) then l.getD i 0 else entryDefault i := by
    rw [List.getD_eq_getElem?_getD]
    simp [checkedTable, hi]
  rw [this]
  split
  · assumption
  · exact defaultTable_ok.2 i hi

theorem stable_tableInv : Stable TableInv where
  berths _ _ hs := hs
  link _ _ hs := hs
  inputs _ _ hs := hs
  cp _ _ hs := hs
  gi _ _ hs := hs
  now _ _ hs := hs
  powered _ _ hs := hs
  pending _ _ hs := hs
  table _ i v hs := TableOk.set hs i v
  pru _ _ _ hs := hs
  cs _ _ _ hs := hs
  ge _ _ _ hs := hs
  oe _ _ _ hs := hs
  queue _ _ _ _ _ hs := hs
  power s _ _ := checkedTable_ok s.table

/-! ### The Order Store -/

theorem portSlots_eq (s : State) (p : Port) : s.portSlots p = slotsOf (s.orders p).queue := rfl

theorem slotsInUse_eq (s : State) : s.slotsInUse =
    s.portSlots (.v .i0) + s.portSlots (.v .i1) + s.portSlots (.v .i2) + s.portSlots (.v .i3) + s.portSlots (.v .i4) +
      s.portSlots (.v .i5) + s.portSlots .t := by
  simp [State.slotsInUse, Port.all, Nat.add_assoc]

/-- The slots in use and the chains of a part, one port changed at most. -/
theorem slotsInUse_one {s t : State} {p : Port} (h : ∀ q, q ≠ p → t.portSlots q = s.portSlots q) :
    t.slotsInUse + s.portSlots p = s.slotsInUse + t.portSlots p := by
  rw [slotsInUse_eq, slotsInUse_eq]
  cases p with
  | t =>
    have h0 := h (.v .i0) (by decide); have h1 := h (.v .i1) (by decide); have h2 := h (.v .i2) (by decide)
    have h3 := h (.v .i3) (by decide); have h4 := h (.v .i4) (by decide); have h5 := h (.v .i5) (by decide)
    omega
  | v n =>
    have ht := h .t (by simp)
    have hv : ∀ m, m ≠ n → t.portSlots (.v m) = s.portSlots (.v m) := fun m hm => h _ (by simpa using hm)
    cases n <;>
      first
      | (have h1 := hv .i1 (by decide); have h2 := hv .i2 (by decide); have h3 := hv .i3 (by decide)
         have h4 := hv .i4 (by decide); have h5 := hv .i5 (by decide); omega)
      | (have h0 := hv .i0 (by decide); have h2 := hv .i2 (by decide); have h3 := hv .i3 (by decide)
         have h4 := hv .i4 (by decide); have h5 := hv .i5 (by decide); omega)
      | (have h0 := hv .i0 (by decide); have h1 := hv .i1 (by decide); have h3 := hv .i3 (by decide)
         have h4 := hv .i4 (by decide); have h5 := hv .i5 (by decide); omega)
      | (have h0 := hv .i0 (by decide); have h1 := hv .i1 (by decide); have h2 := hv .i2 (by decide)
         have h4 := hv .i4 (by decide); have h5 := hv .i5 (by decide); omega)
      | (have h0 := hv .i0 (by decide); have h1 := hv .i1 (by decide); have h2 := hv .i2 (by decide)
         have h3 := hv .i3 (by decide); have h5 := hv .i5 (by decide); omega)
      | (have h0 := hv .i0 (by decide); have h1 := hv .i1 (by decide); have h2 := hv .i2 (by decide)
         have h3 := hv .i3 (by decide); have h4 := hv .i4 (by decide); omega)

theorem storeInv_of_le {s t : State} (h : OeLe t.oe s.oe) (hs : StoreInv s) : StoreInv t := by
  refine ⟨?_, fun p => le_trans (h p).1 (hs.2 p)⟩
  refine le_trans ?_ hs.1
  have hp : ∀ p, t.portSlots p ≤ s.portSlots p := fun p => (h p).2
  rw [slotsInUse_eq, slotsInUse_eq]
  have h0 := hp (.v .i0); have h1 := hp (.v .i1); have h2 := hp (.v .i2)
  have h3 := hp (.v .i3); have h4 := hp (.v .i4); have h5 := hp (.v .i5); have h6 := hp .t
  omega

theorem slotsOf_append (a b : List Chain) : slotsOf (a ++ b) = slotsOf a + slotsOf b := by simp [slotsOf]

theorem queueChain_queue (s : State) (p q : Port) (recs : List OrderRec) :
    ((s.queueChain p recs).orders q).queue =
      if q = p then (s.orders p).queue ++
        [{ serial := (s.orders p).accepted, count := (s.orders p).rolling
           orders := recs.map fun x => { record := x, status := .notTaken } }]
      else (s.orders q).queue := by
  by_cases h : q = p
  · subst h
    simp [State.queueChain, State.modOrders, State.modOe, State.orders]
  · simp [State.queueChain, State.modOrders, State.modOe, State.orders, h]

theorem storeInv_queueChain {s : State} {p : Port} {recs : List OrderRec}
    (hq : (s.orders p).queue.length < Config.portChains) (hr : recs.length ≤ s.freeSlots) (hs : StoreInv s) :
    StoreInv (s.queueChain p recs) := by
  refine ⟨?_, fun q => ?_⟩
  · have h1 := slotsInUse_one (s := s) (t := s.queueChain p recs) (p := p) (fun q hq => by
      simp [portSlots_eq, queueChain_queue, hq])
    have h2 : (s.queueChain p recs).portSlots p = s.portSlots p + recs.length := by
      simp only [portSlots_eq, queueChain_queue, if_true, slotsOf_append]
      simp [slotsOf]
    have h3 := hs.1
    unfold State.freeSlots at hr
    omega
  · rw [queueChain_queue]
    split
    · simp only [List.length_append, List.length_singleton]; omega
    · exact hs.2 q

theorem freshOrders_get (p : Port) :
    (PortMap.get { t := State.freshOrders, v := State.six State.freshOrders } p) = State.freshOrders := by
  cases p with
  | t => rfl
  | v n => cases n <;> rfl

theorem stable_storeInv : Stable StoreInv where
  berths _ _ hs := hs
  link _ _ hs := hs
  inputs _ _ hs := hs
  cp _ _ hs := hs
  gi _ _ hs := hs
  now _ _ hs := hs
  powered _ _ hs := hs
  pending _ _ hs := hs
  table _ _ _ hs := hs
  pru _ _ _ hs := hs
  cs _ _ _ hs := hs
  ge _ _ _ hs := hs
  oe _ _ hx hs := storeInv_of_le hx hs
  queue _ _ _ hq hr hs := storeInv_queueChain hq hr hs
  power s i _ := by
    have h0 : ∀ p, (s.powerOnBlocks (checkedTable s.table) i).orders p = State.freshOrders := freshOrders_get
    refine ⟨?_, fun p => ?_⟩
    · simp [slotsInUse_eq, portSlots_eq, h0, slotsOf]
    · rw [h0]
      decide

/-! ### The ranges of the counts -/

theorem stable_rangeInv : Stable RangeInv where
  berths _ _ hs := hs
  link _ _ hs := hs
  inputs _ _ hs := hs
  cp _ _ hs := hs
  gi _ _ hs := hs
  now _ _ hs := hs
  powered _ _ hs := hs
  pending _ _ hs := hs
  table _ _ _ hs := hs
  oe _ _ _ hs := hs
  queue _ _ _ _ _ hs := hs
  pru s x hx hs := by
    refine ⟨hs.1, ?_, hs.2.2⟩
    rcases hx with hx | hx
    · show Config.refLow ≤ x.frequency ∧ x.frequency ≤ Config.refHigh
      rw [hx]; exact hs.2.1
    · exact hx hs.2.1
  cs s x hx hs := by
    refine ⟨hs.1, hs.2.1, fun n => ?_, hs.2.2.2⟩
    rcases hx n with hn | hn
    · show (x.records.get n).age ≤ 65535
      rw [hn]; exact hs.2.2.1 n
    · exact hn
  ge s x hx hs := by
    refine ⟨?_, hs.2.1, hs.2.2.1, fun n => ?_⟩
    · rcases hx.1 with hp | hp
      · show x.period ≤ 65535
        rw [hp]; exact hs.1
      · exact hp
    · rcases hx.2 n with hn | hn
      · show (x.berths.get n).charge.acc ≤ 3599
        rw [hn]; exact hs.2.2.2 n
      · exact hn
  power s i _ := by
    refine ⟨Nat.zero_le _, ⟨show 59000 ≤ 60000 by decide, show 60000 ≤ 61000 by decide⟩, fun n => ?_, fun n => ?_⟩
    · cases n <;> exact Nat.zero_le _
    · cases n <;> exact Nat.zero_le _

/-! ### Settling -/

/-- Nothing follows: the state settles to itself. -/
theorem settle_quiet {s : State} (h : s.react = none) : s.settle = s := by
  unfold State.settle
  show State.settleUpTo (4095 + 1) s = s
  unfold State.settleUpTo
  rw [h]

/-- One follower, and then nothing: the state settles to it. -/
theorem settle_one {s t : State} (h : s.react = some t) (ht : t.react = none) : s.settle = t := by
  unfold State.settle
  show State.settleUpTo (4094 + 1 + 1) s = t
  unfold State.settleUpTo
  rw [h]
  unfold State.settleUpTo
  simp [ht]

end Sys2Proof.Machine
end

