-- ==== Sys2Proof/Laws/Orders.lean ====
section
/-! SUPPORT. What an order row does at a port that is ready: the order is accepted, answered, taken at once, and either ends or
runs on; and the frame of every order row. -/

namespace Sys2Proof.Machine

/-! ### One port of seven, one berth of six -/

theorem PortMap.get_set {α : Type} (m : PortMap α) (p q : Port) (a : α) : (m.set p a).get q = if q = p then a else m.get q := by
  by_cases h : q = p
  · subst h; simp
  · simp [h]

@[simp] theorem PortMap.set_set {α : Type} (m : PortMap α) (p : Port) (a b : α) : (m.set p a).set p b = m.set p b := by
  cases p with
  | t => rfl
  | v n => cases n <;> rfl

@[simp] theorem Six.set_set {α : Type} (v : Six α) (n : Ix) (a b : α) : (v.set n a).set n b = v.set n b := by cases n <;> rfl

@[simp] theorem Six.set_get {α : Type} (v : Six α) (n : Ix) : v.set n (v.get n) = v := by cases n <;> rfl

@[simp] theorem PortMap.set_get {α : Type} (m : PortMap α) (p : Port) : m.set p (m.get p) = m := by
  cases p with
  | t => rfl
  | v n => cases n <;> rfl

/-! ### The state in which an order row's order is taken -/

/-- The record of a port with one chain of one running order. -/
def runningOrders (po : PortOrders) (o : OrderRec) (now : Nat) : PortOrders :=
  { po with queue := [{ serial := po.accepted, count := po.rolling, orders := [{ record := o, status := .running now }] }],
            rolling := if 255 ≤ po.rolling then 0 else po.rolling + 1, accepted := po.accepted + 1 }

/-- The record of a port that has taken a frame in and answered it. -/
def answered (lp : LinkPort) (f : TxFrame) : LinkPort := { lp with receive := .hunt, transmit := lp.transmit ++ [f] }

/-- The state in which the order of a ready port runs: accepted, answered, RUNNING. -/
def State.withRunning (p : Port) (o : OrderRec) (s : State) : State :=
  { s with
    link := s.link.set p (answered (s.link.get p) (.accept (s.orders p).rolling (s.freeSlots - 1)))
    oe := { s.oe with ports := s.oe.ports.set p (runningOrders (s.oe.ports.get p) o s.now) } }

variable {s : State} {p : Port} {o : OrderRec}

@[simp] theorem powered_withRunning : (s.withRunning p o).powered = s.powered := rfl
@[simp] theorem now_withRunning : (s.withRunning p o).now = s.now := rfl
@[simp] theorem table_withRunning : (s.withRunning p o).table = s.table := rfl
@[simp] theorem inputs_withRunning : (s.withRunning p o).inputs = s.inputs := rfl
@[simp] theorem berths_withRunning : (s.withRunning p o).berths = s.berths := rfl
@[simp] theorem pru_withRunning : (s.withRunning p o).pru = s.pru := rfl
@[simp] theorem cs_withRunning : (s.withRunning p o).cs = s.cs := rfl
@[simp] theorem cp_withRunning : (s.withRunning p o).cp = s.cp := rfl
@[simp] theorem gi_withRunning : (s.withRunning p o).gi = s.gi := rfl
@[simp] theorem ge_withRunning : (s.withRunning p o).ge = s.ge := rfl
@[simp] theorem pending_withRunning : (s.withRunning p o).pending = s.pending := rfl
@[simp] theorem flags_withRunning : (s.withRunning p o).oe.flags = s.oe.flags := rfl
@[simp] theorem held_withRunning : (s.withRunning p o).oe.held = s.oe.held := rfl

@[simp] theorem ports_withRunning :
    (s.withRunning p o).oe.ports = s.oe.ports.set p (runningOrders (s.oe.ports.get p) o s.now) := rfl
@[simp] theorem link_withRunning :
    (s.withRunning p o).link = s.link.set p (answered (s.link.get p) (.accept (s.orders p).rolling (s.freeSlots - 1))) := rfl

theorem slotsInUse_queueChain (s : State) (p : Port) (recs : List OrderRec) :
    (s.queueChain p recs).slotsInUse = s.slotsInUse + recs.length := by
  have h1 := slotsInUse_one (s := s) (t := s.queueChain p recs) (p := p) (fun q hq => by
    simp [portSlots_eq, queueChain_queue, hq])
  have h2 : (s.queueChain p recs).portSlots p = s.portSlots p + recs.length := by
    simp only [portSlots_eq, queueChain_queue, if_true, slotsOf_append]
    simp [slotsOf]
  omega

/-- An order offered at a ready port is accepted, answered and taken at once (R138, R139, R140). -/
theorem offerOrder_ready {order : Order} {stop : Bool} {berth : Byte} (h : PortReady s p) :
    s.offerOrder p order stop berth =
      State.finishTake (s.nextRef p)
        ((s.withRunning p ⟨order, stop, berth⟩).takeRunning (s.nextRef p) ⟨order, stop, berth⟩) := by
  have hopen : (s.link.get p).isOpen = true := h.isOpen
  have hroom : ¬ Config.backlog ≤ s.answersWaiting p := Nat.not_le_of_lt h.room
  have hroom' : ¬ Config.backlog ≤ List.countP TxFrame.isAnswer (s.link.get p).transmit := hroom
  have hq : (s.oe.ports.get p).queue = [] := h.idle
  have hfree : (s.setReceive p .hunt).freeSlots = s.freeSlots := rfl
  have hcount : ((s.setReceive p .hunt).queueChain p [⟨order, stop, berth⟩]).freeSlots = s.freeSlots - 1 := by
    unfold State.freeSlots
    rw [slotsInUse_queueChain]
    show Config.slots - (s.slotsInUse + 1) = Config.slots - s.slotsInUse - 1
    omega
  have hslot : ¬ s.freeSlots < 1 := Nat.not_lt_of_le h.slot
  unfold State.offerOrder State.handling
  simp only [State.port, hopen, if_true]
  rw [if_neg hroom]
  unfold State.offerChain
  have e1 : ((s.setReceive p .hunt).orders p).queue = [] := hq
  rw [e1, hfree]
  simp only [List.length_nil, List.length_singleton, if_neg hslot]
  rw [if_neg (by decide)]
  unfold State.acceptChain
  simp only [e1, hcount]
  unfold State.takeOrder
  have e2 : (State.markRunning { port := p, serial := ((s.setReceive p .hunt).orders p).accepted, pos := 1 }
      (((s.setReceive p .hunt).queueChain p [⟨order, stop, berth⟩]).send p
        (.accept ((s.setReceive p .hunt).orders p).rolling (s.freeSlots - 1)))) =
      s.withRunning p ⟨order, stop, berth⟩ := by
    simp [State.markRunning, State.queueChain, State.send, State.setReceive, State.modPort, State.modOrders, State.modOe,
      State.orders, State.withRunning, hq, hopen, modChain, Chain.modSlot, Chain.slot?, runningOrders, answered]
  rw [e2]
  rfl

/-- Every order row is the offer of its order. -/
theorem exec_orderRow {c : Instr} (hc : orderRow c = some (p, o)) :
    exec c s = event (State.offerOrder p o.order o.stop o.berth) s := by
  cases c <;> simp only [orderRow] at hc <;> first | (cases hc; rfl) | cases hc

/-- An order row at a ready port. -/
theorem exec_ready {c : Instr} (hc : orderRow c = some (p, o)) (h : PortReady s p) :
    exec c s = .next (State.finishTake (s.nextRef p) ((s.withRunning p o).takeRunning (s.nextRef p) o)).settle := by
  rw [exec_orderRow hc]
  simp only [event, h.powered, if_true, offerOrder_ready h]

/-! ### How the order comes out -/

theorem runs_of_orders {t : State} (h : (t.orders p).queue = (runningOrders (s.orders p) o s.now).queue) : Runs s p o t := by
  unfold Runs State.slot? State.chain?
  simp only [State.nextRef]
  rw [h]
  simp [runningOrders, Chain.slot?]

/-- A take that leaves the port's chain alone and ends the order at once leaves the slot ENDED. -/
theorem ended_of_take {t : State} {st : Status} (h : (t.orders p).queue = (runningOrders (s.orders p) o s.now).queue) :
    Ended s p o st (t.endOrder (s.nextRef p) st) := by
  have h' : (t.oe.ports.get p).queue = (runningOrders (s.orders p) o s.now).queue := h
  unfold Ended State.slot? State.chain? State.endOrder State.modOrders State.modOe State.orders
  simp only [State.nextRef, PortMap.get_set_same]
  rw [h']
  simp only [runningOrders, modChain, List.map_cons, List.map_nil, if_true, List.find?_cons, List.find?_nil]
  have e : (Chain.endOrder 1 st ⟨(s.orders p).accepted, (s.orders p).rolling, [⟨o, .running s.now⟩]⟩) =
      ⟨(s.orders p).accepted, (s.orders p).rolling, [⟨o, .ended st⟩]⟩ := by
    cases h2 : o.stop <;> cases h3 : st.verdict.stops <;>
      simp [Chain.endOrder, Chain.slot?, Slot.isEnded, Chain.modSlot, Slot.close, Chain.stopOnError, h2, h3]
  rw [e]
  simp [Chain.slot?]

/-- An order row at a ready port, past the common checks. -/
theorem exec_takes {c : Instr} (hc : orderRow c = some (p, o)) (h : PortReady s p) (hk : o.commonCheck p = none) :
    exec c s = .next (State.finishTake (s.nextRef p) ((s.withRunning p o).handOrder (s.nextRef p) o)).settle := by
  rw [exec_ready hc h]
  simp only [State.takeRunning, State.nextRef, hk]

/-- An order row whose order ends at its take. -/
theorem order_ends {c : Instr} {u : State} {st : Status} (hc : orderRow c = some (p, o)) (h : PortReady s p)
    (hk : o.commonCheck p = none) (hu : (s.withRunning p o).handOrder (s.nextRef p) o = (u, some st))
    (hq : (u.orders p).queue = (runningOrders (s.orders p) o s.now).queue) :
    exec c s = .next (u.endOrder (s.nextRef p) st).settle ∧ OrderEnds c s st (u.endOrder (s.nextRef p) st) := by
  refine ⟨?_, p, o, hc, ended_of_take hq⟩
  rw [exec_takes hc h hk, hu]
  rfl

/-- An order row whose order runs on after its take. -/
theorem order_runs {c : Instr} {u : State} (hc : orderRow c = some (p, o)) (h : PortReady s p)
    (hk : o.commonCheck p = none) (hu : (s.withRunning p o).handOrder (s.nextRef p) o = (u, none))
    (hq : (u.orders p).queue = (runningOrders (s.orders p) o s.now).queue) :
    exec c s = .next u.settle ∧ OrderRuns c s u := by
  refine ⟨?_, p, o, hc, runs_of_orders hq⟩
  rw [exec_takes hc h hk, hu]
  rfl

theorem queue_withRunning : ((s.withRunning p o).orders p).queue = (runningOrders (s.orders p) o s.now).queue := by
  simp [State.orders]

/-- An order row whose take is a refusal. -/
theorem order_refused {c : Instr} {code : Code} (hc : orderRow c = some (p, o)) (h : PortReady s p)
    (ht : (s.withRunning p o).takeRunning (s.nextRef p) o = refuse code (s.withRunning p o)) : Refuses c s code := by
  refine ⟨p, o, (s.withRunning p o).endOrder (s.nextRef p) (refusedFor code), hc, ?_, ended_of_take queue_withRunning, ?_, ?_, ?_⟩
  · rw [exec_ready hc h, ht]; rfl
  · simp [State.port, State.endOrder, answered]
  · simp only [State.orders, State.endOrder, State.nextRef, runningOrders, State.oe_modOrders, ports_withRunning,
      PortMap.get_set_same]
    rfl
  · intro b hb
    cases b <;> try rfl
    case link q =>
      have hq : q ≠ p := by simpa using hb
      simp [Part.same, State.port, hq, State.endOrder]
    case orders q =>
      have hq : q ≠ p := by simpa using hb
      simp [Part.same, State.orders, hq, State.endOrder, State.nextRef]

/-- An order row that the owning block refuses. -/
theorem order_refuses {c : Instr} {code : Code} (hc : orderRow c = some (p, o)) (h : PortReady s p)
    (hk : o.commonCheck p = none)
    (ht : (s.withRunning p o).handOrder (s.nextRef p) o = refuse code (s.withRunning p o)) : Refuses c s code := by
  refine order_refused hc h ?_
  simp only [State.takeRunning, State.nextRef, hk]
  exact ht

/-- The berth that a terminal or common order names. -/
theorem berthIx_named {n : Ix} {b : Byte} {x : Order} {stop : Bool} (hp : p = .t ∨ p = .v n) (hb : b.toNat = n.toNat) :
    (OrderRec.mk x stop b).berthIx p = n := by
  rcases hp with rfl | rfl
  · simp only [OrderRec.berthIx, hb]
    cases n <;> rfl
  · rfl

/-! ### Frames -/

theorem onlyTouches_trans {l : List Part} {s t u : State} (h1 : OnlyTouches l s t) (h2 : OnlyTouches l t u) :
    OnlyTouches l s u := by
  intro b hb
  have e1 := h1 b hb
  have e2 := h2 b hb
  cases b <;> simp only [Part.same] at * <;> exact e2.trans e1

theorem onlyTouches_mono {l m : List Part} {s t : State} (h : OnlyTouches l s t) (hl : ∀ b ∈ l, b ∈ m) : OnlyTouches m s t :=
  fun b hb => h b fun hb' => hb (hl b hb')

theorem onlyTouches_refl (l : List Part) (s : State) : OnlyTouches l s s := by
  intro b _
  cases b <;> rfl

theorem onlyTouches_withRunning : OnlyTouches [.link p, .orders p] s (s.withRunning p o) := by
  intro b hb
  cases b <;> try rfl
  case link q =>
    have hq : q ≠ p := by simpa using hb
    simp [Part.same, State.port, hq]
  case orders q =>
    have hq : q ≠ p := by simpa using hb
    simp [Part.same, State.orders, hq]

theorem onlyTouches_endOrder (r : OrderRef) (st : Status) : OnlyTouches [.orders r.port] s (s.endOrder r st) := by
  intro b hb
  cases b <;> try rfl
  case orders q =>
    have hq : q ≠ r.port := by simpa using hb
    simp [Part.same, State.orders, State.endOrder, hq]

theorem onlyTouches_modBerth (n : Ix) (f : Berth → Berth) : OnlyTouches [.berth n] s (s.modBerth n f) := by
  intro b hb
  cases b <;> try rfl
  case berth m =>
    have hm : m ≠ n := by simpa using hb
    simp [Part.same, State.berth, hm]

theorem onlyTouches_modPort (q : Port) (f : LinkPort → LinkPort) : OnlyTouches [.link q] s (s.modPort q f) := by
  intro b hb
  cases b <;> try rfl
  case link r =>
    have hr : r ≠ q := by simpa using hb
    simp [Part.same, State.port, hr]

theorem onlyTouches_modGe (f : GrantUnit → GrantUnit) : OnlyTouches [.grants] s (s.modGe f) := by
  intro b hb
  cases b <;> first | rfl | exact absurd (by simp) hb

theorem onlyTouches_modPru (f : PhaseUnit → PhaseUnit) : OnlyTouches [.reference] s (s.modPru f) := by
  intro b hb
  cases b <;> first | rfl | exact absurd (by simp) hb

theorem onlyTouches_modCs (f : CheckUnit → CheckUnit) : OnlyTouches [.scanner] s (s.modCs f) := by
  intro b hb
  cases b <;> first | rfl | exact absurd (by simp) hb

theorem onlyTouches_modCp (f : Pool → Pool) : OnlyTouches [.pool] s (s.modCp f) := by
  intro b hb
  cases b <;> first | rfl | exact absurd (by simp) hb

theorem onlyTouches_modGi (f : GridUnit → GridUnit) : OnlyTouches [.grid] s (s.modGi f) := by
  intro b hb
  cases b <;> first | rfl | exact absurd (by simp) hb

theorem onlyTouches_modInputs (f : Inputs → Inputs) : OnlyTouches [.inputs] s (s.modInputs f) := by
  intro b hb
  cases b <;> first | rfl | exact absurd (by simp) hb

theorem onlyTouches_modTable (f : List Nat → List Nat) : OnlyTouches [.table] s (s.modTable f) := by
  intro b hb
  cases b <;> first | rfl | exact absurd (by simp) hb

theorem onlyTouches_post (q : Port) (c : NoticeClass) (x : Notice) : OnlyTouches [.link q] s (s.post q c x) :=
  onlyTouches_modPort _ _

theorem onlyTouches_send (q : Port) (f : TxFrame) : OnlyTouches [.link q] s (s.send q f) := onlyTouches_modPort _ _

end Sys2Proof.Machine
end

