-- ==== Sys2Proof/Laws/Fields.lean ====
section
/-! SUPPORT. Which fields each shared operation can change, said once: a state reached by the operation reads as before in every
other field. -/

namespace Sys2Proof.Machine

/-! ### What may differ -/

/-- Only the Link Unit differs. -/
abbrev OnlyLink (s t : State) : Prop :=
  t.powered = s.powered ∧ t.now = s.now ∧ t.table = s.table ∧ t.inputs = s.inputs ∧ t.oe = s.oe ∧ t.berths = s.berths ∧
    t.pru = s.pru ∧ t.cs = s.cs ∧ t.cp = s.cp ∧ t.gi = s.gi ∧ t.ge = s.ge ∧ t.pending = s.pending

/-- Only the Order Engine differs, and HELD does not. -/
abbrev OnlyOrders (s t : State) : Prop :=
  t.powered = s.powered ∧ t.now = s.now ∧ t.table = s.table ∧ t.inputs = s.inputs ∧ t.link = s.link ∧ t.oe.held = s.oe.held ∧
    t.berths = s.berths ∧ t.pru = s.pru ∧ t.cs = s.cs ∧ t.cp = s.cp ∧ t.gi = s.gi ∧ t.ge = s.ge ∧ t.pending = s.pending

/-- Only the Phase Reference Unit differs. -/
abbrev OnlyPru (s t : State) : Prop :=
  t.powered = s.powered ∧ t.now = s.now ∧ t.table = s.table ∧ t.inputs = s.inputs ∧ t.link = s.link ∧ t.oe = s.oe ∧
    t.berths = s.berths ∧ t.cs = s.cs ∧ t.cp = s.cp ∧ t.gi = s.gi ∧ t.ge = s.ge ∧ t.pending = s.pending

/-- Only the Check Scanner differs. -/
abbrev OnlyCs (s t : State) : Prop :=
  t.powered = s.powered ∧ t.now = s.now ∧ t.table = s.table ∧ t.inputs = s.inputs ∧ t.link = s.link ∧ t.oe = s.oe ∧
    t.berths = s.berths ∧ t.pru = s.pru ∧ t.cp = s.cp ∧ t.gi = s.gi ∧ t.ge = s.ge ∧ t.pending = s.pending

/-- Only the Converter Pool differs. -/
abbrev OnlyCp (s t : State) : Prop :=
  t.powered = s.powered ∧ t.now = s.now ∧ t.table = s.table ∧ t.inputs = s.inputs ∧ t.link = s.link ∧ t.oe = s.oe ∧
    t.berths = s.berths ∧ t.pru = s.pru ∧ t.cs = s.cs ∧ t.gi = s.gi ∧ t.ge = s.ge ∧ t.pending = s.pending

/-- Only the Grant Engine differs. -/
abbrev OnlyGe (s t : State) : Prop :=
  t.powered = s.powered ∧ t.now = s.now ∧ t.table = s.table ∧ t.inputs = s.inputs ∧ t.link = s.link ∧ t.oe = s.oe ∧
    t.berths = s.berths ∧ t.pru = s.pru ∧ t.cs = s.cs ∧ t.cp = s.cp ∧ t.gi = s.gi ∧ t.pending = s.pending

/-- Only the Grant Engine and the Link Unit differ. -/
abbrev OnlyGeLink (s t : State) : Prop :=
  t.powered = s.powered ∧ t.now = s.now ∧ t.table = s.table ∧ t.inputs = s.inputs ∧ t.oe = s.oe ∧ t.berths = s.berths ∧
    t.pru = s.pru ∧ t.cs = s.cs ∧ t.cp = s.cp ∧ t.gi = s.gi ∧ t.pending = s.pending

namespace State

variable (s : State)

/-! ### The Link Unit -/

@[simp] theorem fields_send (p : Port) (f : TxFrame) : OnlyLink s (s.send p f) := by simp [OnlyLink, send]
@[simp] theorem fields_post (p : Port) (c : NoticeClass) (x : Notice) : OnlyLink s (s.post p c x) := by simp [OnlyLink, post]
@[simp] theorem fields_notify (p : Port) (c : NoticeClass) (b : Option Ix) (k v : Nat) : OnlyLink s (s.notify p c b k v) :=
  fields_post s _ _ _
@[simp] theorem fields_notifyBoth (n : Ix) (c : NoticeClass) (k v : Nat) : OnlyLink s (s.notifyBoth n c k v) := by
  simp [OnlyLink, notifyBoth]
@[simp] theorem fields_notifyCeiling (c : CeilingCode) (v : Nat) : OnlyLink s (s.notifyCeiling c v) := fields_notify s _ _ _ _ _
@[simp] theorem fields_notifyGrant (n : Ix) (c v k : Nat) : OnlyLink s (s.notifyGrant n c v k) := fields_post s _ _ _
@[simp] theorem fields_notifyModule (m : Ix) (c : Nat) : OnlyLink s (s.notifyModule m c) := fields_notify s _ _ _ _ _
@[simp] theorem fields_notifyCheck (n : Ix) (c v : Nat) : OnlyLink s (s.notifyCheck n c v) := fields_notifyBoth s _ _ _ _

theorem link_send_ne {p q : Port} (f : TxFrame) (h : q ≠ p) : (s.send p f).link.get q = s.link.get q := by simp [send, h]
theorem link_post_ne {p q : Port} (c : NoticeClass) (x : Notice) (h : q ≠ p) :
    (s.post p c x).link.get q = s.link.get q := by simp [post, h]
theorem link_notify_ne {p q : Port} (c : NoticeClass) (b : Option Ix) (k v : Nat) (h : q ≠ p) :
    (s.notify p c b k v).link.get q = s.link.get q := link_post_ne s _ _ h
theorem link_notifyBoth_ne {n : Ix} {q : Port} (c : NoticeClass) (k v : Nat) (h : q ≠ .t) (h' : q ≠ .v n) :
    (s.notifyBoth n c k v).link.get q = s.link.get q := by
  simp [notifyBoth, link_notify_ne, h, h']

/-- A post to an open port sets the flag and the latest content of its class. -/
theorem notices_notify (p : Port) (c : NoticeClass) (b : Option Ix) (k v : Nat) (h : (s.link.get p).isOpen = true) :
    ((s.notify p c b k v).link.get p).notices.get c =
      { (s.link.get p).notices.get c with
        flag := true, latest := some { berth := b, code := some k, value := v, period := s.ge.period } } := by
  simp only [notify, post, link_modPort, PortMap.get_set_same, h, if_true, LinkPort.posted]
  cases c <;> rfl

theorem isOpen_notify (p q : Port) (c : NoticeClass) (b : Option Ix) (k v : Nat) :
    ((s.notify p c b k v).link.get q).isOpen = (s.link.get q).isOpen := by
  by_cases h : q = p
  · subst h
    simp only [notify, post, link_modPort, PortMap.get_set_same]
    split <;> rfl
  · rw [link_notify_ne s _ _ _ _ h]

/-! ### The Order Engine -/

@[simp] theorem fields_endOrder (r : OrderRef) (st : Status) : OnlyOrders s (s.endOrder r st) := by simp [OnlyOrders, endOrder]
@[simp] theorem flags_endOrder (r : OrderRef) (st : Status) : (s.endOrder r st).oe.flags = s.oe.flags := by simp [endOrder]
@[simp] theorem fields_setFlag (n : Ix) (b : Bool) (f : SyncFlag) : OnlyOrders s (s.setFlag n b f) := by simp [OnlyOrders, setFlag]
@[simp] theorem ports_setFlag (n : Ix) (b : Bool) (f : SyncFlag) : (s.setFlag n b f).oe.ports = s.oe.ports := by simp [setFlag]

@[simp] theorem fields_endRunning (p : Port) (v : Verdict) (c : Code) : OnlyOrders s (s.endRunning p v c) := by
  unfold endRunning
  split <;> simp [OnlyOrders]

@[simp] theorem flags_endRunning (p : Port) (v : Verdict) (c : Code) : (s.endRunning p v c).oe.flags = s.oe.flags := by
  unfold endRunning
  split <;> simp

@[simp] theorem fields_flagEvent (n : Ix) (b : Bool) : OnlyOrders s (s.flagEvent n b) := by
  unfold flagEvent
  simp only
  split <;> simp [OnlyOrders]

@[simp] theorem fields_postSource (n : Ix) (src : FlagSource) : OnlyOrders s (s.postSource n src) := by
  unfold postSource
  simp only
  split <;> split <;> simp [OnlyOrders]

@[simp] theorem fields_dropWaiter (p : Port) : OnlyOrders s (s.dropWaiter p) := by simp [OnlyOrders, dropWaiter]
@[simp] theorem ports_dropWaiter (p : Port) : (s.dropWaiter p).oe.ports = s.oe.ports := by simp [dropWaiter]

theorem fields_forEach {α : Type} {f : α → State → State} (hf : ∀ a s, OnlyOrders s (f a s)) (l : List α) :
    OnlyOrders s (s.forEach l f) := by
  refine keep_forEach (P := fun t => OnlyOrders s t) (fun a t ht => ?_) l (by simp [OnlyOrders])
  obtain ⟨h1, h2, h3, h4, h5, h6, h7, h8, h9, h10, h11, h12, h13⟩ := ht
  have h := hf a t
  simp only [OnlyOrders, h1, h2, h3, h4, h5, h6, h7, h8, h9, h10, h11, h12, h13] at h
  exact h

@[simp] theorem fields_resetFlags (n : Ix) : OnlyOrders s (s.resetFlags n) := by
  unfold resetFlags
  simp only
  have h := fields_forEach (s.modOe fun oe => { oe with flags := oe.flags.set n ⟨.clear, .clear⟩ })
    (f := fun (w : Waiter) s => s.endRunning w.port .failed .reset) (fun _ _ => fields_endRunning _ _ _ _)
    ((s.flag n false).waiters ++ (s.flag n true).waiters)
  simpa only [OnlyOrders, oe_modOe, powered_modOe, now_modOe, table_modOe, inputs_modOe, link_modOe, berths_modOe, pru_modOe,
    cs_modOe, cp_modOe, gi_modOe, ge_modOe, pending_modOe] using h

/-- The end of a consenting order changes only its orders and takes the consent from its berth. -/
@[simp] theorem fields_endConsenting (n : Ix) (v : Verdict) (c : Code) (d : Nat) :
    (s.endConsenting n v c d).powered = s.powered ∧ (s.endConsenting n v c d).now = s.now ∧
    (s.endConsenting n v c d).table = s.table ∧ (s.endConsenting n v c d).inputs = s.inputs ∧
    (s.endConsenting n v c d).link = s.link ∧ (s.endConsenting n v c d).oe.held = s.oe.held ∧
    (s.endConsenting n v c d).oe.flags = s.oe.flags ∧
    (s.endConsenting n v c d).berths = s.berths.set n { s.berths.get n with consenting := none } ∧
    (s.endConsenting n v c d).pru = s.pru ∧ (s.endConsenting n v c d).cs = s.cs ∧ (s.endConsenting n v c d).cp = s.cp ∧
    (s.endConsenting n v c d).gi = s.gi ∧ (s.endConsenting n v c d).ge = s.ge ∧
    (s.endConsenting n v c d).pending = s.pending := by
  unfold endConsenting
  split
  · rename_i h
    have : { s.berths.get n with consenting := none } = s.berths.get n := by rw [← h]; rfl
    simp [this]
  · simp

@[simp] theorem fields_failConsenting (n : Ix) (c : Code) :
    (s.failConsenting n c).powered = s.powered ∧ (s.failConsenting n c).now = s.now ∧
    (s.failConsenting n c).table = s.table ∧ (s.failConsenting n c).inputs = s.inputs ∧
    (s.failConsenting n c).link = s.link ∧ (s.failConsenting n c).oe.held = s.oe.held ∧
    (s.failConsenting n c).oe.flags = s.oe.flags ∧
    (s.failConsenting n c).berths = s.berths.set n { s.berths.get n with consenting := none } ∧
    (s.failConsenting n c).pru = s.pru ∧ (s.failConsenting n c).cs = s.cs ∧ (s.failConsenting n c).cp = s.cp ∧
    (s.failConsenting n c).gi = s.gi ∧ (s.failConsenting n c).ge = s.ge ∧ (s.failConsenting n c).pending = s.pending :=
  fields_endConsenting s _ _ _ _

/-! ### The Grid Interface and the Grant Engine -/

@[simp] theorem fields_warnShort (n : Ix) : OnlyGeLink s (s.warnShort n) := by
  unfold warnShort
  simp only
  split <;> simp [OnlyGeLink]

theorem fields_forEachGe {α : Type} {f : α → State → State} (hf : ∀ a s, OnlyGeLink s (f a s)) (l : List α) :
    OnlyGeLink s (s.forEach l f) := by
  refine keep_forEach (P := fun t => OnlyGeLink s t) (fun a t ht => ?_) l (by simp [OnlyGeLink])
  obtain ⟨h1, h2, h3, h4, h5, h6, h7, h8, h9, h10, h11⟩ := ht
  have h := hf a t
  simp only [OnlyGeLink, h1, h2, h3, h4, h5, h6, h7, h8, h9, h10, h11] at h
  exact h

@[simp] theorem fields_cutActive (f : GrantSet → GrantSet) : OnlyGeLink s (s.cutActive f) := by
  have h := fields_forEachGe (s.modGe fun g => { g with active := f g.active }) (f := fun (n : Ix) u =>
    if s.ge.active.reducedFrom (f s.ge.active) n then u.notifyGrant n 2 ((f s.ge.active).recs.get n).total u.ge.period
    else u) (fun a s => by split <;> simp [OnlyGeLink]) Ix.all
  exact h

@[simp] theorem fields_cutStaged (f : GrantSet → GrantSet) : OnlyGeLink s (s.cutStaged f) := by
  have h := fields_forEachGe (s.modGe fun g => { g with staged := f g.staged }) (f := fun (n : Ix) u =>
    if s.ge.staged.reducedFrom (f s.ge.staged) n ∧ (f s.ge.staged).pending then
      u.notifyGrant n 3 ((f s.ge.staged).recs.get n).total (f s.ge.staged).effective
    else u) (fun a s => by split <;> simp [OnlyGeLink]) Ix.all
  exact h

@[simp] theorem fields_trimActive : OnlyGeLink s s.trimActive := fields_cutActive s _
@[simp] theorem fields_trimBoth : OnlyGeLink s s.trimBoth := by
  unfold trimBoth
  simp [OnlyGeLink]
@[simp] theorem fields_cutAll : OnlyGeLink s s.cutAll := by simp [OnlyGeLink, cutAll]
@[simp] theorem fields_zeroStaged : OnlyGe s s.zeroStaged := by
  unfold zeroStaged
  split <;> simp [OnlyGe]
@[simp] theorem fields_shedGrants (m : ShedMode) : OnlyGeLink s (s.shedGrants m) := by
  cases m <;> simp [OnlyGeLink, shedGrants]

/-- A trim of the active set replaces the active set and nothing else of the Grant Engine. -/
theorem ge_cutActive (f : GrantSet → GrantSet) : (s.cutActive f).ge = { s.ge with active := f s.ge.active } := by
  unfold cutActive
  refine keep_forEach (P := fun t => t.ge = { s.ge with active := f s.ge.active }) (fun a t ht => ?_) Ix.all rfl
  split <;> simp [ht]

/-- A trim of the staged set replaces the staged set and nothing else of the Grant Engine. -/
theorem ge_cutStaged (f : GrantSet → GrantSet) : (s.cutStaged f).ge = { s.ge with staged := f s.ge.staged } := by
  unfold cutStaged
  refine keep_forEach (P := fun t => t.ge = { s.ge with staged := f s.ge.staged }) (fun a t ht => ?_) Ix.all rfl
  split <;> simp [ht]

@[simp] theorem ge_trimActive : s.trimActive.ge = { s.ge with active := s.ge.active.trim s.busBCapacity } := ge_cutActive s _

@[simp] theorem ge_trimBoth : s.trimBoth.ge =
    { s.ge with active := s.ge.active.trim s.busBCapacity, staged := s.ge.staged.trim s.busBCapacity } := by
  unfold trimBoth
  rw [ge_cutStaged, ge_trimActive]

@[simp] theorem ge_cutAll : s.cutAll.ge = { s.ge with active := s.ge.active.noFlexible, staged := s.ge.staged.noFlexible } := by
  unfold cutAll
  rw [ge_cutStaged, ge_cutActive]

theorem link_cutActive_t (f : GrantSet → GrantSet) : (s.cutActive f).link.get .t = s.link.get .t := by
  unfold cutActive
  refine keep_forEach (P := fun t => t.link.get .t = s.link.get .t) (fun a t ht => ?_) Ix.all rfl
  split
  · rw [notifyGrant, link_post_ne _ _ _ (by simp), ht]
  · exact ht

theorem link_cutStaged_t (f : GrantSet → GrantSet) : (s.cutStaged f).link.get .t = s.link.get .t := by
  unfold cutStaged
  refine keep_forEach (P := fun t => t.link.get .t = s.link.get .t) (fun a t ht => ?_) Ix.all rfl
  split
  · rw [notifyGrant, link_post_ne _ _ _ (by simp), ht]
  · exact ht

@[simp] theorem link_trimBoth_t : s.trimBoth.link.get .t = s.link.get .t := by
  unfold trimBoth trimActive
  rw [link_cutStaged_t, link_cutActive_t]

@[simp] theorem fields_putBoth (n : Ix) (r : GrantRec) : OnlyGe s (s.putBoth n r) := by simp [OnlyGe, putBoth]
@[simp] theorem fields_leaveQueue (n : Ix) : OnlyGe s (s.leaveQueue n) := by simp [OnlyGe, leaveQueue]
@[simp] theorem fields_endAdmission (n : Ix) : OnlyGe s (s.endAdmission n) := by simp [OnlyGe, endAdmission, zeroGrants]
@[simp] theorem fields_clearOverdraw (n : Ix) : OnlyGe s (s.clearOverdraw n) := by simp [OnlyGe, clearOverdraw]
@[simp] theorem fields_clearCharge (n : Ix) : OnlyGe s (s.clearCharge n) := by simp [OnlyGe, clearCharge]
@[simp] theorem fields_setConnected (n : Ix) : OnlyGe s (s.setConnected n) := by simp [OnlyGe, setConnected]
@[simp] theorem fields_dropFlexible (n : Ix) : OnlyGe s (s.dropFlexible n) := by simp [OnlyGe, dropFlexible]
@[simp] theorem fields_departLive (n : Ix) : OnlyGe s (s.departLive n) := by simp [OnlyGe, departLive]
@[simp] theorem fields_adoptGrants (n : Ix) : OnlyGeLink s (s.adoptGrants n) := by simp [OnlyGeLink, adoptGrants]

@[simp] theorem fields_requeue (n : Ix) (p : Nat) : OnlyGe s (s.requeue n p) := by
  unfold requeue
  split <;> simp [OnlyGe]

/-- A record put into both sets is also the firm figure held, of that berth alone. -/
@[simp] theorem grantBerth_putBoth (n m : Ix) (r : GrantRec) : (s.putBoth n r).grantBerth m =
    if m = n then { s.grantBerth n with firm := r.firm } else s.grantBerth m := by
  simp [putBoth, grantBerth, Six.get_set, eq_comm]

/-- The end of an admission: no entry, no marker, and nothing granted in either set (R101, R125). -/
@[simp] theorem ge_endAdmission (n : Ix) : (s.endAdmission n).ge =
    { s.ge with
      queue := s.ge.queue.filter fun e => decide (e.berth ≠ n)
      berths := s.ge.berths.set n { s.ge.berths.get n with admitted := false, firm := 0 }
      active := s.ge.active.put n noGrant, staged := s.ge.staged.put n noGrant } := by
  simp [endAdmission, zeroGrants, putBoth, leaveQueue]

/-- A berth that leaves the live states (R101, R125, R134). -/
@[simp] theorem ge_departLive (n : Ix) : (s.departLive n).ge =
    { s.ge with
      queue := s.ge.queue.filter fun e => decide (e.berth ≠ n)
      berths := s.ge.berths.set n { s.ge.berths.get n with admitted := false, firm := 0, overGrant := 0, overRating := 0 }
      active := s.ge.active.put n noGrant, staged := s.ge.staged.put n noGrant } := by
  simp [departLive, clearOverdraw]

/-! ### The Phase Reference Unit -/

@[simp] theorem fields_setWindow (n : Ix) (w : Window) (t : Option Nat) : OnlyPru s (s.setWindow n w t) := by
  simp [OnlyPru, setWindow]

theorem fields_forEachPru {α : Type} {f : α → State → State} (hf : ∀ a s, OnlyPru s (f a s)) (l : List α) :
    OnlyPru s (s.forEach l f) := by
  refine keep_forEach (P := fun t => OnlyPru s t) (fun a t ht => ?_) l (by simp [OnlyPru])
  obtain ⟨h1, h2, h3, h4, h5, h6, h7, h8, h9, h10, h11, h12⟩ := ht
  have h := hf a t
  simp only [OnlyPru, h1, h2, h3, h4, h5, h6, h7, h8, h9, h10, h11, h12] at h
  exact h

@[simp] theorem fields_deferWaiters : OnlyPru s s.deferWaiters := fields_forEachPru s (fun _ _ => fields_setWindow _ _ _ _) _
@[simp] theorem fields_endDeferral : OnlyPru s s.endDeferral :=
  fields_forEachPru s (f := fun (r : ClaimRequest) t =>
    if (t.ship r.berth).window = .deferred then t.setWindow r.berth .outside none else t)
    (fun _ _ => by split <;> simp [OnlyPru]) _
@[simp] theorem fields_freeReference : OnlyPru s s.freeReference := by simp [OnlyPru, freeReference]
@[simp] theorem fields_grantClaim (r : ClaimRequest) : OnlyPru s (s.grantClaim r) := by
  unfold grantClaim
  simp only
  split <;> simp [OnlyPru]
@[simp] theorem fields_grantHead : OnlyPru s s.grantHead := by
  unfold grantHead
  split
  · split <;> simp [OnlyPru]
  · simp [OnlyPru]
@[simp] theorem fields_requestClaim (n : Ix) : OnlyPru s (s.requestClaim n) := by simp [OnlyPru, requestClaim]
@[simp] theorem fields_leaveClaims (n : Ix) : OnlyPru s (s.leaveClaims n) := by simp [OnlyPru, leaveClaims]
@[simp] theorem fields_releaseClaim (b : Bool) : OnlyPru s (s.releaseClaim b) := by
  unfold releaseClaim
  simp only
  split <;> simp [OnlyPru]
@[simp] theorem fields_leaveSyncing (n : Ix) (b : Bool) : OnlyPru s (s.leaveSyncing n b) := by
  unfold leaveSyncing
  simp only
  split <;> simp [OnlyPru]
@[simp] theorem fields_revokeClaim : OnlyPru s s.revokeClaim := by
  unfold revokeClaim
  split <;> simp [OnlyPru]
@[simp] theorem fields_followBusB : OnlyPru s s.followBusB := by
  unfold followBusB
  simp only
  split
  · simp [OnlyPru]
  · split <;> simp [OnlyPru]
  · simp [OnlyPru]

/-! ### The Check Scanner -/

@[simp] theorem fields_setUpCheck (n : Ix) : OnlyCs s (s.setUpCheck n) := by simp [OnlyCs, setUpCheck]
@[simp] theorem fields_startCheck (n : Ix) (o : CheckOrigin) : OnlyCs s (s.startCheck n o) := by simp [OnlyCs, startCheck]
@[simp] theorem fields_chooseCheck : OnlyCs s s.chooseCheck := by
  unfold chooseCheck
  split
  · simp [OnlyCs]
  · simp [OnlyCs]
  · split
    · simp [OnlyCs]
    · split <;> simp [OnlyCs]
@[simp] theorem fields_freeInstrument : OnlyCs s s.freeInstrument := by simp [OnlyCs, freeInstrument]
@[simp] theorem fields_faultScanner : OnlyCs s s.faultScanner := by simp [OnlyCs, faultScanner]
@[simp] theorem fields_freeCompleted : OnlyCs s s.freeCompleted := by
  unfold freeCompleted
  split
  · exact fields_faultScanner s
  · exact fields_freeInstrument s
@[simp] theorem fields_dropRequest (n : Ix) : OnlyCs s (s.dropRequest n) := by simp [OnlyCs, dropRequest]
@[simp] theorem fields_requestFirst (n : Ix) : OnlyCs s (s.requestFirst n) := by simp [OnlyCs, requestFirst]
@[simp] theorem fields_fileRequest (n : Ix) : OnlyCs s (s.fileRequest n) := by
  unfold fileRequest
  split <;> simp [OnlyCs]
@[simp] theorem fields_abortRecord (n : Ix) : OnlyCs s (s.abortRecord n) := by simp [OnlyCs, abortRecord]
@[simp] theorem fields_abortDead (n : Ix) : OnlyCs s (s.abortDead n) := by
  unfold abortDead
  split
  · split <;> simp [OnlyCs]
  · simp [OnlyCs]
  · simp [OnlyCs]
@[simp] theorem fields_dropCheck (n : Ix) : OnlyCs s (s.dropCheck n) := by
  unfold dropCheck
  simp only
  split <;> simp [OnlyCs]
@[simp] theorem fields_clearCheck (n : Ix) : OnlyCs s (s.clearCheck n) := by
  unfold clearCheck
  simp only
  split <;> simp [OnlyCs]
@[simp] theorem fields_resetScanner : OnlyCs s s.resetScanner := by
  unfold resetScanner
  simp only
  split <;> simp [OnlyCs]

/-! ### The reference in time -/

@[simp] theorem fields_steer : OnlyPru s s.steer := by
  unfold steer
  split
  · simp [OnlyPru]
  · simp [OnlyPru]
  · dsimp only
    split <;> simp [OnlyPru]
@[simp] theorem fields_turnPhases : OnlyPru s s.turnPhases := by simp [OnlyPru, turnPhases]
@[simp] theorem frequency_turnPhases : s.turnPhases.pru.frequency = s.pru.frequency := rfl
@[simp] theorem mode_turnPhases : s.turnPhases.pru.mode = s.pru.mode := rfl
@[simp] theorem ship_turnPhases (n : Ix) : s.turnPhases.ship n = { s.ship n with difference := s.differenceAfter n } := by
  cases n <;> rfl
/-- The phase of the reference stays within one turn. -/
theorem phase_turnPhases_lt : s.turnPhases.pru.phase < Config.fullTurn := Nat.mod_lt _ (by decide)

/-! ### The Converter Pool -/

@[simp] theorem fields_startTest : OnlyCp s s.startTest := by
  unfold startTest
  split
  · split <;> simp [OnlyCp]
  · simp [OnlyCp]

end State

end Sys2Proof.Machine
end

