-- ==== Sys2Proof/Laws/Berths.lean ====
section
/-! SUPPORT. What the Berth Sequencer's shared operations do to the berth record and to the fields of the other blocks. -/

namespace Sys2Proof.Machine

/-- Only berth records, the Phase Reference Unit and the Check Scanner differ. -/
abbrev OnlyBreaker (s t : State) : Prop :=
  t.powered = s.powered ∧ t.now = s.now ∧ t.table = s.table ∧ t.inputs = s.inputs ∧ t.link = s.link ∧ t.oe = s.oe ∧
    t.cp = s.cp ∧ t.gi = s.gi ∧ t.ge = s.ge ∧ t.pending = s.pending

namespace State

variable (s : State)

/-! ### The breaker and the selector -/

@[simp] theorem fields_leaveOpen (n : Ix) (f : Breaker) : OnlyBreaker s (s.leaveOpen n f) := by simp [OnlyBreaker, leaveOpen]

@[simp] theorem berths_leaveOpen (n : Ix) (f : Breaker) : (s.leaveOpen n f).berths =
    s.berths.set n { s.berths.get n with breaker := f, permitDeadTime := none } := by simp [leaveOpen]

@[simp] theorem fields_startPermitDeadTime (n : Ix) : OnlyBreaker s (s.startPermitDeadTime n) := by
  unfold startPermitDeadTime
  split <;> simp [OnlyBreaker]

@[simp] theorem pru_startPermitDeadTime (n : Ix) : (s.startPermitDeadTime n).pru = s.pru ∧
    (s.startPermitDeadTime n).cs = s.cs := by
  unfold startPermitDeadTime
  split <;> simp

@[simp] theorem berths_startPermitDeadTime (n : Ix) : (s.startPermitDeadTime n).berths =
    s.berths.set n { s.berths.get n with
      permitDeadTime := if (s.berths.get n).permit = false ∧ (s.berths.get n).plug = .present then some s.deadTime
        else (s.berths.get n).permitDeadTime } := by
  unfold startPermitDeadTime berth
  split
  · rename_i h
    simp [h]
  · rename_i h
    exact (Six.set_get _ _).symm

@[simp] theorem fields_reachOpen (n : Ix) : OnlyBreaker s (s.reachOpen n) := by simp [OnlyBreaker, reachOpen]

@[simp] theorem cs_reachOpen (n : Ix) : (s.reachOpen n).cs = s.cs := by simp [reachOpen]

@[simp] theorem berths_reachOpen (n : Ix) : (s.reachOpen n).berths =
    s.berths.set n { s.berths.get n with
      breaker := .opened, bus := if (s.berths.get n).moving then (s.berths.get n).bus else (s.outlet n).selector
      permitDeadTime := if (s.berths.get n).permit = false ∧ (s.berths.get n).plug = .present then some s.deadTime
        else (s.berths.get n).permitDeadTime } := by
  simp [reachOpen]
  rfl

@[simp] theorem fields_commandOpen (n : Ix) : OnlyBreaker s (s.commandOpen n) := by
  unfold commandOpen
  split
  · simp [OnlyBreaker]
  · split <;> simp [OnlyBreaker]
  · simp [OnlyBreaker]
  · simp [OnlyBreaker]

/-- An open command to a breaker that is not open and not being opened. -/
theorem berths_commandOpen {n : Ix} (h : (s.berths.get n).breaker = .closed ∨ (s.berths.get n).breaker = .closeSent ∨
    ((s.berths.get n).breaker = .opened ∧ (s.outlet n).breaker ≠ .opened)) : (s.commandOpen n).berths =
    s.berths.set n { s.berths.get n with breaker := .openSent, motionLimit := some 300, permitDeadTime := none } := by
  unfold commandOpen berth
  rcases h with h | h | ⟨h, h'⟩ <;> simp [h]
  rw [if_neg h']
  simp

/-- An open command to a breaker that is being opened. -/
theorem commandOpen_openSent {n : Ix} (h : (s.berths.get n).breaker = .openSent) : s.commandOpen n = s := by
  unfold commandOpen berth
  simp [h]

theorem berths_commandOpen_ne {n m : Ix} (h : m ≠ n) : (s.commandOpen n).berths.get m = s.berths.get m := by
  unfold commandOpen
  split
  · rfl
  · split <;> simp [h]
  · simp [h]
  · simp [h]

@[simp] theorem fields_openCommand (n : Ix) : OnlyBreaker s (s.openCommand n) := by
  simp [OnlyBreaker, openCommand, withdrawPermit]

theorem berths_openCommand {n : Ix} (h : (s.berths.get n).breaker = .closed ∨ (s.berths.get n).breaker = .closeSent ∨
    ((s.berths.get n).breaker = .opened ∧ (s.outlet n).breaker ≠ .opened)) : (s.openCommand n).berths =
    s.berths.set n { s.berths.get n with
      breaker := .openSent, motionLimit := some 300, permit := false, permitDeadTime := none } := by
  simp [openCommand, withdrawPermit, berths_commandOpen s h]

@[simp] theorem fields_settleSelector (n : Ix) (x : Bus) : OnlyBreaker s (s.settleSelector n x) := by
  simp [OnlyBreaker, settleSelector]

@[simp] theorem berths_settleSelector (n : Ix) (x : Bus) : (s.settleSelector n x).berths =
    s.berths.set n { s.berths.get n with moving := false, bus := x, selectorLimit := none } ∧
    (s.settleSelector n x).cs = s.cs := by simp [settleSelector]

/-! ### Leaving the waiting states -/

/-- A berth that leaves the waiting states without closing (R11). -/
@[simp] theorem fields_abandon (n : Ix) (d : BerthState) :
    (s.abandon n d).powered = s.powered ∧ (s.abandon n d).now = s.now ∧ (s.abandon n d).table = s.table ∧
    (s.abandon n d).inputs = s.inputs ∧ (s.abandon n d).link = s.link ∧ (s.abandon n d).oe = s.oe ∧
    (s.abandon n d).berths = s.berths.set n { (s.berths.get n).stopTimers with state := d } ∧
    (s.abandon n d).cs = s.cs ∧ (s.abandon n d).cp = s.cp ∧ (s.abandon n d).gi = s.gi ∧
    (s.abandon n d).ge = (s.endAdmission n).ge ∧ (s.abandon n d).pending = s.pending := by
  simp [abandon]

@[simp] theorem fields_failWaiting (n : Ix) (c : Code) (d : BerthState) :
    (s.failWaiting n c d).powered = s.powered ∧ (s.failWaiting n c d).now = s.now ∧
    (s.failWaiting n c d).table = s.table ∧ (s.failWaiting n c d).inputs = s.inputs ∧
    (s.failWaiting n c d).link = s.link ∧ (s.failWaiting n c d).oe = (s.failConsenting n c).oe ∧
    (s.failWaiting n c d).berths = s.berths.set n { (s.berths.get n).stopTimers with state := d, consenting := none } ∧
    (s.failWaiting n c d).cs = s.cs ∧ (s.failWaiting n c d).cp = s.cp ∧ (s.failWaiting n c d).gi = s.gi ∧
    (s.failWaiting n c d).ge = (s.endAdmission n).ge ∧ (s.failWaiting n c d).pending = s.pending := by
  simp [failWaiting, Berth.stopTimers]

/-! ### Opening -/

/-- A berth opened with a purpose (R18, R26, R31). -/
@[simp] theorem fields_enterOpening (n : Ix) (p : Purpose) :
    (s.enterOpening n p).powered = s.powered ∧ (s.enterOpening n p).now = s.now ∧
    (s.enterOpening n p).table = s.table ∧ (s.enterOpening n p).inputs = s.inputs ∧
    (s.enterOpening n p).link = s.link ∧ (s.enterOpening n p).oe = s.oe ∧
    (s.enterOpening n p).cp = s.cp ∧ (s.enterOpening n p).gi = s.gi ∧
    (s.enterOpening n p).ge = (s.departLive n).ge ∧ (s.enterOpening n p).pending = s.pending := by
  simp [enterOpening]

theorem berths_enterOpening {n : Ix} (p : Purpose)
    (h : (s.berths.get n).breaker = .closed ∨ (s.berths.get n).breaker = .closeSent) : (s.enterOpening n p).berths =
    s.berths.set n { (s.berths.get n).stopTimers with
      state := .opening, purpose := some p, approach := none, adoptOnClose := false, returnForced := false, openPower := 0,
      breaker := .openSent, motionLimit := some 300, permit := false, permitDeadTime := none } := by
  unfold enterOpening
  rw [(fields_departLive _ _).2.2.2.2.2.2.1, berths_openCommand]
  · simp [Berth.stopTimers]
  · simp only [berths_modBerth, Six.get_set_same, Berth.stopTimers]
    rcases h with h | h <;> simp [h]

/-! ### Trips (R22) -/

/-- What a trip leaves in the fields of the other blocks. -/
@[simp] theorem fields_tripTo (n : Ix) (c : TripCause) (v : Nat) (d : BerthState) (p : Option Purpose) :
    (s.tripTo n c v d p).powered = s.powered ∧ (s.tripTo n c v d p).now = s.now ∧
    (s.tripTo n c v d p).table = s.table ∧ (s.tripTo n c v d p).inputs = s.inputs ∧
    (s.tripTo n c v d p).oe.held = s.oe.held ∧ (s.tripTo n c v d p).cp = s.cp ∧ (s.tripTo n c v d p).gi = s.gi ∧
    (s.tripTo n c v d p).ge = (s.departLive n).ge ∧ (s.tripTo n c v d p).pending = s.pending := by
  unfold tripTo
  simp only
  split <;> simp [withdrawPermit]

theorem link_tripTo_ne {n : Ix} {q : Port} (c : TripCause) (v : Nat) (d : BerthState) (p : Option Purpose) (h : q ≠ .t)
    (h' : q ≠ .v n) : (s.tripTo n c v d p).link.get q = s.link.get q := by
  unfold tripTo
  simp only
  split <;> simp [withdrawPermit, link_notifyBoth_ne _ _ _ _ h h']

/-- The berth record after a trip of a berth whose breaker is closed, closing or being opened. -/
theorem berths_tripTo {n : Ix} (c : TripCause) (v : Nat) (d : BerthState) (p : Option Purpose)
    (h : (s.berths.get n).breaker ≠ .opened) : (s.tripTo n c v d p).berths =
    s.berths.set n { (s.berths.get n).stopTimers with
      tripCause := some c, state := d, purpose := p, approach := none, adoptOnClose := false, breaker := .openSent,
      motionLimit := if (s.berths.get n).breaker = .openSent then (s.berths.get n).motionLimit else some 300
      permit := false, permitDeadTime := none, consenting := none } := by
  unfold tripTo
  simp only [berth, h, if_false]
  obtain ⟨u, hu⟩ : ∃ u, u = s.modBerth n fun b =>
      { b.stopTimers with tripCause := some c, state := d, purpose := p, approach := none, adoptOnClose := false } := ⟨_, rfl⟩
  have hb : u.berths = s.berths.set n { (s.berths.get n).stopTimers with
      tripCause := some c, state := d, purpose := p, approach := none, adoptOnClose := false } := by rw [hu]; rfl
  rw [← hu]
  by_cases ho : (s.berths.get n).breaker = .openSent
  · have hc : u.commandOpen n = u := commandOpen_openSent u (by simpa [hb, Berth.stopTimers] using ho)
    simp [hc, withdrawPermit, hb, Berth.stopTimers, ho]
  · have hc := berths_commandOpen u (n := n) (by
      cases hs : (s.berths.get n).breaker
      · exact absurd hs h
      · simp [hb, Berth.stopTimers, hs]
      · simp [hb, Berth.stopTimers, hs]
      · exact absurd hs ho)
    simp [withdrawPermit, hc, hb, ho, Berth.stopTimers]

theorem berths_tripTo_ne {n m : Ix} (c : TripCause) (v : Nat) (d : BerthState) (p : Option Purpose) (h : m ≠ n) :
    (s.tripTo n c v d p).berths.get m = s.berths.get m := by
  unfold tripTo
  simp only
  split <;> simp [withdrawPermit, h, berths_commandOpen_ne]

/-- A trip of a berth that is not yet TRIPPED and not opening for a trip. -/
theorem trip_eq {n : Ix} {c : TripCause} (h : (s.berths.get n).state ≠ .tripped)
    (h' : (s.berths.get n).state = .opening → (s.berths.get n).purpose ≠ some .trip) : s.trip n c = s.tripTo n c 0 .tripped none := by
  unfold trip berth
  cases hs : (s.berths.get n).state <;> cases hp : (s.berths.get n).purpose <;> simp_all

/-- The TRIP notice at port T. -/
theorem notices_tripTo {n : Ix} (c : TripCause) (v : Nat) (d : BerthState) (p : Option Purpose)
    (h : (s.link.get .t).isOpen = true) : ((s.tripTo n c v d p).link.get .t).notices.trip =
      { (s.link.get .t).notices.trip with
        flag := true, latest := some { berth := some n, code := some c.index, value := v, period := s.ge.period } } := by
  have key : ∀ u : State, u.link = s.link → u.ge.period = s.ge.period →
      ((u.notifyBoth n .trip c.index v).link.get .t).notices.trip = { (s.link.get .t).notices.trip with
        flag := true, latest := some { berth := some n, code := some c.index, value := v, period := s.ge.period } } := by
    intro u hl hp
    unfold notifyBoth
    rw [link_notify_ne _ _ _ _ _ (by simp)]
    have := notices_notify u .t .trip (some n) c.index v (by rw [hl]; exact h)
    rw [hl, hp] at this
    exact this
  unfold tripTo
  simp only
  split <;> (rw [(fields_postSource _ _ _).2.2.2.2.1, key] <;> simp [withdrawPermit])

end State

end Sys2Proof.Machine
end

