-- ==== Sys2Proof/Laws/Flags.lean ====
section
/-! SUPPORT. What an event does to the sync flags and to the waiting orders (R150, R151): `postSource_reaches` says all of it. -/

namespace Sys2Proof.Machine

/-! ### Flags -/

@[simp] theorem FlagPair.get_set (f : FlagPair) (b c : Bool) (a : SyncFlag) :
    (f.set b a).get c = if c = b then a else f.get c := by cases b <;> cases c <;> rfl

namespace State

variable (s : State)

theorem flag_of_flags {s t : State} (h : t.oe.flags = s.oe.flags) (n : Ix) (b : Bool) : t.flag n b = s.flag n b := by
  unfold flag
  rw [h]

theorem flag_setFlag (n m : Ix) (b c : Bool) (f : SyncFlag) :
    (s.setFlag n b f).flag m c = if m = n ∧ c = b then f else s.flag m c := by
  unfold flag setFlag
  by_cases h : m = n <;> by_cases h' : c = b <;> simp [h, h']

theorem flag_flagEvent (n m : Ix) (b c : Bool) :
    (s.flagEvent n b).flag m c = if m = n ∧ c = b then (s.flag n b).after else s.flag m c := by
  unfold flagEvent
  simp only
  split
  · rw [flag_of_flags (flags_endRunning _ _ _ _), flag_setFlag]
  · exact flag_setFlag _ _ _ _ _ _
  · exact flag_setFlag _ _ _ _ _ _

theorem flagSource_of_table {s t : State} (h : t.table = s.table) (n : Ix) (b : Bool) : t.flagSource n b = s.flagSource n b := by
  unfold flagSource param
  rw [h]

/-- Each flag of the berth whose source is the event meets it once, and no other flag changes (R150). -/
theorem flag_postSource (n m : Ix) (src : FlagSource) (c : Bool) : (s.postSource n src).flag m c =
    if m = n ∧ s.flagSource n c = src.index then (s.flag n c).after else s.flag m c := by
  have key : ∀ u : State, u.table = s.table →
      (if u.flagSource n true = src.index then u.flagEvent n true else u).flag m c =
        if m = n ∧ c = true ∧ s.flagSource n true = src.index then (u.flag n true).after else u.flag m c := by
    intro u hu
    rw [flagSource_of_table hu]
    by_cases h : s.flagSource n true = src.index <;> simp [h, flag_flagEvent]
  unfold postSource
  simp only
  rw [key]
  · by_cases h : s.flagSource n false = src.index <;> by_cases h' : s.flagSource n true = src.index <;>
      by_cases hm : m = n <;> cases c <;> simp [h, h', hm, flag_flagEvent]
  · split <;> simp

end State

/-! ### Slots -/

theorem find_modChain {f : Chain → Chain} (hf : ∀ c, (f c).serial = c.serial) (n m : Nat) (q : List Chain) :
    (modChain n f q).find? (fun c => decide (c.serial = m)) =
      (q.find? fun c => decide (c.serial = m)).map fun c => if m = n then f c else c := by
  induction q with
  | nil => rfl
  | cons c q ih =>
    have hs : (if c.serial = n then f c else c).serial = c.serial := by split <;> simp [hf]
    simp only [modChain, List.map_cons, List.find?_cons, hs] at ih ⊢
    by_cases h : c.serial = m
    · simp [h]
    · simp [h, ih]

@[simp] theorem Chain.serial_endOrder (pos : Nat) (st : Status) (c : Chain) : (c.endOrder pos st).serial = c.serial := by
  unfold Chain.endOrder
  split
  · split
    · rfl
    · unfold Chain.stopOnError
      split <;> (simp only [Chain.modSlot]; split <;> rfl)
  · rfl

theorem Slot.close_ended {sl : Slot} (st : Status) (h : sl.isEnded = true) : sl.close st = sl := by simp [Slot.close, h]

theorem Chain.slot_pos {c : Chain} {pos : Nat} {sl : Slot} (h : c.slot? pos = some sl) : pos ≠ 0 ∧ c.orders[pos - 1]? = some sl := by
  unfold Chain.slot? at h
  by_cases hp : pos = 0
  · simp [hp] at h
  · exact ⟨hp, by simpa [hp] using h⟩

theorem Chain.slot_modSlot {c : Chain} {pos at' : Nat} {f : Slot → Slot} {sl : Slot} (h : c.slot? at' = some sl) :
    (c.modSlot pos f).slot? at' = some (if at' = pos then f sl else sl) := by
  obtain ⟨hp, ho⟩ := Chain.slot_pos h
  unfold Chain.modSlot
  cases hq : c.slot? pos with
  | none =>
    have : at' ≠ pos := fun e => by rw [e, hq] at h; cases h
    simp [this, h]
  | some x =>
    obtain ⟨hp', ho'⟩ := Chain.slot_pos hq
    by_cases e : at' = pos
    · subst e
      rw [hq] at h
      cases h
      have hl : at' - 1 < c.orders.length := by
        by_contra hl
        rw [List.getElem?_eq_none (by omega)] at ho
        cases ho
      simp [Chain.slot?, hp, hl]
    · have : at' - 1 ≠ pos - 1 := by omega
      simp [Chain.slot?, hp, e, List.getElem?_set_ne (Ne.symm this), ho]

theorem Chain.slot_stopOnError {c : Chain} {pos at' : Nat} {st : Status} {x sl : Slot} (h : c.slot? at' = some sl)
    (he : sl.isEnded = true) : (c.stopOnError pos st x).slot? at' = some sl := by
  obtain ⟨hp, ho⟩ := Chain.slot_pos h
  unfold Chain.stopOnError
  split
  · simp [Chain.slot?, hp, ho, Slot.close_ended _ he]
  · exact h

/-- An order that has ENDED keeps its record whatever order of its chain ends. -/
theorem Chain.slot_endOrder_ended {c : Chain} {pos at' : Nat} {st : Status} {sl : Slot} (h : c.slot? at' = some sl)
    (he : sl.isEnded = true) : (c.endOrder pos st).slot? at' = some sl := by
  unfold Chain.endOrder
  split
  · rename_i x hx
    split
    · exact h
    · refine Chain.slot_stopOnError ?_ he
      rw [Chain.slot_modSlot h]
      split <;> simp [Slot.close_ended _ he]
  · exact h

/-- An order that has not ENDED ends with the record given. -/
theorem Chain.slot_endOrder_self {c : Chain} {pos : Nat} {st : Status} {sl : Slot} (h : c.slot? pos = some sl)
    (he : sl.isEnded = false) : (c.endOrder pos st).slot? pos = some { sl with status := .ended st } := by
  unfold Chain.endOrder
  simp only [h, he, Bool.false_eq_true, if_false]
  refine Chain.slot_stopOnError ?_ rfl
  rw [Chain.slot_modSlot h]
  simp [Slot.close, he]

theorem positionOf_slot {test : Slot → Bool} : ∀ {l : List Slot} {pos : Nat}, positionOf test l = some pos →
    pos ≠ 0 ∧ ∃ sl, l[pos - 1]? = some sl ∧ test sl = true
  | [], pos, h => by cases h
  | x :: l, pos, h => by
    unfold positionOf at h
    by_cases hx : test x = true
    · simp only [hx, if_true, Option.some.injEq] at h
      subst h
      exact ⟨by decide, x, by simp, hx⟩
    · simp only [hx, Bool.false_eq_true, if_false, Option.map_eq_some_iff] at h
      obtain ⟨k, hk, rfl⟩ := h
      obtain ⟨hk0, sl, hs, ht⟩ := positionOf_slot hk
      refine ⟨by omega, sl, ?_, ht⟩
      obtain ⟨j, rfl⟩ := Nat.exists_eq_succ_of_ne_zero hk0
      simpa using hs

namespace State

/-- The running order of a port, by its name. -/
theorem running_slot {s : State} {p : Port} {r : OrderRef} {sl : Slot} (h : s.running? p = some (r, sl)) :
    r.port = p ∧ s.slot? r = some sl ∧ sl.isRunning = true := by
  unfold running? at h
  split at h
  · cases h
  · rename_i c rest hq
    split at h
    · rename_i pos hpos
      obtain ⟨hp0, x, hx, hr⟩ := positionOf_slot hpos
      have hc : c.slot? pos = some x := by simp [Chain.slot?, hp0, hx]
      simp only [hc, Option.map_some, Option.some.injEq, Prod.mk.injEq] at h
      obtain ⟨rfl, rfl⟩ := h
      refine ⟨rfl, ?_, hr⟩
      simp [slot?, chain?, hq, hc]
    · cases h

theorem chain_endOrder (s : State) (r : OrderRef) (st : Status) (p : Port) (serial : Nat) :
    (s.endOrder r st).chain? p serial =
      if p = r.port ∧ serial = r.serial then (s.chain? p serial).map (Chain.endOrder r.pos st) else s.chain? p serial := by
  unfold chain? endOrder
  by_cases h : p = r.port
  · subst h
    have := find_modChain (f := Chain.endOrder r.pos st) (fun c => Chain.serial_endOrder _ _ c) r.serial serial
      (s.orders r.port).queue
    by_cases h' : serial = r.serial <;> simp_all [modOrders, modOe, orders]
  · simp [h, modOrders, modOe, orders]

/-- An order that has ENDED keeps its record. -/
theorem slot_endOrder_ended {s : State} {r r' : OrderRef} {st : Status} {sl : Slot} (h : s.slot? r = some sl)
    (he : sl.isEnded = true) : (s.endOrder r' st).slot? r = some sl := by
  unfold slot? at h ⊢
  rw [chain_endOrder]
  split
  · cases hc : s.chain? r.port r.serial with
    | none => simp [hc] at h
    | some c =>
      simp only [hc, Option.bind_some] at h
      simpa using Chain.slot_endOrder_ended h he
  · exact h

/-- An order that has not ENDED ends with the record given. -/
theorem slot_endOrder_self {s : State} {r : OrderRef} {st : Status} {sl : Slot} (h : s.slot? r = some sl)
    (he : sl.isEnded = false) : (s.endOrder r st).slot? r = some { sl with status := .ended st } := by
  unfold slot? at h ⊢
  rw [chain_endOrder]
  simp only [and_self, if_true]
  cases hc : s.chain? r.port r.serial with
  | none => simp [hc] at h
  | some c =>
    simp only [hc, Option.bind_some] at h
    simpa using Chain.slot_endOrder_self h he

/-- A running order of a port ends with the seconds it ran. -/
theorem finished_endRunning {s : State} {p : Port} {r : OrderRef} {sl : Slot} (v : Verdict) (c : Code)
    (h : s.running? p = some (r, sl)) : Finished s r v c 0 (s.endRunning p v c) := by
  intro o k hk
  obtain ⟨-, hs, -⟩ := running_slot h
  rw [hs] at hk
  cases hk
  unfold endRunning
  simp only [h]
  rw [slot_endOrder_self hs rfl]
  simp [elapsed, hs]

/-- An order that has ENDED keeps its record when another event hands a flag over. -/
theorem slot_flagEvent_ended {s : State} {r : OrderRef} {sl : Slot} (n : Ix) (b : Bool) (h : s.slot? r = some sl)
    (he : sl.isEnded = true) : (s.flagEvent n b).slot? r = some sl := by
  have h' : (s.setFlag n b (s.flag n b).after).slot? r = some sl := by simpa [slot?, chain?, orders] using h
  unfold flagEvent
  simp only
  split
  · unfold endRunning
    split
    · exact h'
    · exact slot_endOrder_ended h' he
  · exact h'
  · exact h'

theorem running_setFlag (s : State) (n : Ix) (b : Bool) (f : SyncFlag) (p : Port) : (s.setFlag n b f).running? p = s.running? p := by
  unfold running?
  simp [orders]

/-- The order that waits first at a flag ends DONE when the flag is handed over to it. -/
theorem finished_flagEvent {s : State} {n : Ix} {b : Bool} {w : Waiter} {rest : List Waiter} {r : OrderRef} {sl : Slot}
    (hc : (s.flag n b).isSet = false) (hw : (s.flag n b).waiters = w :: rest) (h : s.running? w.port = some (r, sl)) :
    Finished s r .done .none 0 (s.flagEvent n b) := by
  have he : (s.flag n b).effect = .handedOver w.port := by simp [SyncFlag.effect, hc, hw]
  have hr : (s.setFlag n b (s.flag n b).after).running? w.port = some (r, sl) := by rw [running_setFlag, h]
  intro o k hk
  unfold flagEvent
  simp only [he]
  have := finished_endRunning .done .none hr o k (by simpa [slot?, chain?, orders] using hk)
  simpa using this

/-- The order of a port keeps running while an event meets a flag where another port's order waits first, or none. -/
theorem orders_flagEvent_ne {s : State} {n : Ix} {b : Bool} {p : Port}
    (h : ∀ w rest, (s.flag n b).isSet = false → (s.flag n b).waiters = w :: rest → w.port ≠ p) :
    (s.flagEvent n b).orders p = s.orders p := by
  unfold flagEvent
  simp only
  split
  · rename_i q hq
    have hp : q ≠ p := by
      unfold SyncFlag.effect at hq
      split at hq
      · cases hq
      · rename_i hs
        split at hq
        · cases hq
        · rename_i w rest hw
          cases hq
          exact h w rest (by simpa using hs) hw
    unfold endRunning
    split
    · simp [orders]
    · rename_i r sl hr
      obtain ⟨hport, -, -⟩ := running_slot hr
      have : p ≠ r.port := by rw [hport]; exact Ne.symm hp
      simp [endOrder, orders, this]
  · simp [orders]
  · simp [orders]

/-- A source event reaches the flags of its berth whose source it is (R150, R151). -/
theorem postSource_reaches (s : State) (n : Ix) (src : FlagSource) : SourceReached n src s (s.postSource n src) where
  stays := by
    rintro m second ⟨rfl, h⟩ hs
    rw [flag_postSource]
    simp [h, SyncFlag.after, hs]
  becomesSet := by
    rintro m second ⟨rfl, h⟩ hs hw
    rw [flag_postSource]
    simp only [h, and_self, if_true, SyncFlag.after, hs, hw, Bool.false_eq_true, if_false]
  handedOver := by
    rintro m second w rest ⟨rfl, h⟩ hs hw
    refine ⟨?_, fun _ r sl hr o k hk => ?_⟩
    · rw [flag_postSource]
      simp only [h, and_self, if_true, SyncFlag.after, hs, hw, Bool.false_eq_true, if_false]
    · have hdone := finished_flagEvent hs hw hr o k hk
      unfold postSource
      simp only
      cases second with
      | false =>
        simp only [h, if_true]
        split
        · exact slot_flagEvent_ended _ _ hdone rfl
        · exact hdone
      | true =>
        by_cases hf : s.flagSource m false = src.index
        · simp only [hf, if_true]
          have htab : (s.flagEvent m false).table = s.table := (fields_flagEvent s m false).2.2.1
          rw [flagSource_of_table htab, if_pos h]
          by_cases hsame : ∀ x l, (s.flag m false).isSet = false → (s.flag m false).waiters = x :: l → x.port ≠ w.port
          · have ho := orders_flagEvent_ne hsame
            have hr' : (s.flagEvent m false).running? w.port = some (r, sl) := by
              unfold running? at hr ⊢
              rw [ho]
              exact hr
            have hfl : (s.flagEvent m false).flag m true = s.flag m true := by rw [flag_flagEvent]; simp
            have hsl : (s.flagEvent m false).slot? r = some { record := o, status := .running k } := by
              obtain ⟨hp, -, -⟩ := running_slot hr
              unfold slot? chain? at hk ⊢
              rw [hp] at hk ⊢
              rw [ho]
              exact hk
            have := finished_flagEvent (by rw [hfl]; exact hs) (by rw [hfl]; exact hw) hr' o k hsl
            rw [(fields_flagEvent s m false).2.1] at this
            exact this
          · push Not at hsame
            obtain ⟨x, l, hx, hl, hp⟩ := hsame
            exact slot_flagEvent_ended _ _ (finished_flagEvent (sl := sl) hx hl (by rw [hp]; exact hr) o k hk) rfl
        · have hf' : ¬ s.flagSource m false = src.index := hf
          simp only [hf', if_false, h, if_true]
          exact hdone
  others := by
    intro m second h
    rw [flag_postSource]
    split
    · rename_i hc
      exact absurd ⟨hc.1, by rw [hc.1]; exact hc.2⟩ h
    · rfl

/-- What an event at the flags of `u` does is done from `s` too, where `u` differs from `s` in nothing that counts: the flags, the
sources, the second, and the orders of the ports that no berth consents to. -/
theorem sourceReached_before {s u t : State} {n : Ix} {src : FlagSource} (hf : u.oe.flags = s.oe.flags) (ht : u.table = s.table)
    (hn : u.now = s.now) (hc : ∀ m c, (u.berth m).consenting = some c → (s.berth m).consenting = some c)
    (ho : ∀ p, (∀ m c, (s.berth m).consenting = some c → c.port ≠ p) → u.orders p = s.orders p)
    (h : SourceReached n src u t) : SourceReached n src s t := by
  have hfl : ∀ m c, u.flag m c = s.flag m c := flag_of_flags hf
  have hsrc : ∀ m c, u.flagSource m c = s.flagSource m c := flagSource_of_table ht
  obtain ⟨h1, h2, h3, h4⟩ := h
  simp only [hfl, hsrc] at h1 h2 h3 h4
  refine ⟨h1, h2, fun m second w rest hr hs hw => ?_, h4⟩
  obtain ⟨hflag, hdone⟩ := h3 m second w rest hr hs hw
  refine ⟨hflag, fun hcons r sl hrun o k hk => ?_⟩
  have hq : u.orders w.port = s.orders w.port := ho _ hcons
  have hrun' : u.running? w.port = some (r, sl) := by
    unfold running? at hrun ⊢
    rw [hq]
    exact hrun
  have hslot : u.slot? r = s.slot? r := by
    obtain ⟨hp, -, -⟩ := running_slot hrun
    unfold slot? chain?
    rw [hp, hq]
  have := hdone (fun m c hmc => hcons m c (hc m c hmc)) r sl hrun' o k (by rw [hslot]; exact hk)
  rw [hn] at this
  exact this

/-- What follows an event without touching the Order Engine leaves its effect on the flags as it is. -/
theorem flagsReached_after {s t t' : State} {raised : Ix → Bool → Prop} (h : FlagsReached raised s t) (ho : t'.oe = t.oe) :
    FlagsReached raised s t' := by
  have hfl : ∀ m c, t'.flag m c = t.flag m c := flag_of_flags (by rw [ho])
  have hslot : ∀ r, t'.slot? r = t.slot? r := fun r => by
    unfold slot? chain? orders
    rw [ho]
  obtain ⟨h1, h2, h3, h4⟩ := h
  refine ⟨by simpa only [hfl] using h1, by simpa only [hfl] using h2, fun m second w rest hr hs hw => ?_, by
    simpa only [hfl] using h4⟩
  obtain ⟨hflag, hdone⟩ := h3 m second w rest hr hs hw
  exact ⟨by rw [hfl]; exact hflag, fun hcons r sl hrun o k hk => by rw [hslot]; exact hdone hcons r sl hrun o k hk⟩

/-- The end of a consenting order leaves the orders of every other port. -/
theorem orders_endConsenting {s : State} {n : Ix} {p : Port} (v : Verdict) (c : Code) (d : Nat)
    (h : ∀ r, (s.berth n).consenting = some r → r.port ≠ p) : (s.endConsenting n v c d).orders p = s.orders p := by
  unfold endConsenting
  split
  · rfl
  · rename_i r hr
    simp [endOrder, orders, Ne.symm (h r hr)]

/-- A trip reaches the berth's flags whose source is TRIPPED (R22, R150). -/
theorem sourceReached_tripTo (s : State) (n : Ix) (c : TripCause) (v : Nat) (d : BerthState) (p : Option Purpose) :
    SourceReached n .tripped s (s.tripTo n c v d p) := by
  have key : ∀ u : State, u.oe = s.oe → u.table = s.table → u.now = s.now →
      (∀ m, (u.berth m).consenting = (s.berth m).consenting) →
      SourceReached n .tripped s (((u.failConsenting n c.reason).notifyBoth n .trip c.index v).postSource n .tripped) := by
    intro u ho ht hn hc
    refine sourceReached_before (u := (u.failConsenting n c.reason).notifyBoth n .trip c.index v) ?_ ?_ ?_ ?_ ?_
      (postSource_reaches _ _ _)
    · simp [ho]
    · simp [ht]
    · simp [hn]
    · intro m x hx
      rw [← hc]
      by_cases hm : m = n
      · subst hm
        simp [berth] at hx
      · simpa [berth, hm] using hx
    · intro q hq
      have : ((u.failConsenting n c.reason).notifyBoth n .trip c.index v).orders q = (u.failConsenting n c.reason).orders q := by
        simp [orders]
      rw [this, failConsenting, orders_endConsenting]
      · simp [orders, ho]
      · intro r hr
        exact hq n r (by rw [← hc]; exact hr)
  unfold tripTo
  simp only
  refine key _ ?_ ?_ ?_ ?_
  · split <;> simp [withdrawPermit]
  · split <;> simp [withdrawPermit]
  · split <;> simp [withdrawPermit]
  · intro m
    by_cases hm : m = n
    · subst hm
      split
      · simp [withdrawPermit, berth, Berth.stopTimers]
      · unfold commandOpen
        split
        · simp [withdrawPermit, berth, Berth.stopTimers]
        · split <;> simp [withdrawPermit, berth, Berth.stopTimers]
        · simp [withdrawPermit, berth, Berth.stopTimers]
        · simp [withdrawPermit, berth, Berth.stopTimers]
    · split <;> simp [withdrawPermit, berth, hm, berths_commandOpen_ne]

/-- The TRIP notices of a trip (R22). -/
theorem noticed_tripTo (s : State) (n : Ix) (c : TripCause) (v : Nat) (d : BerthState) (p : Option Purpose) {q : Port}
    (hq : q = .t ∨ q = .v n) : Noticed s (s.tripTo n c v d p) q .trip (some n) c.index v := by
  have key : ∀ u : State, u.link = s.link → u.ge.period = s.ge.period →
      Noticed s ((u.notifyBoth n .trip c.index v).postSource n .tripped) q .trip (some n) c.index v := by
    intro u hl hp hopen
    have hlink : ((u.notifyBoth n .trip c.index v).postSource n .tripped).link = (u.notifyBoth n .trip c.index v).link := by
      simp
    have hport : ∀ x, ((u.notifyBoth n .trip c.index v).postSource n .tripped).port x =
        (u.notifyBoth n .trip c.index v).link.get x := fun x => by rw [port, hlink]
    rw [hport] at hopen ⊢
    unfold notifyBoth at hopen ⊢
    rw [isOpen_notify, isOpen_notify, hl] at hopen
    rcases hq with rfl | rfl
    · rw [link_notify_ne _ _ _ _ _ (by simp), notices_notify u .t .trip (some n) c.index v (by rw [hl]; exact hopen), hl, hp]
      rfl
    · rw [notices_notify _ (.v n) .trip (some n) c.index v (by rw [isOpen_notify, hl]; exact hopen),
        link_notify_ne _ _ _ _ _ (by simp), hl]
      simp [hp, port]
  unfold tripTo
  simp only
  split <;> exact key _ (by simp [withdrawPermit]) (by simp [withdrawPermit])

end State

end Sys2Proof.Machine
end

