-- ==== Sys2Proof/Tests/Slice0.lean ====
section
/-! SUPPORT. Small tests: what WellFormed refuses, worked examples of the manual, and for every statement of
Certificates/Slice0/Obligations.lean that has hypotheses a state and operands that meet them, clause by clause. -/

namespace Sys2Proof.Tests

open Sys2Proof.Machine

set_option Elab.async false

/-! ### Small states -/

/-- Port V0. -/
abbrev v0 : Port := .v .i0

/-- A declaration for bus A with closed transition. -/
def declA : Declaration := { freq := .f50, cls := .lv440, trans := .closed, h := 1000, e := 5000, c := 800, d := 60 }

/-- The breaker field that goes with a state. -/
def breakerOf : BerthState → Breaker
  | .closing => .closeSent
  | .parallel | .onShore | .returnWait | .returnParallel | .adopted => .closed
  | .opening => .openSent
  | _ => .opened

/-- After reset, with a ship plugged in at berth 0 and port V0 open, and berth 0 in a state. -/
def ship (st : BerthState) (f : Berth → Berth := id) : State :=
  (((({ State.reset with } : State).modPort v0 fun _ => State.freshPort true).modOutlet .i0 fun o => { o with plug := .present }).modBerth
    .i0 fun b => f { b with
      state := st, plug := .present, bus := .a, breaker := breakerOf st, declaration := some declA
      authorization := some { prio := 1, cap := 3000, withdrawn := false } }).modOe fun oe => { oe with held := false }

/-- A check of berth 0 in flight. -/
def checking (st : BerthState) : State := (ship st).startCheck .i0 .request

/-- A port whose head chain runs one order taken at second 0. -/
def runs (p : Port) (o : Order) (s : State) : State :=
  s.modOrders p fun po => { po with
    queue := [{ serial := 0, count := 0, orders := [{ record := { order := o, stop := false, berth := 0 }, status := .running 0 }] }] }

/-- A port whose queue holds chains of one order not taken each. -/
def holds (p : Port) (o : Order) (counts : List Nat) (s : State) : State :=
  s.modOrders p fun po => { po with
    queue := counts.map fun count =>
      { serial := count, count, orders := [{ record := { order := o, stop := false, berth := 0 }, status := .notTaken }] } }

/-- `PortReady` as a test. -/
def ready (s : State) (p : Port) : Bool :=
  s.powered && (s.port p).isOpen && decide (s.answersWaiting p < 8) && decide ((s.orders p).queue = []) &&
    decide (0 < s.freeSlots) &&
    (Ix.all.all fun n => ([false, true].all fun second => (s.flag n second).waiters.all fun w => decide (w.port ≠ p)) &&
      (s.berth n).consenting.all fun r => decide (r.port ≠ p))

theorem portReady_of_ready {s : State} {p : Port} (h : ready s p = true) : PortReady s p := by
  simp only [ready, Bool.and_eq_true, decide_eq_true_eq, List.all_eq_true] at h
  obtain ⟨⟨⟨⟨⟨h1, h2⟩, h3⟩, h4⟩, h5⟩, h6⟩ := h
  have all : ∀ n : Ix, n ∈ Ix.all := fun n => by cases n <;> decide
  refine ⟨h1, h2, h3, h4, h5, fun n second w hw => ?_, fun n r hr => ?_⟩
  · have := (h6 n (all n)).1 second (by cases second <;> decide) w hw
    exact this
  · have := (h6 n (all n)).2
    rw [hr] at this
    exact of_decide_eq_true this

/-- The answer is the next state `t`. -/
def answers (o : Host.Outcome State Fault Refusal) (t : State) : Bool :=
  match o with
  | .next u => decide (u = t)
  | _ => false

theorem eq_of_answers {o : Host.Outcome State Fault Refusal} {t : State} (h : answers o t = true) : o = .next t := by
  cases o with
  | next u => simp only [answers, decide_eq_true_eq] at h; rw [h]
  | fault _ => cases h
  | refused _ => cases h

/-- Every state of a berth. -/
def allStates : List BerthState :=
  [.vacant, .plugged, .admitting, .syncing, .deadWait, .closing, .parallel, .onShore, .returnWait, .returnParallel, .opening,
   .tripped, .adopted, .lockedOut]

/-- A port of which everything is at hand for an order, in every state of the berth. -/
theorem test_ports_ready_in_every_state : allStates.all (fun st => ready (ship st) .t && ready (ship st) v0) = true := by
  decide +kernel

theorem test_ready_after_reset : PortReady State.reset .t ∧ PortReady (ship .plugged) v0 :=
  ⟨portReady_of_ready (by decide +kernel), portReady_of_ready (by decide +kernel)⟩

/-! ### What WellFormed refuses -/

theorem test_wf_payload : [Instr.chain .t (List.replicate 241 0), .cancel .t (List.replicate 241 0),
    .read .t (List.replicate 241 0), .noticeClear .t (List.replicate 241 0), .noticeSet .t (List.replicate 241 0),
    .noticeMask .t (List.replicate 241 0), .badKindFrame .t 7 (List.replicate 241 0)].all (fun c => !c.wf) = true := by
  decide +kernel
theorem test_wf_kinds : [Instr.badKindFrame .t 1 [], .badKindFrame .t 6 [], .unknownOrderKind .t false 0 1,
    .unknownOrderKind .t false 0 20].all (fun c => !c.wf) = true := by decide
theorem test_wf_voltage : [Instr.plugPresent .i0 1501, .shipSideReport .i0 1501, .busAVoltageCrossing 1501].all
    (fun c => !c.wf) = true := by decide
theorem test_wf_meter : (Instr.shorePowerLow .i0 10000).wf = false := by decide
theorem test_wf_window : [Instr.windowMetChange .i0 ⟨1501, 60000, 0, 1000⟩ 50000, .windowMetChange .i0 ⟨1000, 39999, 0, 1000⟩ 50000,
    .windowMetChange .i0 ⟨1000, 70001, 0, 1000⟩ 50000, .windowMetChange .i0 ⟨1000, 60000, 1801, 1000⟩ 50000,
    .windowMetChange .i0 ⟨1000, 60000, -1801, 1000⟩ 50000, .windowMetChange .i0 ⟨1000, 60000, 0, 1501⟩ 50000,
    .windowMetChange .i0 ⟨1000, 60000, 0, 1000⟩ 70001].all (fun c => !c.wf) = true := by decide
theorem test_wf_power_on : (Instr.powerOn { State.restInputs with busAVoltage := 1501 }).wf = false ∧
    (Instr.powerOn { State.restInputs with busAFrequency := 39999 }).wf = false ∧
    (Instr.powerOn { State.restInputs with
      outlet := State.restInputs.outlet.set .i5 { State.restInputs.outlet.x5 with meterNow := 10000 } }).wf = false := by decide
theorem test_wf_supply_failure : [some (64, [(0, true)]), some (0, []), some (0, [(0, true), (0, true), (0, true), (0, true),
    (0, true), (0, true)]), some (0, [(65536, true)])].all (fun r => !(Instr.supplyFailure r).wf) = true := by decide

/-! ### Worked examples of the manual -/

/-- Power-on with every input at rest gives the state after reset (R185, log entry 6). -/
theorem test_power_on_is_reset :
    exec (.powerOn State.restInputs) { State.reset with powered := false, now := 99 } = .next State.reset :=
  eq_of_answers (by decide +kernel)

/-- The example of R91: 900 steps of 10 kW are 9,000 kW, with check byte 120. -/
theorem test_grid_word_900 : (match exec (.gridWord 3 132 120) State.reset with
    | .next t => decide (t.gi.received = some 9000 ∧ t.gi.ceiling = 9000 ∧ t.gi.state = .current)
    | _ => false) = true := by decide +kernel
theorem test_grid_word_121 : exec (.gridWord 3 132 121) State.reset = .next State.reset := eq_of_answers (by decide +kernel)

/-- The example of R23. -/
theorem test_ack_trip : (match exec (.ackTrip .t false 0) (ship .tripped fun b => { b with tripCause := some .overload }) with
    | .next t => decide ((t.berth .i0).state = .plugged ∧ (t.berth .i0).tripCause = none ∧
        (t.berth .i0).declaration = some declA)
    | _ => false) = true := by decide +kernel

/-- The pass of worked case 1 (section 6.9): B1 before B0 in departure order, rooms 4,445 and 1,900. -/
theorem test_worked_case_1 : flexibleGrants 960 4445 1900
    [⟨.i1, true, 300, 1200, 300, 0, 0⟩, ⟨.i0, false, 480, 2000, 300, 0, 0⟩] = [(.i1, 1200, 1250), (.i0, 2000, 2000)] := by
  decide +kernel

/-- The pass of worked case 2 (section 6.10): scaled shares, the leftover to the earlier departure. -/
theorem test_worked_case_2 : flexibleGrants 960 545 1900
    [⟨.i1, true, 300, 400, 300, 0, 0⟩, ⟨.i0, false, 480, 535, 300, 0, 0⟩] = [(.i1, 267, 279), (.i0, 266, 266)] := by
  decide +kernel

/-- The switch trim of worked case 2. -/
theorem test_worked_trim : (GrantSet.trim 3200 { State.emptySet 3900 960 with
    recs := ⟨⟨900, 2000, 2000, .a⟩, ⟨700, 1200, 1250, .b⟩, ⟨600, 0, 0, .b⟩, ⟨1100, 0, 0, .a⟩, State.noGrant, State.noGrant⟩ }).recs =
    ⟨⟨900, 335, 335, .a⟩, ⟨700, 200, 209, .b⟩, ⟨600, 0, 0, .b⟩, ⟨1100, 0, 0, .a⟩, State.noGrant, State.noGrant⟩ := by
  decide +kernel

/-- No row spells a command in bits. -/
theorem test_no_bits : decodeTableWord 8 0 = none := rfl

/-! ### The machine -/

theorem test_StepRunsFront : ({ State.reset with pending := [.minuteTick, .periodExpiry] } : State).pending =
    .minuteTick :: [.periodExpiry] := rfl

/-- Berth 0 in SYNCING on bus B at 60.000 Hz with the claim and a phase difference, the reference at a frequency. -/
def following (difference : Int) (frequency : Nat) : State :=
  (((ship .syncing fun b => { b with
      bus := .b, syncLimit := some 9, declaration := some { declA with freq := .f60, h := 500 } }).modOutlet .i0 fun o =>
      { o with shipFrequency := 60000, shipVoltage := 1000, busVoltage := 1000 }).modShip .i0 fun x =>
      { x with side := .live, window := .outside, difference }).modPru fun u =>
        { u with mode := .follow .i0, frequency, holder := some ⟨.i0, 0⟩ }

theorem test_EmptyQueueLetsASecondPass : State.reset.pending = [] ∧ (ship .parallel).pending = [] ∧
    State.reset.pru.mode = .free ∧ (State.reset.modPru fun u => { u with mode := .ret }).pru.mode = .ret ∧
    ((following 0 60000).modShip .i0 fun x => { x with side := .between }).pru.mode = .follow .i0 ∧
    ([(101 : Int), 100, 0, -100, -101].all fun d => decide (((following d 60000).ship .i0).difference = d ∧
      ((following d 60000).ship .i0).side = .live ∧ (following d 60000).pru.mode = .follow .i0)) = true ∧
    ((following 0 60000).modPru fun u => { u with mode := .free }).pru.mode ≠ .follow .i0 ∧
    (checking .plugged).inFlight.isSome = true ∧
    ((ship .deadWait fun b => { b with deadCount := .running 1 }).berth .i0).deadCount = .running 1 := by decide +kernel

/-- The worked figure of R39: an offset of 0.020 Hz closes 7.2 degrees in a second. -/
theorem test_phase_closes : ((following 1500 60020).pass.ship .i0).difference = 1500 - 720 ∧
    (following 1500 60020).pass.pru.frequency = 60020 ∧ (following (-50) 60020).pass.pru.frequency = 60000 := by decide +kernel
theorem test_SettledWhenNothingFollows : (∀ n, State.reset.berthNext n = none) ∧ (∀ p, State.reset.portNext p = none) :=
  ⟨fun n => by cases n <;> decide +kernel, fun p => by rcases p with n | _ <;> try cases n
                                                       all_goals decide +kernel⟩
theorem test_UnpoweredTakesNothing : ({ State.reset with powered := false } : State).powered = false ∧
    ∀ i, Instr.minuteTick ≠ .powerOn i := ⟨rfl, fun _ h => nomatch h⟩

theorem test_StepKeepsTableInv : TableInv State.reset ∧ ∃ t, step State.reset = .next t :=
  ⟨by unfold TableInv; decide, _, rfl⟩
theorem test_StepKeepsStoreInv : StoreInv (holds v0 (.connect 60) [0, 1, 2, 3] (ship .plugged)) ∧
    ∃ t, step (holds v0 (.connect 60) [0, 1, 2, 3] (ship .plugged)) = .next t :=
  ⟨⟨by decide +kernel, fun p => by rcases p with n | _ <;> try cases n
                                   all_goals decide +kernel⟩, _, rfl⟩
theorem test_StepKeepsRangeInv : RangeInv State.reset ∧ ∃ t, step State.reset = .next t :=
  ⟨⟨by decide, by decide, fun n => by cases n <;> decide, fun n => by cases n <;> decide⟩, _, rfl⟩

/-! ### Supply -/

/-- Any input can stand at an outlet, so every clause of the derivation is met. -/
theorem test_PowerOnValues (o : OutletInputs) :
    ({ State.restInputs with outlet := State.restInputs.outlet.set .i0 o } : Inputs).outlet.get .i0 = o := rfl
theorem test_PowerOnValues_dead_time : (match exec (.powerOn { State.restInputs with
      outlet := State.restInputs.outlet.set .i0 { State.restInputs.outlet.x0 with plug := .present } }) State.reset with
    | .next t => decide ((t.berth .i0).permitDeadTime = some 20 ∧ (t.berth .i1).permitDeadTime = none)
    | _ => false) = true := by decide +kernel
theorem test_SupplyFailureLeavesEntriesWhole : State.reset.powered = true ∧
    (match exec (.supplyFailure (some (62, [(4, true), (9, true)]))) State.reset with
      | .next t => decide (t.param 62 = 4 ∧ t.param 63 = 5 ∧ t.powered = false)
      | _ => false) = true := ⟨rfl, by decide +kernel⟩

/-! ### Orders -/

theorem test_CommonChecksRefuse : (ready State.reset .t && ready (ship .plugged) v0) = true ∧
    orderRow (.setParameter .t false 64 1 0 0 0 0 0) = some (.t, ⟨.setParameter 64 1 0 0 0 0 0, false, 0⟩) ∧
    (OrderRec.mk (.setParameter 64 1 0 0 0 0 0) false 0).commonCheck .t = some .badArgument ∧
    orderRow (.release v0 true) = some (v0, ⟨.release, true, 0⟩) ∧
    (OrderRec.mk .release true 0).commonCheck v0 = some .notPermitted := by decide +kernel
theorem test_ArgumentRanges : (Order.connect 5).class? = some .vessel ∧ Order.release.class? = some .terminal ∧
    Order.proveClose.class? = some .common ∧ Order.proveClose.namesBerth = true ∧ (1 : Byte).toNat ≠ Ix.toNat .i0 ∧
    5 < (6 : Byte).toNat ∧ (5 : Byte).toNat = Ix.toNat .i5 ∧
    [(60 : Nat), 61].map (fun w => (OrderRec.mk (.connect (BitVec.ofNat 16 w)) false 0).commonCheck v0) =
      [none, some .badArgument] ∧
    [(0 : Nat), 1, 5, 6].map (fun k => (OrderRec.mk (.setParameter 63 (BitVec.ofNat 8 k) 0 0 0 0 0) false 0).commonCheck .t) =
      [some .badArgument, none, none, some .badArgument] := by decide
theorem test_OrderRowIsItsChain : (Instr.connect v0 true 65535).wf = true ∧ (Instr.unknownOrderKind .t false 9 21).wf = true ∧
    orderRow (.connect v0 true 65535) = some (v0, ⟨.connect 65535, true, 0⟩) ∧
    orderRow (.unknownOrderKind .t false 9 21) = some (.t, ⟨.unknown 21, false, 9⟩) := by decide
theorem test_OrderRecordRoundTrip : (∀ k, Order.release = .unknown k → k = 0 ∨ 20 < k.toNat) ∧
    (∀ k, Order.unknown 21 = .unknown k → k = 0 ∨ 20 < k.toNat) := 
  ⟨fun _ h => Order.noConfusion h, fun _ h => by cases h; decide⟩
theorem test_FrameBytesRoundTrip : (State.reset.port .t).isOpen = true ∧ (State.reset.port .t).receive = .hunt ∧
    (List.replicate 240 (0 : Byte)).length ≤ 240 := ⟨rfl, rfl, by
    rw [List.length_replicate]⟩

/-- V0 runs the consenting CONNECT of berth 0 and holds a report as its second chain. -/
def early : State :=
  ((runs v0 (.connect 5) (ship .parallel fun b => { b with consenting := some ⟨v0, 0, 1⟩ })).modOrders v0 fun po =>
    { po with queue := po.queue ++ [{ serial := 1, count := 1, orders := [{ record := ⟨.genOpened, false, 0⟩, status := .notTaken }] }] })

theorem test_PortFollowUps :
    (({ serial := 9, count := 3, orders := [{ record := ⟨.release, false, 0⟩, status := .ended (doneWith 0 0) }] } : Chain).allEnded = true) ∧
    (holds v0 (.connect 5) [7] (ship .plugged)).running? v0 = none ∧
    positionOf (fun sl => decide (sl.status = .notTaken))
      [{ record := ⟨.connect 5, false, 0⟩, status := .notTaken }] = some 1 ∧
    early.running? v0 = some (⟨v0, 0, 1⟩, { record := ⟨.connect 5, false, 0⟩, status := .running 0 }) ∧
    (early.berth .i0).consenting = some ⟨v0, 0, 1⟩ ∧ (early.orders v0).queue.length = 2 ∧
    (early.portNext v0).isSome = true := by decide +kernel

/-! ### Vessel orders -/

theorem test_DeclareAnswers_taken : (allStates.all fun st => ready (ship st) v0 &&
      decide (((ship st).berth .i0).declaration = some declA)) = true ∧
    (Freq.ofByte 50 = .f50 ∧ Freq.ofByte 60 = .f60 ∧ VClass.ofByte 0 = .lv440 ∧ Transition.ofByte 0 = .closed) ∧
    ((ship .tripped).berth .i0).breaker = .opened ∧ (ship .adopted).storedClass .i0 = .lv440 ∧
    (Freq.ofByte 50).bus = ((ship .adopted fun b => { b with declaration := none }).berth .i0).bus ∧
    (allStates.all fun st => ready (ship st fun b => { b with declaration := none }) v0) = true ∧
    ((0 : Word).toNat = 0 ∧ 0 < (1 : Word).toNat ∧ (State.reset.port .t).isOpen = true) := by decide +kernel
theorem test_DeclareAnswers_refused : declA.freq ≠ .ofByte 60 ∧ declA.cls ≠ .ofByte 2 ∧ declA.trans ≠ .ofByte 1 ∧
    ((ship .tripped fun b => { b with breaker := .openSent }).berth .i0).breaker ≠ .opened ∧
    ready (ship .tripped fun b => { b with breaker := .openSent }) v0 = true ∧
    VClass.ofByte 1 ≠ (ship .adopted fun b => { b with declaration := none }).storedClass .i0 := by decide +kernel
theorem test_ConnectStarts : ready (ship .plugged) v0 = true ∧ 1 ≤ (1 : Word).toNat ∧ (60 : Word).toNat ≤ 60 ∧
    (ship .plugged).oe.held = false ∧ ((ship .plugged).berth .i0).declaration = some declA ∧
    declA.cls = (ship .plugged).storedClass .i0 ∧ (ship .plugged).isAdmitted .i0 = false ∧
    (((ship .plugged).berth .i0).authorization.any fun a => !a.withdrawn) = true ∧
    (((ship .plugged fun b => { b with bus := .none }).berth .i0).bus ≠ declA.freq.bus) := by decide +kernel
theorem test_ConnectRefusals : (allStates.all fun st => ready (ship st) v0) = true ∧
    ready ((ship .plugged).modOe fun oe => { oe with held := true }) v0 = true ∧
    ready (ship .plugged fun b => { b with declaration := none }) v0 = true ∧
    (VClass.mv6600 ≠ (ship .plugged fun b => { b with declaration := some { declA with cls := .mv6600 } }).storedClass .i0) ∧
    ready (ship .plugged fun b => { b with authorization := none }) v0 = true ∧
    ready (ship .plugged fun b => { b with authorization := some ⟨1, 3000, true⟩ }) v0 = true := by decide +kernel
theorem test_ReportAnswers : ((ship .parallel).berth .i0).consenting = none ∧ ((ship .returnWait).berth .i0).state = .returnWait ∧
    ([BerthState.opening, .tripped].all fun st =>
      ready (ship st fun b => { b with tripCause := some .parallelTimeout }) v0) = true ∧
    ((ship .tripped).berth .i0).tripCause ≠ some .parallelTimeout ∧ ((ship .plugged).berth .i0).state ≠ .parallel := by
  decide +kernel
theorem test_ReportAnswers_early : early.slot? ⟨v0, 1, 1⟩ = some ⟨⟨.genOpened, false, 0⟩, .notTaken⟩ ∧
    (early.berth .i0).consenting = some ⟨v0, 0, 1⟩ ∧ (⟨v0, 0, 1⟩ : OrderRef) ≠ ⟨v0, 1, 1⟩ ∧
    (early.berth .i0).state = .parallel ∧
    (let s := (early.modBerth .i0 fun b => { b with state := .returnWait }).modOrders v0 fun po =>
      { po with queue := po.queue.take 1 ++ [⟨1, 1, [⟨⟨.genClosed, false, 0⟩, .notTaken⟩]⟩] }
     s.slot? ⟨v0, 1, 1⟩ = some ⟨⟨.genClosed, false, 0⟩, .notTaken⟩ ∧ (s.berth .i0).consenting = some ⟨v0, 0, 1⟩) := by
  decide +kernel
theorem test_DisconnectAnswers : ([BerthState.onShore, .adopted].all fun st => ready (ship st) v0 &&
      decide (((ship st).berth .i0).breaker = .closed)) = true ∧ (1 : Byte).toNat ≤ 1 := by decide +kernel
theorem test_DisconnectAnswers_bus : (let s := (ship .onShore).modGe fun g => { g with
      active := g.active.put .i0 ⟨0, 800, 800, .a⟩, staged := g.staged.put .i0 ⟨1000, 500, 500, .a⟩ }
     ready s v0 && match exec (.disconnect v0 false 0) s with
      | .next t => decide (t.ge.active.recs.get .i0 = ⟨0, 0, 0, .none⟩ ∧ t.ge.staged.recs.get .i0 = ⟨1000, 0, 0, .a⟩)
      | _ => false) = true := by decide +kernel

/-! ### Terminal orders -/

theorem test_AuthorizeAnswers : ready (ship .plugged) .t = true ∧ ((ship .plugged).berth .i0).plug = .present ∧
    (0 : Byte).toNat = Ix.toNat .i0 ∧ (3 : Byte).toNat ≤ 3 ∧ (State.reset.berth .i5).plug = .absent ∧
    (5 : Byte).toNat = Ix.toNat .i5 ∧
    (let s := (ship .plugged).modGe fun g => { g with queue := [⟨.i1, 0, 0⟩, ⟨.i0, 1, 3⟩, ⟨.i2, 2, 1⟩] }
     ready s .t = true ∧ s.ge.queue = [⟨.i1, 0, 0⟩] ++ ⟨.i0, 1, 3⟩ :: [⟨.i2, 2, 1⟩] ∧
       s.ge.queue.Pairwise fun x y => State.ahead x y = true) ∧ (ship .plugged).ge.queue = [] := by decide +kernel
theorem test_WithdrawAnswers : (allStates.all fun st => ready (ship st) .t) = true ∧
    (ship .plugged).isLive .i0 = false ∧ (ship .onShore).isLive .i0 = true ∧
    ([BerthState.closing, .onShore].all fun st => decide (((ship st).berth .i0).breaker = .closed) ||
      decide (((ship st).berth .i0).breaker = .closeSent)) = true ∧
    (BerthState.admitting.isWaiting && !BerthState.opening.isWaiting) = true := by decide +kernel
theorem test_SetReserveStores : ready State.reset .t = true := by decide +kernel
theorem test_SetParameterAnswers : ready (ship .closing) .t = true ∧ (59 : Byte).toNat + (5 : Byte).toNat ≤ 64 ∧
    ((List.range 64).all fun i => !(State.reset.entryBlocked i)) = true ∧
    (41 : Byte).toNat = 41 + 4 * Ix.toNat .i0 ∧ (60 : Byte).toNat = 40 + 4 * Ix.toNat .i5 ∧
    ((ship .closing).berth .i0).state ∉ [.vacant, .plugged, .tripped, .lockedOut] ∧ (63 : Byte).toNat = 63 := by decide +kernel
theorem test_SetParameterAnswers_table : TableInv (ship .plugged) := by unfold TableInv; decide

/-- Berths 0 and 1 on shore, with records of 300 and 700 seconds. -/
def aged : State :=
  (((ship .onShore).modBerth .i1 fun b => { b with state := .onShore, plug := .present, bus := .a, breaker := .closed }).modCheck .i0
    fun c => { c with status := .passed, age := 300 }).modCheck .i1 fun c => { c with status := .passed, age := 700 }

theorem test_SetParameterAnswers_W : ready aged .t = true ∧ (6 : Byte).toNat = 6 ∧ entryClamp 6 (250 : Word).toNat = 250 ∧
    ((aged.berth .i0).breaker = .closed ∧ 250 < (aged.check .i0).age ∧ (aged.check .i0).age ≤ 2 * 250) ∧
    ((aged.berth .i1).breaker = .closed ∧ 2 * 250 < (aged.check .i1).age ∧ (aged.berth .i1).state ≠ .tripped) ∧
    (match exec (.setParameter .t false 6 1 250 0 0 0 0) aged with
      | .next t => decide ((t.berth .i0).state = .onShore ∧ (t.check .i0).lapseWarned = true ∧
          (t.berth .i1).tripCause = some .checkLapsed ∧
          (t.port .t).notices.check.latest = some { berth := some .i1, code := some 2, value := 700, period := 0 })
      | _ => false) = true := by decide +kernel

/-- A write of the phase limit to 2.0° ends a HELD window that is 3.0° off, and leaves one that is 1.5° off. -/
theorem test_SetParameterAnswers_limits : ([(300, Window.outside), (150, .held)].all fun x =>
      let s := ((following x.1 60000).setWindow .i0 .held none).modConverter .i0 fun c => { c with state := .online }
      ready s .t && (Ix.all.all fun n => (s.berthNext n).isNone) &&
        match exec (.setParameter .t false 11 1 20 0 0 0 0) s with
        | .next t => decide ((t.ship .i0).window = x.2)
        | _ => false) = true := by decide +kernel

/-- After reset, with module 0 in a state. -/
def pool (st : ModuleState) (f : Converter → Converter := id) : State :=
  State.reset.modConverter .i0 fun c => f { c with state := st }

theorem test_ModuleServiceAnswers : ([ModuleState.off, .starting, .online, .stopping, .faulted, .outOfService].all fun st =>
      ready (pool st) .t && decide (((pool st).converter .i0).state = st)) = true ∧
    (pool .online).heldFirmB ≤ Config.moduleKw * ((pool .online).online - 1) ∧
    (let s := (ship .onShore fun b => { b with bus := .b, declaration := some { declA with freq := .f60 } }).modConverter .i0
        (fun c => { c with state := .online }) |>.modGrantBerth .i0 fun g => { g with firm := 1000 }
     ready s .t = true ∧ Config.moduleKw * (s.online - 1) < s.heldFirmB) := by decide +kernel
theorem test_CheckBerthDetails :
    ([(ship .plugged).modCs (fun u => { u with queue := [.i1, .i0] }), (ship .plugged).startCheck .i0 .round, ship .plugged].all
      fun s => ready s .t && decide ((s.berth .i0).plug = .present)) = true ∧ Ix.i0 ∉ [Ix.i1] ∧
    (((ship .plugged).startCheck .i0 .round).inFlight.any fun c => decide (c.berth = .i0)) = true := by decide +kernel
theorem test_AckTripAnswers : ([ship .plugged, ship .tripped fun b => { b with stuck := true, breaker := .openSent }, ship .tripped,
      ship .tripped fun b => { b with plug := .absent }].all fun s => ready s .t) = true ∧
    ((ship .tripped).berth .i0).breaker = .opened ∧ ((ship .tripped).berth .i0).stuck = false := by decide +kernel
theorem test_LockoutAnswers : (allStates.all fun st => ready (ship st) .t) = true ∧
    ready (ship .lockedOut fun b => { b with plug := .absent }) .t = true := by decide +kernel
theorem test_ReleaseAnswers : (State.reset.oe.held && State.reset.cs.roundClosed) = true ∧ (ship .plugged).oe.held = false ∧
    ready (State.reset.modCs fun u => { u with roundClosed := false, roundList := [.i0] }) .t = true ∧
    (runs .t .release State.reset).running? .t = some (⟨.t, 0, 1⟩, ⟨⟨.release, false, 0⟩, .running 0⟩) ∧
    (runs .t .release State.reset).slot? ⟨.t, 0, 1⟩ = some ⟨⟨.release, false, 0⟩, .running 0⟩ := by decide +kernel
theorem test_PanelResetClears : ready (early.modOe fun oe => { oe with held := false }) .t = true ∧
    (early.port v0).isOpen = true ∧ (Ix.all.all fun n =>
      decide ((early.berth n).state ≠ .onShore ∧ (early.berth n).state ≠ .adopted)) = true ∧
    NoticeClass.trip ≠ .grant ∧ v0 ≠ .t := by decide +kernel
theorem test_PanelResetBerths : (allStates.all fun st => ready (ship st) .t && decide (((ship st).berth .i0).state = st)) = true := by
  decide +kernel
theorem test_BerthResetAnswers : (allStates.all fun st => ready (ship st) .t) = true ∧
    BerthState.syncing.isWaiting = true := by decide +kernel

/-- A berth of which nothing is in use stands before one in use in a run of entries (R163). -/
theorem test_SetParameterAnswers_middle : (let s := (ship .closing).modBerth .i1 fun b => { b with state := .closing }
     ready s .t = true ∧ s.entryBlocked 39 = false ∧ s.entryBlocked 40 = true ∧ s.entryBlocked 43 = false ∧
       s.entryBlocked 44 = true) ∧
    ready (ship .plugged) .t = true ∧ 64 < (60 : Byte).toNat + (5 : Byte).toNat ∧
    ((List.range 64).all fun i => !((ship .plugged).entryBlocked i)) = true ∧
    (match exec (.setParameter .t false 0 2 2000 1500 0 0 0) (ship .plugged) with
      | .next t => decide (t.gi.ceiling = 1500 ∧ t.param 0 = 2000)
      | _ => false) = true ∧
    (match exec (.setParameter .t false 40 1 2500 0 0 0 0) (ship .plugged) with
      | .next t => decide ((t.berth .i0).rating = 2500)
      | _ => false) = true := by decide +kernel
/-! ### Common orders -/

/-- Flag 1 of berth 0 in a state. -/
def flagged (f : SyncFlag) (s : State) : State :=
  s.modOe fun oe => { oe with flags := oe.flags.set .i0 { oe.flags.x0 with f1 := f } }

theorem test_RaiseFlagDetails : ([State.freshFlag, ⟨true, []⟩, ⟨false, [⟨v0, 9⟩]⟩].all fun f =>
      let s := flagged f (runs v0 (.waitFlag 1 9) (ship .plugged))
      ready s .t && decide (s.flag .i0 (decide ((1 : Byte).toNat = 1)) = f)) = true ∧
    ([State.freshFlag, ⟨true, []⟩, ⟨false, [⟨.t, 9⟩]⟩].all fun f => ready (flagged f (ship .plugged)) v0) = true := by decide +kernel
theorem test_BerthResetAnswers_waiters : (let s := flagged ⟨false, [⟨v0, 9⟩]⟩ (runs v0 (.waitFlag 1 9) (ship .plugged))
     ready s .t = true ∧ (⟨v0, 9⟩ : Waiter) ∈ (s.flag .i0 true).waiters ∧
       s.running? v0 = some (⟨v0, 0, 1⟩, ⟨⟨.waitFlag 1 9, false, 0⟩, .running 0⟩)) ∧
    ((ship .lockedOut fun b => { b with plug := .absent }).berth .i0).plug = .absent ∧
    ready (ship .lockedOut fun b => { b with plug := .absent }) .t = true ∧
    (runs v0 (.connect 5) (ship .syncing fun b => { b with consenting := some ⟨v0, 0, 1⟩ })).running? v0 =
      some (⟨v0, 0, 1⟩, ⟨⟨.connect 5, false, 0⟩, .running 0⟩) ∧
    ready (runs v0 (.connect 5) (ship .syncing fun b => { b with consenting := some ⟨v0, 0, 1⟩ })) .t = true := by decide +kernel
theorem test_WaitFlagAnswers : 1 ≤ (1 : Word).toNat ∧
    (runs .t (.waitFlag 1 9) State.reset).running? .t = some (⟨.t, 0, 1⟩, ⟨⟨.waitFlag 1 9, false, 0⟩, .running 0⟩) ∧
    (runs .t (.waitFlag 1 9) State.reset).slot? ⟨.t, 0, 1⟩ = some ⟨⟨.waitFlag 1 9, false, 0⟩, .running 0⟩ := by decide +kernel

/-- An order of port T waits at flag 1 of berth 0, which has a source. -/
def waitingT (source : Nat) (s : State) : State :=
  (flagged ⟨false, [⟨.t, 9⟩]⟩ (runs .t (.waitFlag 1 9) s)).modTable fun l => l.set 43 source
/-- Berth 0 waits at a dead ship side with every interlock condition met. -/
def proved (st : BerthState) : State :=
  ((((ship st fun b => { b with declaration := some { declA with trans := .opened }, deadCount := .completed }).modShip .i0
    fun x => { x with side := .dead }).modPru fun u => { u with busAPresent := true }).modCheck .i0
      fun c => { c with status := .passed }).modGrantBerth .i0 fun g => { g with admitted := true }

theorem test_ProveCloseReportsFirst : ready (proved .deadWait) .t = true ∧ ready (proved .deadWait) v0 = true ∧
    (proved .deadWait).conditions .i0 = List.replicate 11 true ∧
    ((proved .deadWait).modOe fun oe => { oe with held := true }).conditions .i0 = false :: List.replicate 10 true ∧
    ((proved .deadWait).modBerth .i0 fun b => { b with deadCount := .stopped }).conditions .i0 =
      List.replicate 10 true ++ [false] := by decide +kernel
theorem test_CloseCommandOnlyWhen : ((State.berthNext .i0 (proved .deadWait)).any fun t =>
      decide ((t.berth .i0).breaker = .closeSent)) = true ∧ ((proved .deadWait).berth .i0).breaker ≠ .closeSent := by decide +kernel
theorem test_DelayRunsAndEnds : (runs v0 (.delay 1) (ship .plugged)).running? v0 =
      some (⟨v0, 0, 1⟩, ⟨⟨.delay 1, false, 0⟩, .running 0⟩) ∧
    (runs v0 (.delay 1) (ship .plugged)).slot? ⟨v0, 0, 1⟩ = some ⟨⟨.delay 1, false, 0⟩, .running 0⟩ := by decide +kernel

/-! ### Frames -/

/-- Eight answers wait at port T. -/
def loaded : State := State.reset.modPort .t fun lp => { lp with transmit := List.replicate 8 (.accept 0 0) }

theorem test_OtherFrames : (State.reset.port v0).isOpen = false ∧ State.reset.react = none ∧
    8 ≤ (loaded.port .t).transmit.countP TxFrame.isAnswer ∧
    (loaded.modPort .t fun lp => { lp with receive := .hunt }).react = none ∧ State.reset.answersWaiting .t < 8 := by decide +kernel

/-- Sixty-four slots in use, at ports V1 and V2. -/
def full : State :=
  let chains := (List.range 4).map fun k => Chain.mk k k (List.replicate 8 { record := ⟨.release, false, 0⟩, status := .notTaken })
  (State.reset.modOrders (.v .i1) fun po => { po with queue := chains }).modOrders (.v .i2) fun po => { po with queue := chains }

theorem test_ChainIsCheckedAndQueued : ([([] : List Byte), [0], [9], [1]].all fun payload =>
      decide ((payload.getD 0 0).toNat = 0 ∨ 8 < (payload.getD 0 0).toNat ∨
        payload.length ≠ 1 + 16 * (payload.getD 0 0).toNat)) = true ∧
    (8 :: List.replicate 128 (0 : Byte)).length = 1 + 16 * 8 ∧
    ((holds v0 (.connect 5) [0, 1, 2, 3] (ship .plugged)).orders v0).queue.length = 4 ∧
    full.freeSlots = 0 ∧ (full.orders .t).queue = [] ∧ (full.port .t).isOpen = true ∧
    ((holds v0 (.connect 5) [0, 1, 2] (ship .plugged)).orders v0).queue ≠ [] ∧
    ([1, 2, 8].all fun k => decide ((recordsOf k (List.replicate (16 * k) (0 : Byte))).length = k ∧
      k ≤ (ship .plugged).freeSlots)) = true ∧ ((ship .plugged).orders v0).queue = [] := by decide +kernel
theorem test_CancelAnswers : ((holds v0 (.connect 5) [0, 1, 2] (ship .plugged)).orders v0).queue.map Chain.count = [0, 1, 2] ∧
    (holds v0 (.connect 5) [0, 1, 2] (ship .plugged)).running? v0 = none ∧ (0 : Byte).toNat = v0.code ∧
    (1 : Byte).toNat ≠ v0.code ∧
    (((holds v0 (.connect 5) [0, 1, 2] (ship .plugged)).orders v0).queue.all fun c => decide (c.count ≠ 7)) = true ∧
    ([Order.connect 5, .disconnect 0, .waitFlag 0 9].all fun o =>
      decide ((runs v0 o (ship .syncing)).running? v0 = some (⟨v0, 0, 1⟩, ⟨⟨o, false, 0⟩, .running 0⟩))) = true := by decide +kernel
theorem test_CancelAnswers_aborts : ([BerthState.syncing, .returnWait, .onShore].all fun st =>
      let s := runs v0 (if st = .returnWait then .disconnect 0 else .connect 5) (ship st fun b => { b with consenting := some ⟨v0, 0, 1⟩ })
      (s.running? v0).isSome && s.powered && (s.port v0).isOpen && decide (s.answersWaiting v0 < 8) &&
        match exec (.cancel v0 [0, 0]) s with
        | .next t => decide ((t.berth .i0).state = (if st = .syncing then .plugged else .onShore) ∧ (t.berth .i0).consenting = none)
        | _ => false) = true := by decide +kernel
theorem test_CancelAnswers_waits : ([Order.delay 5, .release, .waitFlag 1 9].all fun o => [Port.t, v0].all fun p =>
      let s := runs p o (ship .plugged)
      decide (s.running? p = some (⟨p, 0, 1⟩, ⟨⟨o, false, 0⟩, .running 0⟩)) && s.powered && (s.port p).isOpen &&
        decide (s.answersWaiting p < 8) && decide (((s.orders p).queue.map Chain.count) = [(0 : Byte).toNat])) = true := by
  decide +kernel
theorem test_ReadIsAnswered : (State.reset.port .t).isOpen = true ∧ ((ship .plugged).port v0).isOpen = true ∧
    State.reset.answersWaiting .t < 8 ∧ 7 < (8 : Byte).toNat ∧ (63 : Byte).toNat ≤ 63 ∧ TableInv State.reset :=
  ⟨rfl, rfl, by decide +kernel, by decide, by decide, by unfold TableInv; decide⟩
theorem test_ReadIsAnswered_tables : ((List.range 8).all fun k => (Table.ofByte (BitVec.ofNat 8 k)).any fun tb =>
      decide ((State.reset.tableRecords .t tb).length ≤ 64) && decide (0 < (State.reset.tableRecords .t tb).length) &&
        decide ((State.reset.tableRecords .t tb).length < 255)) = true ∧
    ([Table.berth, .module, .grant, .charge, .check, .parameter, .notice, .status].all fun tb => tb.readable .t) = true ∧
    ([Table.berth, .grant, .charge, .check, .notice, .status].all fun tb => tb.readable v0) = true ∧
    (1 : Byte).toNat = 1 ∧ (6 : Byte).toNat = NoticeClass.index .overdraw ∧ (11 : Byte).toNat = 6 + Ix.toNat .i5 := by decide +kernel
theorem test_NoticeFramesAct : (255 : Byte).getLsbD (NoticeClass.index .held) = true ∧
    ([NoticeClass.trip, .grant, .returnAdvice, .check, .ceiling, .module, .overdraw, .held].any fun c => c.actsOn .t) = true := by
  decide
theorem test_NoticeFramesAct_masks : (ship .plugged).answersWaiting v0 < 8 ∧
    (NoticeClass.all.all fun cls => !((State.reset.port .t).notices.get cls).masked) = true ∧
    (match exec (.noticeMask .t [255]) State.reset with
      | .next t => NoticeClass.all.all fun cls => ((t.port .t).notices.get cls).masked
      | _ => false) = true := by decide +kernel
theorem test_ReceiveStateMoves : ([Receive.hunt, .kind, .length 1, .payload 1 2 [], .payload 1 2 [0], .crcHigh 1 [0], .crcLow 1 [] 0].all
      fun rx => let s := State.reset.modPort .t fun lp => { lp with receive := rx }
        decide ((s.port .t).receive = rx ∧ (s.port .t).isOpen = true ∧ s.powered = true)) = true ∧
    240 < (241 : Byte).toNat ∧ (240 : Byte).toNat ≤ 240 ∧ Word.ofBytes (Word.hi (frameCrc 1 [])) (Word.lo (frameCrc 1 [])) = frameCrc 1 [] := by
  decide +kernel

/-! ### The grid -/

theorem test_GridWordAccepted : (120 : Byte) = ~~~((3 : Byte) + 132) ∧ (121 : Byte) ≠ ~~~((3 : Byte) + 132) ∧
    ([Assembly.hunt, .collect [], .collect [3], .collect [3, 132]].all fun a =>
      decide ((State.reset.modGi fun g => { g with assembly := a }).gi.assembly = a)) = true := by decide +kernel
theorem test_CeilingFallsBack : State.reset.gi.staleness.isSome = true ∧ State.reset.gi.shed = none ∧ State.reset.param 17 = 0 ∧
    (State.reset.modTable fun l => l.set 17 1).param 17 ≠ 0 ∧
    (State.reset.modGi fun g => { g with shedLine := true, shed := some .atSwitch }).gi.shed = some .atSwitch ∧
    State.reset.ge.staged.pending = false ∧
    (State.reset.modGe fun g => { g with staged := { g.staged with pending := true } }).ge.staged.pending = true := by decide +kernel
theorem test_PlugEvents_opening : ([Purpose.ret, .force, .panel, .trip].all fun why =>
      let s := ship .opening fun b => { b with purpose := some why, tripCause := if why = .trip then some .overload else none }
      decide ((s.berth .i0).breaker = .openSent ∧ (s.berth .i0).plug = .present) &&
        match exec (.plugAbsent .i0) s with
        | .next t => decide ((t.berth .i0).state = (if why = .trip then .opening else .tripped) ∧
            (t.berth .i0).tripCause = some (if why = .trip then .overload else .pilotLost))
        | _ => false) = true := by decide +kernel

/-! ### Field events -/

theorem test_PlugEvents : (State.reset.berth .i0).plug = .absent ∧ (allStates.all fun st =>
      decide (((ship st).berth .i0).plug = .present ∧ ((ship st).berth .i0).state = st)) = true ∧
    ((ship .closing).berth .i0).breaker = .closeSent ∧ (ship .onShore).isLive .i0 = true := by decide +kernel
theorem test_BreakerReports : ((ship .closing).berth .i0).breaker = .closeSent ∧ ((ship .opening).berth .i0).breaker = .openSent ∧
    ([Purpose.ret, .force, .panel, .trip].all fun p =>
      decide (((ship .opening fun b => { b with purpose := some p }).berth .i0).purpose = some p)) = true ∧
    ([Approach.sync, .dead].all fun a =>
      decide (((ship .closing fun b => { b with approach := some a }).berth .i0).adoptOnClose = false)) = true := by decide +kernel
theorem test_BreakerFailuresTrip : (allStates.all fun st => (ship st).powered) = true ∧
    ((ship .onShore).berth .i0).breaker = .closed ∧ Position.inTravel ≠ .closed ∧ ((ship .plugged).berth .i0).breaker = .opened ∧
    Position.inTravel ≠ .opened ∧ ((ship .tripped).berth .i0).state = .tripped ∧
    ([BerthState.closing, .opening].all fun st =>
      ((ship st fun b => { b with motionLimit := some 0, tripCause := some .pilotLost }).berth .i0).motionLimit.isSome) = true := by
  decide +kernel
/-- An event of berth 0 finds port T waiting at flag 1, and a flag 0 without a waiter. -/
theorem test_flags_meet_their_source : ([0, 1, 2, 3, 4].all fun k =>
      let s := waitingT k (ship .onShore)
      decide (s.flagSource .i0 true = k ∧ (s.flag .i0 true).isSet = false ∧ (s.flag .i0 true).waiters = [⟨.t, 9⟩] ∧
        s.running? .t = some (⟨.t, 0, 1⟩, ⟨⟨.waitFlag 1 9, false, 0⟩, .running 0⟩) ∧
        (s.flag .i0 false).waiters = [] ∧ s.flagSource .i0 false = 0)) = true ∧
    (match exec (.breakerDisagreement .i0 .opened) (waitingT 4 (ship .onShore)) with
      | .next t => decide ((t.flag .i0 true).waiters = [] ∧ (t.flag .i0 true).isSet = false ∧ (t.orders .t).queue = [])
      | _ => false) = true := by decide +kernel
theorem test_BreakerReports_adoption : ((ship .adopted).berth .i0).declarationAwaited = false ∧
    ((ship .adopted).berth .i0).authorizationAwaited = false ∧ ((ship .adopted).ship .i0).window = .inactive ∧
    ((ship .adopted).berth .i0).bus ≠ .b ∧ 0 < (pool .online).online := by decide +kernel
theorem test_BreakerFailuresTrip_stuck : (let s := ship .tripped fun b =>
      { b with breaker := .openSent, motionLimit := some 0, tripCause := some .overload }
     (s.berth .i0).motionLimit.isSome = true ∧ (s.berth .i0).breaker = .openSent ∧
       (s.berth .i0).tripCause = some .overload) ∧ TripCause.overload ≠ .breakerStuck ∧
    ((ship .tripped).berth .i0).motionLimit = none ∧ ((ship .opening).berth .i0).breaker ≠ .closeSent ∧
    ((ship .closing).berth .i0).breaker ≠ .openSent := by decide +kernel
theorem test_SelectorSettles : ((ship .admitting fun b =>
      { b with moving := true, commanded := .b, bus := .none, selectorLimit := some 4 }).berth .i0).selectorLimit.isSome = true ∧
    Bus.b ≠ .none ∧ Bus.a ≠ .b ∧ ((ship .plugged).berth .i0).moving = false ∧
    ((ship .plugged).berth .i0).breaker = .opened ∧ ((ship .onShore).berth .i0).breaker ≠ .opened := by decide +kernel

/-- Berth 0 in ADMITTING, admitted, with every condition met but the closing ones. -/
def admitting (trans : Transition) (side : ShipSide) : State :=
  (((ship .admitting fun b => { b with consenting := some ⟨v0, 0, 1⟩, declaration := some { declA with trans } }).modShip .i0
    fun x => { x with side }).modPru fun u => { u with busAPresent := true }).modCheck .i0 (fun c => { c with status := .passed })
    |>.modGrantBerth .i0 fun g => { g with admitted := true }

theorem test_SelectorSettles_admitting :
    ([(Transition.closed, ShipSide.live), (.opened, .live), (.closed, .between), (.closed, .dead)].all fun x =>
      let s := admitting x.1 x.2
      s.isAdmitted .i0 && s.selectorReady .i0 && s.busAvailable .i0 && s.fresh .i0 && s.capacityOnline .i0 &&
        decide ((s.berth .i0).state = .admitting ∧ (s.berth .i0).consenting = some ⟨v0, 0, 1⟩ ∧
          (s.ship .i0).window = .inactive)) = true ∧
    (let s := (admitting .closed .live).modBerth .i0 fun b => { b with bus := .none }
     (s.berth .i0).bus ≠ Freq.bus .f50 ∧ (s.berth .i0).breaker = .opened ∧ (s.berth .i0).moving = false) ∧
    ((admitting .closed .live).modGrantBerth .i0 fun g => { g with admitted := false }).isAdmitted .i0 = false ∧
    (((admitting .closed .live).modPru fun u => { u with busAPresent := false }).busAvailable .i0 = false) ∧
    (((admitting .closed .live).modBerth .i0 fun b => { b with moving := true }).berth .i0).moving = true := by decide +kernel
theorem test_SequenceLimits :
    ((ship .admitting fun b => { b with admissionLimit := some 0 }).berth .i0).admissionLimit.isSome = true ∧
    ((ship .syncing fun b => { b with syncLimit := some 0 }).berth .i0).syncLimit.isSome = true ∧
    ((ship .deadWait fun b => { b with openTransitionLimit := some 0 }).berth .i0).openTransitionLimit.isSome = true ∧
    ([BerthState.parallel, .returnParallel].all fun st =>
      ((ship st fun b => { b with parallelLimit := some 0 }).berth .i0).parallelLimit.isSome) = true ∧
    ((ship .returnWait fun b => { b with returnLimit := some 0 }).berth .i0).returnLimit.isSome = true ∧
    ((ship .admitting).modGe fun g => { g with queue := [⟨.i1, 0, 0⟩, ⟨.i0, 1, 0⟩] }).ge.queue.length = 2 := by decide +kernel
theorem test_BerthSignals : 149 * 20 < ((ship .returnParallel).berth .i0).rating ∧ ((ship .returnParallel).berth .i0).bus ≠ .b ∧
    ((ship .returnParallel).ship .i0).window = .inactive ∧
    ((ship .deadWait fun b => { b with deadCount := .running 0 }).berth .i0).deadCount = .running 0 ∧
    ((ship .plugged fun b => { b with permitDeadTime := some 0 }).berth .i0).permitDeadTime.isSome = true ∧
    (((ship .syncing).modShip .i0 fun x => { x with window := .settling }).ship .i0).window = .settling ∧
    (State.reset.pru.busAPresent = true ↔ 800 < 800) ∧ (State.reset.pru.busAPresent = true ↔ 800 ≤ 799) ∧
    (State.reset.modPru fun u => { u with busATimer := some 1 }).pru.busATimer.isSome = true ∧
    (State.reset.modPru fun u => { u with mode := .ret }).pru.mode = .ret := by decide +kernel
theorem test_ShipSideActs : ((ship .syncing).ship .i0).side = .between ∧ ((ship .syncing).berth .i0).plug = .present ∧
    ((ship .deadWait).berth .i0).deadCount = .stopped ∧ ((proved .deadWait).ship .i0).side ≠ .live ∧
    sideOf 100 = ((ship .syncing).ship .i0).side ∧ sideOf 99 ≠ sideOf 100 ∧ sideOf 799 ≠ sideOf 800 ∧
    (((ship .syncing).modShip .i0 fun x => { x with window := .outside, side := .live }).ship .i0).window = .outside ∧
    ((checking .deadWait).inFlight.any fun c => decide (c.berth = .i0 ∧ c.mode = .dead)) = true ∧
    ((checking .deadWait).ship .i0).side = .between ∧ (checking .deadWait).inputs.instrumentFault = false ∧
    ((checking .deadWait).modInputs fun i => { i with instrumentFault := true }).inputs.instrumentFault = true := by decide +kernel
theorem test_ShipSideActs_window : (following 0 60000).powered = true ∧
    sideOf 1000 = ((following 0 60000).ship .i0).side ∧ sideOf 799 ≠ ((following 0 60000).ship .i0).side ∧
    ((following 0 60000).modConverter .i0 fun c => { c with state := .online }).windowMet .i0 = true ∧
    (following 0 60000).windowMet .i0 = false ∧
    ((following 0 60000).setWindow .i0 .held none |>.ship .i0).window = .held ∧
    (let s := ((following 0 60000).modBerth .i0 fun b => { b with bus := .a }).modPru fun u => { u with busAPresent := true }
     (s.modInputs fun i => { i with busAFrequency := 60000 }).windowMet .i0 = true) := by decide +kernel

/-! ### Checks -/

theorem test_ChecksComplete : (([BerthState.plugged, .syncing, .onShore].all fun st => (checking st).inFlight.isSome) = true) ∧
    (checking .plugged).passThreshold ≤ 2000 ∧ 1999 < (checking .plugged).passThreshold ∧
    ((checking .onShore).berth .i0).breaker = .closed ∧ (checking .onShore).isLive .i0 = true ∧
    ((checking .plugged).check .i0).before = some .none ∧ State.reset.cs.scanner = .idle ∧
    (State.reset.modCs fun u => { u with scanner := .faulted, queue := [.i3] }).cs.scanner = .faulted ∧
    (ship .plugged).roundRobin (ship .plugged).cs.pointer = true ∧
    (Ix.all.all fun n => !(State.reset.roundRobin n)) = true ∧
    ([BerthState.plugged, .syncing, .onShore].all fun st => (checking st).inFlight.all fun c =>
      decide (c.berth ∉ (checking st).cs.queue)) = true ∧
    (let s := (ship .plugged).modCs fun u => { u with pointer := .i4 }
     s.cs.queue = [] ∧ s.cs.pointer.circle = [.i4, .i5] ++ .i0 :: [.i1, .i2, .i3] ∧ s.roundRobin .i4 = false ∧
       s.roundRobin .i5 = false ∧ s.roundRobin .i0 = true) ∧
    (ship .onShore).roundRobin .i0 = true ∧ ((ship .onShore).berth .i0).breaker ≠ .opened := by decide +kernel
theorem test_ChecksComplete_table : TableInv (checking .plugged) ∧ TableInv (checking .onShore) :=
  ⟨by unfold TableInv; decide +kernel, by unfold TableInv; decide +kernel⟩
/-- The completion of a check and the fault at one instant, the completion first (R68): the result stands, no check starts, and the
notice names no berth. -/
theorem test_ChecksComplete_fault : (let s : State := { checking .plugged with
      pending := [.checkTimerExpiry 3000, .instrumentFaultAsserted] }
     match step s with
     | .next t => decide (t.cs.scanner = .faulted ∧ (t.check .i0).status = .passed ∧ t.cs.pointer = s.cs.pointer ∧
         t.inputs.instrumentFault = false) &&
       (match step t with
        | .next u => decide (u.cs = t.cs ∧ u.inputs.instrumentFault = true ∧
            (u.port .t).notices.check.latest = some { berth := none, code := some 3, value := 0, period := 0 })
        | _ => false)
     | _ => false) = true ∧
    (State.reset.modCs fun u => { u with scanner := .faulted }).inputs.instrumentFault = false ∧
    ((State.reset.modCs fun u => { u with scanner := .faulted }).modInputs fun i =>
      { i with instrumentFault := true }).inputs.instrumentFault = true := by decide +kernel
/-- A PASSED completion and CHECK_LAPSED_TRIP at one instant, in both orders (R67): the completion first leaves nothing to trip for,
and the trip first has the PASSED result recorded for the tripped berth. A trip that comes behind its warning trips. -/
theorem test_CheckAges_passed : (let s := (checking .onShore).modCheck .i0 fun c => { c with age := 481 }
     let after (cs : List Instr) : Host.Outcome State Fault Refusal := cs.foldl (fun o c => match o with
       | .next t => exec c t
       | x => x) (.next s)
     let reads (cs : List Instr) (cause : Option TripCause) (age : Nat) (status : CheckStatus) : Bool := match after cs with
       | .next t => decide ((t.berth .i0).tripCause = cause ∧ (t.check .i0).age = age ∧ (t.check .i0).status = status)
       | _ => false
     reads [.checkTimerExpiry 3000, .checkLapsedTrip .i0] none 0 .passed &&
     reads [.checkLapsedTrip .i0, .checkTimerExpiry 3000] (some .checkLapsed) 0 .passed &&
     reads [.checkTimerExpiry 3000, .lapseWarning .i0, .checkLapsedTrip .i0] (some .checkLapsed) 481 .inFlight) = true := by
  decide +kernel
theorem test_CheckAges : ((ship .plugged).berth .i0).breaker = .opened ∧ ((ship .onShore).check .i0).age = 0 ∧
    (aged.berth .i0).breaker = .closed ∧ aged.isLive .i0 = true ∧ 0 < (aged.check .i0).age ∧
    ((ship .onShore).berth .i0).breaker = .closed ∧ ((ship .onShore).check .i0).lapseWarned = false ∧
    ((proved .plugged).check .i0).status = .passed := by decide +kernel
theorem test_CheckAges_table : TableInv aged := by unfold TableInv; decide +kernel

/-! ### Modules and grants -/

theorem test_ModuleEvents :
    ((pool .starting fun c => { c with startLimit := some 0 }).converter .i0).startLimit.isSome = true ∧
    (((pool .starting).modModuleInputs .i0 fun i => { i with ready := true }).moduleInputs .i0).ready = true ∧
    ((pool .stopping fun c => { c with stopTimer := some 0, outPending := true }).converter .i0).stopTimer.isSome = true ∧
    (((pool .online).modModuleInputs .i0 fun i => { i with fault := true }).moduleInputs .i0).fault = true ∧
    ((pool .faulted).converter .i0).state = .faulted ∧
    ((ship .onShore fun b => { b with bus := .b }).berth .i0).bus = .b ∧ (ship .onShore).online = 0 ∧
    (let s : State := { pool .starting with pending := [.moduleReady .i0] }
     s.pending.head? = some (.moduleReady .i0) ∧ (s.moduleInputs .i0).ready = false) ∧
    (pool .starting).pending.head? ≠ some (.moduleReady .i0) ∧
    ((pool .stopping).modCp fun u => { u with target := 1 }).online + (pool .stopping).starting < 1 ∧
    (pool .stopping).cp.target ≤ (pool .stopping).online + (pool .stopping).starting ∧
    (pool .stopping).cp.pointer.circle = [] ++ .i0 :: [.i1, .i2, .i3, .i4, .i5] ∧
    ((pool .stopping).modCp fun u => { u with pointer := .i5 }).cp.pointer.circle = [.i5] ++ .i0 :: [.i1, .i2, .i3, .i4] ∧
    ((pool .online).moduleInputs .i0).fault = false := by decide +kernel

/-- Berth 0 on shore at bus A with a pending staged set that grants it 500 kW, and a departure. -/
def granted : State :=
  ((ship .onShore).modGe fun g => { g with
    active := { g.active with recs := g.active.recs.set .i0 ⟨1000, 800, 800, .a⟩ }
    staged := { g.staged with recs := g.staged.recs.set .i0 ⟨1000, 500, 500, .a⟩, pending := true, effective := 1 } }).modGrantBerth
      .i0 fun g => { g with admitted := true, due := true, charge := { g.charge with e := 10, d := 1 } }

theorem test_PeriodTurns : State.reset.powered = true ∧ (State.reset.modGe fun g => { g with period := 65535 }).ge.period = 65535 ∧
    granted.ge.staged.pending = true ∧ State.reset.ge.staged.pending = false ∧ (granted.port v0).isOpen = true ∧
    (match exec .periodExpiry granted with
      | .next t => decide ((t.ge.active.recs.get .i0).flexible = 500 ∧ t.ge.period = 1 ∧ t.ge.staged.effective = 2 ∧
          (t.ge.staged.recs.get .i0).firm = 1000 ∧ 0 < (t.ge.staged.recs.get .i0).flexible ∧
          ((t.port v0).notices.grant.latest.any fun x => decide (x.code = some 1)) = true)
      | _ => false) = true := by decide +kernel
/-- Berth 0 on shore, with the import below its firm grant: a pass sets OVER_CEILING and advises its return. -/
def overloaded (a : Nat) (freq : Freq) (bus : Bus) : State :=
  (ship .onShore fun b => { b with bus, declaration := some { declA with freq } }).modGe fun g =>
    { g with active := { g.active with a } }

theorem test_PeriodTurns_advice : (let s := overloaded 100 .f50 .a
     s.ge.active.a < s.firmImport ∧ s.ge.overCeiling = false ∧ s.firmB ≤ s.busBCapacity ∧
       (s.compute.port v0).notices.returnAdvice.latest = some { berth := some .i0, code := some 3, value := 900, period := 0 }) ∧
    (let s := overloaded 9000 .f60 .b
     s.firmImport ≤ s.ge.active.a ∧ s.busBCapacity < s.firmB ∧ s.ge.overCapacity = false ∧
       (s.compute.port .t).notices.ceiling.latest = some { berth := none, code := some 7, value := 1000, period := 0 }) ∧
    (let s := (overloaded 9000 .f50 .a).modGe fun g => { g with overCeiling := true, overCapacity := true }
     s.firmImport ≤ s.ge.active.a ∧ s.firmB ≤ s.busBCapacity ∧
       (s.compute.port .t).notices.ceiling.latest = some { berth := none, code := some 8, value := 0, period := 0 }) ∧
    (let s := (overloaded 9000 .f50 .a).modGe fun g => { g with overCeiling := true }
     s.compute.ge.overCapacity = s.ge.overCapacity ∧
       (s.compute.port .t).notices.ceiling.latest = some { berth := none, code := some 6, value := 8000, period := 0 }) := by
  decide +kernel
theorem test_PeriodTurns_advised : AdvisedNext (overloaded 100 .f50 .a)
    (fun m => ((overloaded 100 .f50 .a).berth m).state ∈ [.onShore, .adopted]) .i0 :=
  ⟨by decide +kernel, fun m h hm => by cases m <;> first | exact absurd rfl hm | exact absurd h (by decide +kernel)⟩
theorem test_PeriodTurns_advised_capacity : AdvisedNext (overloaded 100 .f60 .b)
    (fun m => ((overloaded 100 .f60 .b).berth m).state ∈ [.onShore, .adopted] ∧ ((overloaded 100 .f60 .b).berth m).bus = .b) .i0 :=
  ⟨by decide +kernel, fun m h hm => by cases m <;> first | exact absurd rfl hm | exact absurd h.1 (by decide +kernel)⟩

/-- Two modules ONLINE with running seconds and a stop count. -/
def twoOnline (seconds0 seconds1 stops : Nat) : State :=
  ((pool .online fun c => { c with seconds := seconds0 }).modConverter .i1 fun c =>
    { c with state := .online, seconds := seconds1 }).modCp fun u => { u with stopCount := stops }

/-- Berth 0 on shore at bus B with a firm figure of 1,000 kW held, two modules ONLINE, and a stop count. -/
def onB (stops : Nat) : State :=
  let s := twoOnline 5 9 stops
  { ship .onShore fun b => { b with bus := .b, declaration := some { declA with freq := .f60 } } with cp := s.cp }.modGrantBerth .i0
    fun g => { g with admitted := true, firm := 1000 }

theorem test_PeriodTurns_publication : (twoOnline 5 9 5).targetFor 0 = 0 ∧ (twoOnline 5 9 5).online = 2 ∧
    (twoOnline 5 9 5).heldFirmB ≤ 800 * ((twoOnline 5 9 5).online - 1) ∧
    (((twoOnline 5 9 5).publish 0).converter .i1).state = .stopping ∧
    (((twoOnline 5 5 6).publish 0).converter .i0).state = .stopping ∧ ((twoOnline 5 9 4).publish 0).online = 2 ∧
    ((twoOnline 5 9 4).publish 0).cp.stopCount = 5 ∧ ((twoOnline 5 9 4).publish 1600).cp.stopCount = 0 ∧
    (((twoOnline 5 9 4).publish 1601).converter .i2).state = .starting ∧
    800 * ((onB 5).online - 1) < (onB 5).heldFirmB ∧ ((onB 5).publish 0).online = 2 := by decide +kernel
/-- A lower O reaches FirmB at the computation, not at the AUTHORIZE (R160). -/
theorem test_ModuleServiceAnswers_held : ready (onB 0) .t = true ∧
    (match exec (.authorize .t false 0 1 500) (onB 0) with
      | .next t => decide ((t.berth .i0).rating = 500 ∧ t.heldFirmB = 1000 ∧ t.compute.heldFirmB = 500 ∧
          t.canSpare = false ∧ t.compute.canSpare = true)
      | _ => false) = true := by decide +kernel
theorem test_GrantsStayInBounds_trims : (let g : GrantSet := { State.emptySet 3900 960 with
      recs := ⟨⟨900, 2000, 2000, .a⟩, ⟨700, 1200, 1250, .b⟩, ⟨600, 0, 0, .b⟩, ⟨1100, 0, 0, .a⟩, State.noGrant, State.noGrant⟩ }
     0 < g.sumOn .b GrantRec.flexible ∧ 1600 < g.sumOn .b GrantRec.firm + g.sumOn .b GrantRec.flexible ∧
       g.sumOn .b GrantRec.firm + g.sumOn .b GrantRec.flexible ≤ 3200 ∧
       0 < sumSix (fun k => (g.recs.get k).share) ∧ g.a < g.firmImport + sumSix (fun k => (g.recs.get k).share)) ∧
    (State.emptySet 3900 960).sumOn .b GrantRec.flexible = 0 ∧ sumSix (fun k => ((State.emptySet 3900 960).recs.get k).share) = 0 ∧
    (let s := granted.modGe fun g => { g with active := { g.active with a := 1200 }, staged := { g.staged with a := 1200 } }
     ((s.trimBoth.ge.active.recs.get .i0).flexible < (s.ge.active.recs.get .i0).flexible ∧
       (s.trimBoth.ge.staged.recs.get .i0).flexible < (s.ge.staged.recs.get .i0).flexible)) ∧
    (let s := granted.modGe fun g => { g with active := { g.active with a := 1200 }, staged := { g.staged with a := 9000 } }
     ((s.trimBoth.ge.active.recs.get .i0).flexible < (s.ge.active.recs.get .i0).flexible ∧
       s.trimBoth.ge.staged = s.ge.staged)) := by decide +kernel
theorem test_GrantsStayInBounds :
    (∀ m, ((State.emptySet 4000 965).recs.get m).bus ≠ .b →
      ((State.emptySet 4000 965).recs.get m).share = ((State.emptySet 4000 965).recs.get m).flexible) ∧
    (let s := ship .admitting
     (s.berth .i0).declaration = some declA ∧ s.admissionTest .i0 = true) ∧
    (let s := (ship .admitting fun b => { b with bus := .b, declaration := some { declA with freq := .f60 } })
     (s.berth .i0).declaration = some { declA with freq := .f60 } ∧ s.admissionTest .i0 = true) :=
  ⟨fun m _ => by cases m <;> rfl, by decide +kernel, by decide +kernel⟩
theorem test_ChargeAccounts : (((ship .onShore).modGrantBerth .i0 fun g => { g with due := true }).grantBerth .i0).due = true ∧
    ((ship .onShore).grantBerth .i0).due = false ∧ (ship .onShore).isLive .i0 = true ∧ (ship .plugged).isLive .i0 = false ∧
    ((ship .onShore).berth .i0).rating < 3001 ∧ ((ship .onShore).grantBerth .i0).overRating = 0 ∧
    1 ≤ (((ship .onShore).modGrantBerth .i0 fun g => { g with overRating := 1 }).grantBerth .i0).overRating ∧
    ((granted.grantBerth .i0).charge.d ≤ 1 ∧ 0 < (granted.grantBerth .i0).charge.e ∧
      (granted.grantBerth .i0).charge.warned = false ∧ (granted.grantBerth .i0).due = true) ∧
    ((granted.modGrantBerth .i0 fun g => { g with adoptionUnread := true }).grantBerth .i0).adoptionUnread = true ∧
    (granted.grantBerth .i0).adoptionUnread = false ∧ (granted.berth .i0).firmFromMeter = false ∧
    ((ship .adopted fun b => { b with declaration := none }).berth .i0).firmFromMeter = true ∧
    (granted.ge.active.recs.get .i0).total * 110 < 1981 * 100 ∧ ¬ (granted.ge.active.recs.get .i0).total * 110 < 1980 * 100 ∧
    2 ≤ ((granted.modGrantBerth .i0 fun g => { g with overGrant := 2 }).grantBerth .i0).overGrant ∧
    (State.reset.berth .i0).plug = .absent := by decide +kernel

/-- A reading below 0 is taken as 0, one above 9,999 as 9,999 (R128). -/
theorem test_ChargeAccounts_clamp : ([((-5 : Int), 0), (10000, 9999)].all fun x => decide (((x.2 : Nat) : Int) = max 0 (min x.1 9999)) &&
      match exec (.meterReading .i0 (some x.1)) granted with
      | .next t => decide ((t.grantBerth .i0).reading = some (x.2, 65535))
      | _ => false) = true := by decide +kernel

/-- An IMMEDIATE shed of `granted`: SHED_ON to T, GRANT_RESTAGED with the firm grant to V0. -/
theorem test_CeilingFallsBack_notices : 0 < (granted.ge.active.recs.get .i0).flexible ∧
    0 < (granted.ge.staged.recs.get .i0).flexible ∧ granted.ge.staged.pending = true ∧ granted.gi.shed = none ∧
    granted.param 17 = 0 ∧
    (match exec .shedAsserted granted with
      | .next t => decide ((t.port .t).notices.ceiling.latest = some { berth := none, code := some 3, value := 0, period := 0 } ∧
          (t.port v0).notices.grant.latest = some { berth := some .i0, code := some 3, value := 1000, period := 1 })
      | _ => false) = true := by decide +kernel

/-! ### The follow claim -/

theorem test_FollowClaimMoves :
    ((ship .admitting fun b => { b with bus := .b }).berth .i0).bus = .b ∧ (ship .admitting).pru.holder = none ∧
    (ship .admitting).pru.busBInUse = false ∧ (ship .admitting).pru.waiting = [] ∧
    (following 0 60000).holdsClaim .i0 = true ∧ ((following 0 60000).berth .i0).syncLimit.isSome = true ∧
    (following 0 60000).pru.waiting = [] ∧ ((following 0 60000).modPru fun u => { u with busBInUse := true }).pru.busBInUse = true ∧
    ((following 0 60000).modPru fun u => { u with waiting := [⟨.i1, 3⟩, ⟨.i2, 4⟩] }).pru.waiting = ⟨.i1, 3⟩ :: [⟨.i2, 4⟩] ∧
    (let s := (((following 0 60000).setWindow .i0 .held none).modConverter .i0 fun c => { c with state := .online }).modCheck .i0
        (fun c => { c with status := .passed }) |>.modGrantBerth .i0 fun g => { g with admitted := true }
     s.syncCloseDue .i0 = true ∧ s.windowMet .i0 = true ∧ s.holdsClaim .i0 = true) ∧
    (let s := (following 0 60000).modBerth .i1 fun b => { b with bus := .b, breaker := .closed }
     s.busBUsed = true ∧ s.pru.busBInUse = false ∧ s.pru.holder.isSome = true) ∧
    (let s := State.reset.modPru fun u => { u with busBInUse := true, mode := .ret, frequency := 59990, waiting := [⟨.i1, 3⟩] }
     s.busBUsed = false ∧ s.pru.holder = none) := by decide +kernel

end Sys2Proof.Tests
end

/-! Support for the obligations about the berth records and the connection sequence: frames, orders at a ready port, and what the
shared operations of the scanner and of the reference leave. -/

namespace Sys2Proof.Machine

/-! ### Frames and rows -/

/-- A frame, field by field. -/
theorem onlyTouches_of_fields {l : List Part} {s t : State} (power : Part.power ∉ l → t.powered = s.powered)
    (time : Part.time ∉ l → t.now = s.now) (waiting : Part.waiting ∉ l → t.pending = s.pending)
    (table : Part.table ∉ l → t.table = s.table) (inputs : Part.inputs ∉ l → t.inputs = s.inputs)
    (link : ∀ p, Part.link p ∉ l → t.link.get p = s.link.get p)
    (orders : ∀ p, Part.orders p ∉ l → t.oe.ports.get p = s.oe.ports.get p)
    (flags : Part.flags ∉ l → t.oe.flags = s.oe.flags) (held : Part.held ∉ l → t.oe.held = s.oe.held)
    (berth : ∀ n, Part.berth n ∉ l → t.berths.get n = s.berths.get n)
    (reference : Part.reference ∉ l → t.pru = s.pru) (scanner : Part.scanner ∉ l → t.cs = s.cs)
    (pool : Part.pool ∉ l → t.cp = s.cp) (grid : Part.grid ∉ l → t.gi = s.gi)
    (grants : Part.grants ∉ l → t.ge = s.ge) : OnlyTouches l s t := by
  intro b hb
  cases b
  case power => exact power hb
  case time => exact time hb
  case waiting => exact waiting hb
  case table => exact table hb
  case inputs => exact inputs hb
  case link p => exact link p hb
  case orders p => exact orders p hb
  case flags => exact flags hb
  case held => exact held hb
  case berth n => exact berth n hb
  case reference => exact reference hb
  case scanner => exact scanner hb
  case pool => exact pool hb
  case grid => exact grid hb
  case grants => exact grants hb

theorem Port.mem_all (p : Port) : p ∈ Port.all := by
  cases p with
  | t => simp
  | v n => cases n <;> simp

theorem mem_allOrders (p : Port) : Part.orders p ∈ allOrders := List.mem_map_of_mem (Port.mem_all p)

theorem mem_allLinks (p : Port) : Part.link p ∈ allLinks := List.mem_map_of_mem (Port.mem_all p)

/-- A frame that leaves the Order Engine's records of all ports open, field by field. -/
theorem onlyTouches_allOrders {l : List Part} {s t : State} (power : Part.power ∉ l → t.powered = s.powered)
    (time : Part.time ∉ l → t.now = s.now) (waiting : Part.waiting ∉ l → t.pending = s.pending)
    (table : Part.table ∉ l → t.table = s.table) (inputs : Part.inputs ∉ l → t.inputs = s.inputs)
    (link : ∀ p, Part.link p ∉ l → t.link.get p = s.link.get p)
    (flags : Part.flags ∉ l → t.oe.flags = s.oe.flags) (held : Part.held ∉ l → t.oe.held = s.oe.held)
    (berth : ∀ n, Part.berth n ∉ l → t.berths.get n = s.berths.get n)
    (reference : Part.reference ∉ l → t.pru = s.pru) (scanner : Part.scanner ∉ l → t.cs = s.cs)
    (pool : Part.pool ∉ l → t.cp = s.cp) (grid : Part.grid ∉ l → t.gi = s.gi)
    (grants : Part.grants ∉ l → t.ge = s.ge) : OnlyTouches (l ++ allOrders) s t := by
  have out : ∀ b, b ∉ l ++ allOrders → b ∉ l := fun b h h' => h (List.mem_append_left _ h')
  exact onlyTouches_of_fields (fun h => power (out _ h)) (fun h => time (out _ h)) (fun h => waiting (out _ h))
    (fun h => table (out _ h)) (fun h => inputs (out _ h)) (fun p h => link p (out _ h))
    (fun p h => absurd (List.mem_append_right _ (mem_allOrders p)) h) (fun h => flags (out _ h)) (fun h => held (out _ h))
    (fun n h => berth n (out _ h)) (fun h => reference (out _ h)) (fun h => scanner (out _ h)) (fun h => pool (out _ h))
    (fun h => grid (out _ h)) (fun h => grants (out _ h))

/-- An event on a part that is supplied. -/
theorem event_next {f : State → State} {s : State} (h : s.powered = true) : event f s = .next (f s).settle := by
  simp [event, h]

theorem Ix.toNat_le (n : Ix) : n.toNat ≤ 5 := by cases n <;> decide

/-- The common checks pass a vessel order at its port. -/
theorem commonCheck_vessel {n : Ix} {x : Order} {stop : Bool} {b : Byte} (hc : x.class? = some .vessel)
    (hok : x.badArgument = false) : (OrderRec.mk x stop b).commonCheck (.v n) = none := by
  simp [OrderRec.commonCheck, OrderRec.notPermitted, hc, hok]

/-- The common checks pass a terminal order at port T that names a berth of the part. -/
theorem commonCheck_terminal {n : Ix} {x : Order} {stop : Bool} {b : Byte} (hc : x.class? = some .terminal)
    (hb : b.toNat = n.toNat) (hok : x.badArgument = false) : (OrderRec.mk x stop b).commonCheck .t = none := by
  have : ¬ 5 < b.toNat := by have := Ix.toNat_le n; omega
  simp [OrderRec.commonCheck, OrderRec.notPermitted, hc, hok, this]

/-! ### The Check Scanner -/

namespace State

variable (s : State)

/-- What the choice of a check can do: nothing, or the start of the queue's head or of a berth that the search finds (R61, R62). -/
theorem chooseCheck_cases : s.chooseCheck = s ∨ s.cs.scanner = .idle ∧ ∃ m origin,
    s.chooseCheck = (s.modCs fun u => { u with queue := u.queue.tail }).startCheck m origin ∧
      ((origin = .request ∧ ∃ rest, s.cs.queue = m :: rest) ∨ (origin = .round ∧ s.cs.queue = [] ∧ s.roundRobin m = true)) := by
  unfold chooseCheck
  split
  · exact .inl rfl
  · exact .inl rfl
  · rename_i hidle
    split
    · rename_i m rest hq
      refine .inr ⟨hidle, m, .request, ?_, .inl ⟨rfl, rest, hq⟩⟩
      simp [modCs, hq]
    · rename_i hq
      split
      · rename_i m hm
        refine .inr ⟨hidle, m, .round, ?_, .inr ⟨rfl, hq, List.find?_some hm⟩⟩
        have : (s.modCs fun u => { u with queue := u.queue.tail }) = s := by
          simp only [modCs, hq, List.tail_nil]
          rw [← hq]
        rw [this]
      · exact .inl rfl

/-- A check that starts takes its berth's record into flight, and no other. -/
theorem check_startCheck (n m : Ix) (o : CheckOrigin) : (s.startCheck n o).check m = if m = n then
    { s.check n with status := .inFlight, before := some (s.check n).status.kept, mode := some (s.checkMode n) }
    else s.check m := by
  simp [startCheck, check, Six.get_set, eq_comm]

@[simp] theorem scanner_startCheck (n : Ix) (o : CheckOrigin) : (s.startCheck n o).cs.scanner =
    .running { berth := n, mode := s.checkMode n, origin := o, timer := (s.checkMode n).seconds } := rfl

@[simp] theorem queue_startCheck (n : Ix) (o : CheckOrigin) : (s.startCheck n o).cs.queue = s.cs.queue := rfl

@[simp] theorem round_startCheck (n : Ix) (o : CheckOrigin) : (s.startCheck n o).cs.roundList = s.cs.roundList ∧
    (s.startCheck n o).cs.roundClosed = s.cs.roundClosed := ⟨rfl, rfl⟩

@[simp] theorem round_chooseCheck : s.chooseCheck.cs.roundList = s.cs.roundList ∧
    s.chooseCheck.cs.roundClosed = s.cs.roundClosed := by
  rcases s.chooseCheck_cases with h | ⟨-, m, o, h, -⟩ <;> rw [h] <;> exact ⟨rfl, rfl⟩

/-- The choice takes nothing into the request queue. -/
theorem mem_queue_chooseCheck {s : State} {x : Ix} (h : x ∈ s.chooseCheck.cs.queue) : x ∈ s.cs.queue := by
  rcases s.chooseCheck_cases with e | ⟨-, m, o, e, -⟩ <;> rw [e] at h
  · exact h
  · exact List.mem_of_mem_tail h

end State

/-- The scanner holds nothing of a berth but what the search may have started since its record was set up anew: no request, and no
check but a round-robin one of a berth plugged in (R61, R66). -/
def ScannerCleared (n : Ix) (s : State) : Prop :=
  n ∉ s.cs.queue ∧
    ((s.check n = State.freshCheck ∧ ∀ c, s.cs.scanner = .running c → c.berth ≠ n) ∨
      ((s.berth n).plug = .present ∧ ∃ c, s.cs.scanner = .running c ∧ c.berth = n ∧ c.origin = .round ∧
        s.check n = { State.freshCheck with status := .inFlight, before := some .none, mode := some c.mode }))

namespace State

theorem scannerCleared_chooseCheck {n : Ix} {s : State} (h : ScannerCleared n s) : ScannerCleared n s.chooseCheck := by
  rcases s.chooseCheck_cases with e | ⟨hidle, m, o, e, hm⟩
  · rwa [e]
  obtain ⟨hq, h⟩ := h
  obtain ⟨hfresh, -⟩ | ⟨-, c, hc, -⟩ := h
  swap
  · rw [hidle] at hc; cases hc
  refine ⟨fun hx => hq (mem_queue_chooseCheck hx), ?_⟩
  rw [e]
  by_cases hmn : m = n
  · subst hmn
    rcases hm with ⟨-, rest, hr⟩ | ⟨rfl, -, hr⟩
    · exact absurd (by simp [hr]) hq
    · refine .inr ⟨?_, _, rfl, rfl, rfl, ?_⟩
      · simp only [roundRobin, Bool.and_eq_true, decide_eq_true_eq] at hr
        simpa [berth] using hr.1.1
      · have : (s.modCs fun u => { u with queue := u.queue.tail }).check m = freshCheck := hfresh
        rw [check_startCheck, if_pos rfl, this]
        rfl
  · refine .inl ⟨?_, fun c hc => ?_⟩
    · rw [check_startCheck, if_neg (Ne.symm hmn)]
      exact hfresh
    · cases hc
      exact hmn

theorem inFlight_of_running {s : State} {c : InFlight} (h : s.cs.scanner = .running c) : s.inFlight = some c := by
  simp [inFlight, h]

theorem scannerCleared_dropCheck {n : Ix} {s : State} (h : s.check n = freshCheck) : ScannerCleared n (s.dropCheck n) := by
  have hq : n ∉ (s.dropRequest n).cs.queue := by simp [dropRequest]
  unfold dropCheck
  simp only
  split
  · refine scannerCleared_chooseCheck ⟨hq, .inl ⟨h, fun c hc => ?_⟩⟩
    simp only [freeInstrument, cs_modCs] at hc
    split at hc <;> cases hc
  · rename_i hno
    refine ⟨hq, .inl ⟨h, fun c hc => ?_⟩⟩
    have hc' : s.cs.scanner = .running c := hc
    simpa [inFlight_of_running hc'] using hno

/-- A berth's record set up anew (R66). -/
theorem scannerCleared_clearCheck (n : Ix) (s : State) : ScannerCleared n (s.clearCheck n) := by
  have h := scannerCleared_dropCheck (s := s.setUpCheck n) (n := n) (by simp [check, setUpCheck])
  unfold clearCheck
  simp only
  split
  · exact scannerCleared_chooseCheck h
  · exact h

/-- What follows without touching the scanner or the plug leaves the record cleared. -/
theorem scannerCleared_of_same {n : Ix} {s t : State} (h : ScannerCleared n s) (hc : t.cs = s.cs)
    (hp : (t.berth n).plug = (s.berth n).plug) : ScannerCleared n t := by
  unfold ScannerCleared check at h ⊢
  rw [hc, hp]
  exact h

@[simp] theorem round_dropCheck (n : Ix) (s : State) : (s.dropCheck n).cs.roundList = s.cs.roundList ∧
    (s.dropCheck n).cs.roundClosed = s.cs.roundClosed := by
  unfold dropCheck
  simp only
  split <;> simp [freeInstrument, dropRequest]

@[simp] theorem round_clearCheck (n : Ix) (s : State) : (s.clearCheck n).cs.roundList = s.cs.roundList ∧
    (s.clearCheck n).cs.roundClosed = s.cs.roundClosed := by
  unfold clearCheck
  simp only
  split <;> simp [setUpCheck]

end State

/-- Without its plug a cleared berth has a fresh record and no check. -/
theorem ScannerCleared.of_absent {n : Ix} {s : State} (h : ScannerCleared n s) (hp : (s.berth n).plug = .absent) :
    n ∉ s.cs.queue ∧ s.check n = State.freshCheck ∧ ∀ c, s.cs.scanner = .running c → c.berth ≠ n := by
  obtain ⟨hq, h | ⟨hp', -⟩⟩ := h
  · exact ⟨hq, h⟩
  · rw [hp] at hp'; cases hp'

end Sys2Proof.Machine

namespace Sys2Proof.Machine

/-! ### The Phase Reference Unit -/

/-- A property that each step of a sequence keeps, for the members of its list, is kept by the sequence. -/
theorem keep_forEach_mem {P : State → Prop} {α : Type} {f : α → State → State} {l : List α}
    (hf : ∀ a ∈ l, ∀ s, P s → P (f a s)) : ∀ {s : State}, P s → P (s.forEach l f) := by
  induction l with
  | nil => exact fun h => h
  | cons a l ih =>
    exact fun h => ih (fun b hb => hf b (List.mem_cons_of_mem _ hb)) (hf a List.mem_cons_self _ h)

namespace State

variable (s : State)

theorem ship_setWindow (n m : Ix) (w : Window) (x : Option Nat) : (s.setWindow n w x).ship m =
    if m = n then { s.ship n with window := w, settle := x } else s.ship m := by
  simp [setWindow, ship, Six.get_set, eq_comm]

@[simp] theorem side_setWindow (n m : Ix) (w : Window) (x : Option Nat) : ((s.setWindow n w x).ship m).side = (s.ship m).side := by
  rw [ship_setWindow]
  split
  · subst m; rfl
  · rfl

@[simp] theorem side_forEach {α : Type} {f : α → State → State} (hf : ∀ a s m, ((f a s).ship m).side = (s.ship m).side)
    (l : List α) (m : Ix) : ((s.forEach l f).ship m).side = (s.ship m).side :=
  keep_forEach (P := fun t => (t.ship m).side = (s.ship m).side) (fun a t ht => (hf a t m).trans ht) l rfl

@[simp] theorem side_deferWaiters (m : Ix) : (s.deferWaiters.ship m).side = (s.ship m).side :=
  side_forEach s (f := fun (r : ClaimRequest) t => t.setWindow r.berth .deferred none) (fun _ _ _ => by simp) _ m

@[simp] theorem side_endDeferral (m : Ix) : (s.endDeferral.ship m).side = (s.ship m).side :=
  side_forEach s (f := fun (r : ClaimRequest) t =>
    if (t.ship r.berth).window = .deferred then t.setWindow r.berth .outside none else t)
    (fun _ _ _ => by split <;> simp) _ m

theorem side_modPru {f : PhaseUnit → PhaseUnit} (hf : (f s.pru).ships = s.pru.ships) (m : Ix) :
    ((s.modPru f).ship m).side = (s.ship m).side := by
  simp [ship, hf]

@[simp] theorem side_freeReference (m : Ix) : (s.freeReference.ship m).side = (s.ship m).side := rfl
@[simp] theorem side_leaveClaims (n m : Ix) : ((s.leaveClaims n).ship m).side = (s.ship m).side := rfl

@[simp] theorem side_grantClaim (r : ClaimRequest) (m : Ix) : ((s.grantClaim r).ship m).side = (s.ship m).side := by
  unfold grantClaim
  simp only
  split <;> simp only [side_setWindow, side_deferWaiters] <;> rfl

@[simp] theorem side_grantHead (m : Ix) : (s.grantHead.ship m).side = (s.ship m).side := by
  unfold grantHead
  split
  · split <;> simp
  · rfl

@[simp] theorem side_releaseClaim (b : Bool) (m : Ix) : ((s.releaseClaim b).ship m).side = (s.ship m).side := by
  unfold releaseClaim
  simp only
  split <;> simp only [side_endDeferral, side_grantHead, side_freeReference] <;> rfl

@[simp] theorem side_leaveSyncing (n m : Ix) (b : Bool) : ((s.leaveSyncing n b).ship m).side = (s.ship m).side := by
  unfold leaveSyncing
  simp only
  split <;> simp

@[simp] theorem side_revokeClaim (m : Ix) : (s.revokeClaim.ship m).side = (s.ship m).side := by
  unfold revokeClaim
  split
  · rfl
  · rw [side_endDeferral]; rfl

@[simp] theorem side_followBusB (m : Ix) : (s.followBusB.ship m).side = (s.ship m).side := by
  unfold followBusB
  simp only
  split
  · rw [side_revokeClaim]; rfl
  · split <;> simp only [side_grantHead, side_freeReference] <;> rfl
  · rfl

end State

/-- A berth has no part in the follow claim: its window is INACTIVE, it does not hold the claim, and it does not wait for it. -/
structure OutOfClaims (n : Ix) (s : State) : Prop where
  window : (s.ship n).window = .inactive
  holder : ∀ r, s.pru.holder = some r → r.berth ≠ n
  waiting : ∀ r ∈ s.pru.waiting, r.berth ≠ n

namespace State

theorem ship_forEach_ne {f : ClaimRequest → State → State} {n : Ix} (s : State)
    (hf : ∀ r t, r.berth ≠ n → (f r t).ship n = t.ship n) {l : List ClaimRequest} (h : ∀ r ∈ l, r.berth ≠ n) :
    (s.forEach l f).ship n = s.ship n :=
  keep_forEach_mem (P := fun t => t.ship n = s.ship n) (fun r hr t ht => (hf r t (h r hr)).trans ht) rfl

theorem claims_forEach {f : ClaimRequest → State → State} (s : State)
    (hf : ∀ r t, (f r t).pru.holder = t.pru.holder ∧ (f r t).pru.waiting = t.pru.waiting) (l : List ClaimRequest) :
    (s.forEach l f).pru.holder = s.pru.holder ∧ (s.forEach l f).pru.waiting = s.pru.waiting :=
  keep_forEach (P := fun t => t.pru.holder = s.pru.holder ∧ t.pru.waiting = s.pru.waiting)
    (fun r t ht => ⟨(hf r t).1.trans ht.1, (hf r t).2.trans ht.2⟩) l ⟨rfl, rfl⟩

variable {n : Ix} {s : State}

theorem outOfClaims_deferWaiters (h : OutOfClaims n s) : OutOfClaims n s.deferWaiters := by
  obtain ⟨hh, hw⟩ := claims_forEach (f := fun r t => t.setWindow r.berth .deferred none) s (fun _ _ => ⟨rfl, rfl⟩)
    s.pru.waiting
  have hs := ship_forEach_ne (f := fun r t => t.setWindow r.berth .deferred none) s
    (fun r t hr => by rw [ship_setWindow, if_neg (Ne.symm hr)]) h.waiting
  exact ⟨(congrArg ShipPhase.window hs).trans h.window, fun r hr => h.holder r (hh.symm.trans hr), fun r hr => h.waiting r (hw ▸ hr)⟩

theorem outOfClaims_endDeferral (h : OutOfClaims n s) : OutOfClaims n s.endDeferral := by
  let f : ClaimRequest → State → State := fun r t =>
    if (t.ship r.berth).window = .deferred then t.setWindow r.berth .outside none else t
  obtain ⟨hh, hw⟩ := claims_forEach (f := f) s (fun r t => by dsimp only [f]; split <;> exact ⟨rfl, rfl⟩) s.pru.waiting
  have hs := ship_forEach_ne (f := f) s (fun r t hr => by
    dsimp only [f]
    split
    · rw [ship_setWindow, if_neg (Ne.symm hr)]
    · rfl) h.waiting
  exact ⟨(congrArg ShipPhase.window hs).trans h.window, fun r hr => h.holder r (hh.symm.trans hr), fun r hr => h.waiting r (hw ▸ hr)⟩

theorem outOfClaims_grantHead (h : OutOfClaims n s) : OutOfClaims n s.grantHead := by
  unfold grantHead
  split
  · rename_i r rest hr hw
    split
    · exact h
    have hrn : r.berth ≠ n := h.waiting r (by simp [hw])
    have ht : OutOfClaims n (s.modPru fun u =>
        { u with holder := some r, waiting := u.waiting.filter fun x => decide (x.berth ≠ r.berth), mode := .follow r.berth }) :=
      ⟨h.window, fun x hx => by cases hx; exact hrn, fun x hx => h.waiting x (List.mem_of_mem_filter hx)⟩
    have ht := outOfClaims_deferWaiters ht
    unfold grantClaim
    simp only
    split
    · exact ⟨by rw [ship_setWindow, if_neg (Ne.symm hrn)]; exact ht.window, ht.holder, ht.waiting⟩
    · exact ⟨by rw [ship_setWindow, if_neg (Ne.symm hrn)]; exact ht.window, ht.holder, ht.waiting⟩
    · exact ht
    · exact ht
    · exact ht
  · exact h

/-- A berth that leaves SYNCING has no part in the follow claim (R42, R44, R48). -/
theorem outOfClaims_leaveSyncing (n : Ix) (b : Bool) (s : State) : OutOfClaims n (s.leaveSyncing n b) := by
  have hw : ∀ r ∈ ((s.leaveClaims n).setWindow n .inactive none).pru.waiting, r.berth ≠ n := by
    intro r hr
    have hr' : r ∈ s.pru.waiting.filter fun x => decide (x.berth ≠ n) := hr
    simpa using (List.mem_filter.mp hr').2
  have hi : (((s.leaveClaims n).setWindow n .inactive none).ship n).window = .inactive := by simp [ship_setWindow]
  unfold leaveSyncing
  simp only
  split
  · unfold releaseClaim
    simp only
    have h0 : OutOfClaims n (((s.leaveClaims n).setWindow n .inactive none).modPru fun u => { u with holder := none }) :=
      ⟨hi, fun _ hr => (nomatch hr), hw⟩
    split
    · exact outOfClaims_endDeferral ⟨h0.window, h0.holder, h0.waiting⟩
    · exact outOfClaims_grantHead (outOfClaims_endDeferral ⟨h0.window, h0.holder, h0.waiting⟩)
  · rename_i hno
    refine ⟨hi, fun r hr hrn => hno ?_, hw⟩
    have hr' : s.pru.holder = some r := hr
    simp [holdsClaim, hr', hrn]

end State

theorem OutOfClaims.holdsClaim {n : Ix} {s : State} (h : OutOfClaims n s) : s.holdsClaim n = false := by
  unfold State.holdsClaim
  split
  · rename_i r hr
    simpa using h.holder r hr
  · rfl

theorem OutOfClaims.of_pru {n : Ix} {s t : State} (h : OutOfClaims n s) (hp : t.pru = s.pru) : OutOfClaims n t := by
  obtain ⟨h1, h2, h3⟩ := h
  unfold State.ship at h1
  exact ⟨by unfold State.ship; rwa [hp], by rwa [hp], by rwa [hp]⟩

/-- A berth that leaves the waiting states has no part in the follow claim (R11). -/
theorem State.outOfClaims_abandon (n : Ix) (d : BerthState) (s : State) : OutOfClaims n (s.abandon n d) :=
  (outOfClaims_leaveSyncing n false (s.modBerth n fun b => { b.stopTimers with state := d })).of_pru (by simp [abandon])

theorem State.outOfClaims_failWaiting (n : Ix) (c : Code) (d : BerthState) (s : State) :
    OutOfClaims n (s.failWaiting n c d) := outOfClaims_abandon n d _

end Sys2Proof.Machine

namespace Sys2Proof.Machine

/-! ### Orders that end -/

/-- Every order that has ENDED in `t` keeps its record in `u`. -/
def KeepsEnded (t u : State) : Prop := ∀ r sl, t.slot? r = some sl → sl.isEnded = true → u.slot? r = some sl

theorem KeepsEnded.trans {t u v : State} (h : KeepsEnded t u) (h' : KeepsEnded u v) : KeepsEnded t v :=
  fun r sl hs he => h' r sl (h r sl hs he) he

namespace State

theorem slot_of_ports {s t : State} (h : t.oe.ports = s.oe.ports) (r : OrderRef) : t.slot? r = s.slot? r := by
  unfold slot? chain? orders
  rw [h]

theorem slot_of_orders {s t : State} {r : OrderRef} (h : t.orders r.port = s.orders r.port) : t.slot? r = s.slot? r := by
  unfold slot? chain?
  rw [h]

theorem keepsEnded_of_ports {t u : State} (h : u.oe.ports = t.oe.ports) : KeepsEnded t u := fun r sl hs _ => by
  rw [slot_of_ports h]; exact hs

theorem keepsEnded_endOrder (t : State) (r : OrderRef) (st : Status) : KeepsEnded t (t.endOrder r st) :=
  fun _ _ hs he => slot_endOrder_ended hs he

theorem keepsEnded_endRunning (t : State) (p : Port) (v : Verdict) (c : Code) : KeepsEnded t (t.endRunning p v c) := by
  unfold endRunning
  split
  · exact fun _ _ hs _ => hs
  · exact keepsEnded_endOrder _ _ _

theorem keepsEnded_postSource (t : State) (n : Ix) (src : FlagSource) : KeepsEnded t (t.postSource n src) := by
  intro r sl hs he
  unfold postSource
  simp only
  split <;> split
  · exact slot_flagEvent_ended _ _ (slot_flagEvent_ended _ _ hs he) he
  · exact slot_flagEvent_ended _ _ hs he
  · exact slot_flagEvent_ended _ _ hs he
  · exact hs

/-- The end of a berth's consenting order (R9, R158). -/
theorem consented_endConsenting (s : State) (n : Ix) (v : Verdict) (c : Code) (d : Nat) :
    Consented s n v c d (s.endConsenting n v c d) := by
  refine ⟨by simp [berth], fun r hr o k hk => ?_⟩
  unfold endConsenting
  simp only [hr]
  have h := slot_endOrder_self (st := { verdict := v, code := c, d1 := s.elapsed r, d2 := d }) hk rfl
  exact h.trans (by simp [elapsed, hk])

theorem slot_withRunning {s : State} {p : Port} {o : OrderRec} {r : OrderRef} (h : r.port ≠ p) :
    (s.withRunning p o).slot? r = s.slot? r :=
  slot_of_orders (by simp [orders, h])

/-- The queue of a port that none of the part's berths consents to outlives the end of a consenting order. -/
theorem queue_endConsenting {s w : State} {n : Ix} {p : Port} (v : Verdict) (c : Code) (d : Nat) (h : PortReady s p)
    (hc : (w.berth n).consenting = (s.berth n).consenting) : (w.endConsenting n v c d).orders p = w.orders p :=
  orders_endConsenting v c d fun r hr => h.noConsent n r (hc ▸ hr)

theorem ports_endConsenting_of_none {s : State} {n : Ix} (v : Verdict) (c : Code) (d : Nat) (h : (s.berth n).consenting = none) :
    s.endConsenting n v c d = s := by
  simp [endConsenting, h]

theorem ports_abandon (s : State) (n : Ix) (d : BerthState) : (s.abandon n d).oe = s.oe := by simp

end State

/-- An order that ended on the way from `s` to `t`, with steps before that leave it alone and steps behind that keep what has ENDED. -/
theorem Consented.of_steps {s w u t : State} {n : Ix} {v : Verdict} {c : Code} {d : Nat} (h : Consented w n v c d u)
    (hc : (w.berth n).consenting = (s.berth n).consenting) (hn : w.now = s.now)
    (hs : ∀ r, (s.berth n).consenting = some r → w.slot? r = s.slot? r) (hk : KeepsEnded u t)
    (ht : (t.berth n).consenting = none) : Consented s n v c d t := by
  refine ⟨ht, fun r hr o k hrun => ?_⟩
  have hfin := h.2 r (hc.trans hr) o k ((hs r hr).trans hrun)
  rw [hn] at hfin
  exact hk r _ hfin rfl

/-- The same with nothing before. -/
theorem Consented.after {s u t : State} {n : Ix} {v : Verdict} {c : Code} {d : Nat} (h : Consented s n v c d u)
    (hk : KeepsEnded u t) (ht : (t.berth n).consenting = none) : Consented s n v c d t :=
  h.of_steps rfl rfl (fun _ _ => rfl) hk ht

/-- The consenting order of a berth ends while an order of a ready port is taken. -/
theorem Consented.of_withRunning {s u t : State} {p : Port} {o : OrderRec} {n : Ix} {v : Verdict} {c : Code} {d : Nat}
    (h : Consented (s.withRunning p o) n v c d u) (hp : PortReady s p) (hk : KeepsEnded u t)
    (ht : (t.berth n).consenting = none) : Consented s n v c d t :=
  h.of_steps rfl rfl (fun r hr => State.slot_withRunning (hp.noConsent n r hr)) hk ht

end Sys2Proof.Machine

namespace Sys2Proof.Machine

/-! ### ACK_TRIP and LOCKOUT -/

/-- An accepted order of a terminal row is handed over with the berth that it names. -/
theorem terminal_row {n : Ix} {b : Byte} (stop : Bool) (x : Order) (hb : b.toNat = n.toNat) :
    (OrderRec.mk x stop b).berthIx .t = n := berthIx_named (.inl rfl) hb

/-- A berth that enters VACANT is cleared (R25). -/
theorem State.berths_enterVacant (n : Ix) (s : State) : (s.enterVacant n).berths =
    s.berths.set n { s.berths.get n with
      state := .vacant, tripCause := none, declaration := none, authorization := none, forcedOpen := false,
      declarationAwaited := false, authorizationAwaited := false, rating := s.storedRating n } := by
  simp [enterVacant, clearParts]
  rfl

theorem State.ge_enterVacant (n : Ix) (s : State) : (s.enterVacant n).ge = { s.ge with
    berths := s.ge.berths.set n { s.grantBerth n with
      charge := emptyCharge, overGrant := 0, overRating := 0, reading := none, sinceAdoption := false,
      adoptionUnread := false } } := by
  simp [enterVacant, clearParts, clearCharge, clearOverdraw, grantBerth]

/-- What the entry to VACANT leaves in the other blocks. -/
@[simp] theorem State.fields_enterVacant (n : Ix) (s : State) :
    (s.enterVacant n).powered = s.powered ∧ (s.enterVacant n).now = s.now ∧ (s.enterVacant n).table = s.table ∧
    (s.enterVacant n).inputs = s.inputs ∧ (s.enterVacant n).link = s.link ∧ (s.enterVacant n).oe = s.oe ∧
    (s.enterVacant n).pru = s.pru ∧ (s.enterVacant n).cp = s.cp ∧ (s.enterVacant n).gi = s.gi ∧
    (s.enterVacant n).pending = s.pending := by
  simp [enterVacant, clearParts]

theorem State.scannerCleared_enterVacant (n : Ix) (s : State) : ScannerCleared n (s.enterVacant n) := by
  refine scannerCleared_of_same (scannerCleared_clearCheck n ((s.modBerth n fun b =>
    { b with state := .vacant, tripCause := none }).modBerth n fun b =>
    { b with declaration := none, authorization := none, forcedOpen := false, declarationAwaited := false,
             authorizationAwaited := false, rating := s.storedRating n })) ?_ ?_
  · simp [enterVacant, clearParts]; rfl
  · simp [enterVacant, clearParts, berth]

/-- Settles O28. -/
theorem ackTripAnswers : Obligations.AckTripAnswers := by
  rintro s n stop berth _ h rfl hb
  have hk := commonCheck_terminal (x := .ackTrip) (stop := stop) rfl hb rfl
  obtain ⟨w, hw⟩ : ∃ w, w = s.withRunning .t ⟨.ackTrip, stop, berth⟩ := ⟨_, rfl⟩
  have hto : w.handOrder (s.nextRef .t) ⟨.ackTrip, stop, berth⟩ = w.takeAckTrip n := by
    simp only [State.handOrder, State.nextRef, terminal_row stop _ hb]
  have hwn : w.berth n = s.berth n := by rw [hw]; rfl
  refine ⟨fun hst => order_refuses rfl h hk ?_, fun hst hstuck => order_refuses rfl h hk ?_, fun hst hs ho => ?_⟩
  · rw [← hw, hto]
    simp [State.takeAckTrip, hwn, hst]
  · rw [← hw, hto]
    simp [State.takeAckTrip, hwn, hst, hstuck]
  cases hp : (s.berth n).plug with
  | present =>
    obtain ⟨he, hends⟩ := order_ends (c := .ackTrip .t stop berth) rfl h hk (st := doneWith 0 0)
      (u := w.modBerth n fun b => { b with state := .plugged, tripCause := none })
      (by rw [← hw, hto]; simp [State.takeAckTrip, hwn, hst, hs, ho, hp]) (by rw [hw]; exact queue_withRunning)
    subst hw
    refine ⟨_, he, hends, by simp [State.berth], fun _ => ⟨by simp [State.berth], ?_⟩, nofun⟩
    apply onlyTouches_of_fields <;> simp +contextual [State.endOrder, State.nextRef]
  | absent =>
    obtain ⟨he, hends⟩ := order_ends (c := .ackTrip .t stop berth) rfl h hk (st := doneWith 0 0) (u := w.enterVacant n)
      (by rw [← hw, hto]; simp [State.takeAckTrip, hwn, hst, hs, ho, hp])
      (by rw [hw]; simp [State.orders])
    have hclear : ScannerCleared n ((w.enterVacant n).endOrder (s.nextRef .t) (doneWith 0 0)) :=
      State.scannerCleared_of_same (w.scannerCleared_enterVacant n) (by simp) (by simp [State.berth])
    subst hw
    obtain ⟨hq, hfresh, hrun⟩ := hclear.of_absent (by simpa [State.berth, State.berths_enterVacant] using hp)
    refine ⟨_, he, hends, by simp [State.berth, State.berths_enterVacant], nofun, fun _ => ⟨?_, hfresh, hq, hrun, ?_, ?_⟩⟩
    · simp [State.berth, State.berths_enterVacant, State.storedRating, State.param]
    · simp [State.ge_enterVacant, State.grantBerth]
    · apply onlyTouches_of_fields <;>
        simp +contextual [State.endOrder, State.nextRef, State.berths_enterVacant]

end Sys2Proof.Machine

namespace Sys2Proof.Machine

/-- A change of a berth record to itself changes nothing. -/
theorem State.modBerth_self {n : Ix} {f : Berth → Berth} {s : State} (h : f (s.berth n) = s.berth n) : s.modBerth n f = s := by
  unfold berth at h
  unfold modBerth
  rw [h, Six.set_get]

/-- A waiting berth whose CONNECT fails while an order of a ready port is taken leaves that order in its slot (R11). -/
theorem State.queue_failWaiting {s : State} {p : Port} {o : OrderRec} {n : Ix} (h : PortReady s p) (c : Code) (d : BerthState) :
    (((s.withRunning p o).failWaiting n c d).orders p).queue = (runningOrders (s.orders p) o s.now).queue := by
  have hq : ((s.withRunning p o).failConsenting n c).orders p = (s.withRunning p o).orders p :=
    queue_endConsenting (s := s) _ _ _ h rfl
  calc (((s.withRunning p o).failWaiting n c d).orders p).queue
      = (((s.withRunning p o).failConsenting n c).orders p).queue := by simp [orders]
    _ = (runningOrders (s.orders p) o s.now).queue := by rw [hq]; exact queue_withRunning

theorem State.consented_failWaiting (s : State) (n : Ix) (c : Code) (d : BerthState) :
    Consented s n .failed c 0 (s.failWaiting n c d) :=
  (consented_endConsenting s n .failed c 0).after (keepsEnded_of_ports (by simp [failWaiting, failConsenting]))
    (by simp [berth])

/-- LOCKOUT on: what each state of the berth answers (R27). -/
theorem lockoutOn_answers {s : State} {n : Ix} {stop : Bool} {berth : Byte} (h : PortReady s .t) (hb : berth.toNat = n.toNat) :
    ((s.berth n).state ∈ [.vacant, .plugged, .lockedOut] →
      ∃ t : State, exec (.lockoutOn .t stop berth) s = .next t.settle ∧ OrderEnds (.lockoutOn .t stop berth) s (doneWith 0 0) t ∧
        t.berth n = { s.berth n with state := .lockedOut } ∧ OnlyTouches [.link .t, .orders .t, .berth n] s t) ∧
    ((s.berth n).state.isWaiting = true →
      ∃ t : State, exec (.lockoutOn .t stop berth) s = .next t.settle ∧ OrderEnds (.lockoutOn .t stop berth) s (doneWith 0 0) t ∧
        (t.berth n).state = .lockedOut ∧ Consented s n .failed .locked 0 t ∧ t.isAdmitted n = false ∧
        OnlyTouches ([.link .t, .berth n, .reference, .grants] ++ allOrders) s t) ∧
    ((s.berth n).state ∈ [.closing, .parallel, .onShore, .returnWait, .returnParallel, .adopted] →
      Refuses (.lockoutOn .t stop berth) s .live) ∧
    ((s.berth n).state ∈ [.opening, .tripped] → Refuses (.lockoutOn .t stop berth) s .badState) := by
  have hk := commonCheck_terminal (x := .lockout 1) (stop := stop) rfl hb rfl
  obtain ⟨w, hw⟩ : ∃ w, w = s.withRunning .t ⟨.lockout 1, stop, berth⟩ := ⟨_, rfl⟩
  have hto : w.handOrder (s.nextRef .t) ⟨.lockout 1, stop, berth⟩ = w.takeLockoutOn n := by
    simp only [State.handOrder, State.nextRef, terminal_row stop _ hb, if_true]
  have hwn : w.berth n = s.berth n := by rw [hw]; rfl
  refine ⟨fun hst => ?_, fun hst => ?_, fun hst => order_refuses rfl h hk ?_, fun hst => order_refuses rfl h hk ?_⟩
  · have htake : w.takeLockoutOn n = (w.modBerth n fun b => { b with state := .lockedOut }, some (doneWith 0 0)) := by
      simp only [List.mem_cons, List.not_mem_nil, or_false] at hst
      rcases hst with hst | hst | hst
      · simp [State.takeLockoutOn, hwn, hst]
      · simp [State.takeLockoutOn, hwn, hst]
      · rw [State.modBerth_self (by rw [hwn, ← hst])]
        simp [State.takeLockoutOn, hwn, hst]
    obtain ⟨he, hends⟩ := order_ends (c := .lockoutOn .t stop berth) rfl h hk (by rw [← hw, hto, htake])
      (by rw [hw]; exact queue_withRunning)
    subst hw
    refine ⟨_, he, hends, by simp [State.berth], ?_⟩
    apply onlyTouches_of_fields <;> simp +contextual [State.endOrder, State.nextRef]
  · have htake : w.takeLockoutOn n = (w.failWaiting n .locked .lockedOut, some (doneWith 0 0)) := by
      unfold State.takeLockoutOn
      rw [hwn]
      cases hs : (s.berth n).state <;> simp [hs, BerthState.isWaiting] at hst ⊢
    obtain ⟨he, hends⟩ := order_ends (c := .lockoutOn .t stop berth) rfl h hk (by rw [← hw, hto, htake])
      (by rw [hw]; exact State.queue_failWaiting h _ _)
    subst hw
    refine ⟨_, he, hends, by simp [State.berth], ?_, by simp [State.isAdmitted, State.grantBerth], ?_⟩
    · exact (State.consented_failWaiting _ n .locked .lockedOut).of_withRunning h (State.keepsEnded_endOrder _ _ _)
        (by simp [State.berth])
    · apply onlyTouches_allOrders <;> simp +contextual
  · rw [← hw, hto]
    unfold State.takeLockoutOn
    rw [hwn]
    cases hs : (s.berth n).state <;> simp [hs] at hst ⊢
  · rw [← hw, hto]
    unfold State.takeLockoutOn
    rw [hwn]
    cases hs : (s.berth n).state <;> simp [hs] at hst ⊢

end Sys2Proof.Machine

namespace Sys2Proof.Machine

/-- LOCKOUT off: what each state of the berth answers (R27). -/
theorem lockoutOff_answers {s : State} {n : Ix} {stop : Bool} {berth : Byte} (h : PortReady s .t) (hb : berth.toNat = n.toNat) :
    ((s.berth n).state = .lockedOut → (s.berth n).plug = .present →
      ∃ t : State, exec (.lockoutOff .t stop berth) s = .next t.settle ∧ OrderEnds (.lockoutOff .t stop berth) s (doneWith 0 0) t ∧
        t.berth n = { s.berth n with state := .plugged } ∧ OnlyTouches [.link .t, .orders .t, .berth n] s t) ∧
    ((s.berth n).state = .lockedOut → (s.berth n).plug = .absent →
      ∃ t : State, exec (.lockoutOff .t stop berth) s = .next t.settle ∧ OrderEnds (.lockoutOff .t stop berth) s (doneWith 0 0) t ∧
        (t.berth n).state = .vacant ∧ (t.berth n).declaration = none ∧ (t.berth n).authorization = none ∧
        OnlyTouches [.link .t, .orders .t, .berth n, .scanner, .grants] s t) ∧
    ((s.berth n).state ≠ .lockedOut →
      ∃ t : State, exec (.lockoutOff .t stop berth) s = .next t.settle ∧ OrderEnds (.lockoutOff .t stop berth) s (doneWith 0 0) t ∧
        OnlyTouches [.link .t, .orders .t] s t) := by
  have hk := commonCheck_terminal (x := .lockout 0) (stop := stop) rfl hb rfl
  obtain ⟨w, hw⟩ : ∃ w, w = s.withRunning .t ⟨.lockout 0, stop, berth⟩ := ⟨_, rfl⟩
  have hto : w.handOrder (s.nextRef .t) ⟨.lockout 0, stop, berth⟩ = w.takeLockoutOff n := by
    simp only [State.handOrder, State.nextRef, terminal_row stop _ hb]
    rw [if_neg (by decide)]
  have hwn : w.berth n = s.berth n := by rw [hw]; rfl
  refine ⟨fun hst hp => ?_, fun hst hp => ?_, fun hst => ?_⟩
  · obtain ⟨he, hends⟩ := order_ends (c := .lockoutOff .t stop berth) rfl h hk (st := doneWith 0 0)
      (u := w.modBerth n fun b => { b with state := .plugged })
      (by rw [← hw, hto]; simp [State.takeLockoutOff, hwn, hst, hp]) (by rw [hw]; exact queue_withRunning)
    subst hw
    refine ⟨_, he, hends, by simp [State.berth], ?_⟩
    apply onlyTouches_of_fields <;> simp +contextual [State.endOrder, State.nextRef]
  · obtain ⟨he, hends⟩ := order_ends (c := .lockoutOff .t stop berth) rfl h hk (st := doneWith 0 0) (u := w.enterVacant n)
      (by rw [← hw, hto]; simp [State.takeLockoutOff, hwn, hst, hp]) (by rw [hw]; simp [State.orders])
    subst hw
    refine ⟨_, he, hends, by simp [State.berth, State.berths_enterVacant], by simp [State.berth, State.berths_enterVacant],
      by simp [State.berth, State.berths_enterVacant], ?_⟩
    apply onlyTouches_of_fields <;> simp +contextual [State.endOrder, State.nextRef, State.berths_enterVacant]
  · obtain ⟨he, hends⟩ := order_ends (c := .lockoutOff .t stop berth) rfl h hk (st := doneWith 0 0) (u := w)
      (by rw [← hw, hto]; simp [State.takeLockoutOff, hwn, hst]) (by rw [hw]; exact queue_withRunning)
    subst hw
    refine ⟨_, he, hends, ?_⟩
    apply onlyTouches_of_fields <;> simp +contextual [State.endOrder, State.nextRef]

/-- Settles O29. -/
theorem lockoutAnswers : Obligations.LockoutAnswers :=
  ⟨fun _ _ _ _ _ h hrow hb => hrow ▸ lockoutOn_answers h hb, fun _ _ _ _ _ h hrow hb => hrow ▸ lockoutOff_answers h hb⟩

/-! ### CONNECT refused -/

/-- A CONNECT at its port is judged by R7. -/
theorem connect_refused {s : State} {n : Ix} {stop : Bool} {wait : Word} {code : Code} (h : PortReady s (.v n))
    (hw : wait.toNat ≤ 60) (hc : s.connectRefused n = some code) : Refuses (.connect (.v n) stop wait) s code := by
  refine order_refuses rfl h (commonCheck_vessel rfl (by simp [Order.badArgument, hw])) ?_
  have hc' : (s.withRunning (.v n) ⟨.connect wait, stop, 0⟩).connectRefused n = some code := hc
  show State.takeConnect n _ wait _ = _
  simp only [State.takeConnect, hc']

/-- Settles O19. -/
theorem connectRefusals : Obligations.ConnectRefusals := by
  rintro s n stop wait _ h rfl hw
  refine ⟨fun hheld => connect_refused h hw (by simp [State.connectRefused, hheld]), fun hheld => ⟨fun hst => ?_, fun hst => ?_,
    fun hst => ?_, fun hst => ?_, fun hst => ⟨fun hd => ?_, fun d hd => ⟨fun hcls => ?_, fun hcls ha => ?_,
      fun a hcls ha hwd => ?_⟩⟩⟩⟩
  · refine connect_refused h hw ?_
    cases hs : (s.berth n).state <;> simp [hs, State.connectRefused, hheld] at hst ⊢
  · exact connect_refused h hw (by simp [State.connectRefused, hheld, hst])
  · exact connect_refused h hw (by simp [State.connectRefused, hheld, hst])
  · refine connect_refused h hw ?_
    cases hs : (s.berth n).state <;> simp [hs, State.connectRefused, hheld] at hst ⊢
  · exact connect_refused h hw (by simp [State.connectRefused, hheld, hst, hd])
  · exact connect_refused h hw (by simp [State.connectRefused, hheld, hst, hd, State.declaredForOutlet, hcls])
  · exact connect_refused h hw (by simp [State.connectRefused, hheld, hst, hd, State.declaredForOutlet, hcls, State.authorized, ha])
  · exact connect_refused h hw
      (by simp [State.connectRefused, hheld, hst, hd, State.declaredForOutlet, hcls, State.authorized, ha, hwd])

end Sys2Proof.Machine

namespace Sys2Proof.Machine

/-! ### PROVE_CLOSE -/

theorem countSix_pos {f : Ix → Bool} : 0 < countSix f ↔ ∃ n, f n = true := by
  unfold countSix sumSix
  constructor
  · intro h
    by_contra hno
    have hf : ∀ n, f n = false := fun n => by simpa using fun h => hno ⟨n, h⟩
    simp [hf] at h
  · rintro ⟨n, hn⟩
    cases n <;> simp only [hn, if_true] <;> omega

/-- The common checks pass a common order at a port that may send it for the berth it names. -/
theorem commonCheck_named {p : Port} {n : Ix} {x : Order} {stop : Bool} {b : Byte} (hc : x.class? = some .common)
    (hp : p = .t ∨ p = .v n) (hb : b.toNat = n.toNat) (hok : x.badArgument = false) :
    (OrderRec.mk x stop b).commonCheck p = none := by
  have hn := Ix.toNat_le n
  rcases hp with rfl | rfl <;> simp [OrderRec.commonCheck, OrderRec.notPermitted, hc, hok, hb, hn]

theorem State.firstFailing_of_fails {s : State} {n : Ix} {k : Nat} (ht : ∀ i, i < k → (s.conditions n)[i]? = some true)
    (hf : (s.conditions n)[k]? = some false) : s.firstFailing n = k + 1 := by
  have hk : k < (s.conditions n).length := (List.getElem?_eq_some_iff.mp hf).1
  have : (s.conditions n).findIdx? (fun c => !c) = some k := by
    rw [List.findIdx?_eq_some_iff_getElem]
    refine ⟨hk, ?_, fun j hj => ?_⟩
    · rw [List.getElem?_eq_getElem hk] at hf
      simp [Option.some.inj hf]
    · have := ht j hj
      rw [List.getElem?_eq_getElem (by omega)] at this
      simp [Option.some.inj this]
  simp [firstFailing, this]

theorem State.firstFailing_of_holds {s : State} {n : Ix} (ht : ∀ i, i < 11 → (s.conditions n)[i]? = some true) :
    s.firstFailing n = 0 := by
  have : (s.conditions n).findIdx? (fun c => !c) = none := by
    rw [List.findIdx?_eq_none_iff]
    intro c hc
    obtain ⟨i, hi, rfl⟩ := List.getElem_of_mem hc
    have := ht i hi
    rw [List.getElem?_eq_getElem hi] at this
    simp [Option.some.inj this]
  simp [firstFailing, this]

/-- Bus B is available while a module is neither FAULTED nor OUT_OF_SERVICE (R6, R73). -/
theorem State.busAvailable_b {s : State} {n : Ix} (h : (s.berth n).bus = .b) : s.busAvailable n = true ↔
    ∃ m, (s.converter m).state ≠ .faulted ∧ (s.converter m).state ≠ .outOfService := by
  have hav : s.busAvailable n = decide (0 < s.available) := by simp [busAvailable, h]
  rw [hav, decide_eq_true_eq, available, countSix_pos]
  simp

/-- PROVE_CLOSE answers with the first failing condition and changes nothing (R170). -/
theorem proveClose_answers {s : State} {p : Port} {n : Ix} {stop : Bool} {berth : Byte} {k : Nat} (h : PortReady s p)
    (hp : p = .t ∨ p = .v n) (hb : berth.toNat = n.toNat) (hk : s.firstFailing n = k) :
    ∃ t : State, exec (.proveClose p stop berth) s = .next t.settle ∧
      OrderEnds (.proveClose p stop berth) s (doneWith k (if k = 0 then 0 else 11 - k)) t ∧
      OnlyTouches [.link p, .orders p] s t := by
  have hto : (s.withRunning p ⟨.proveClose, stop, berth⟩).handOrder (s.nextRef p) ⟨.proveClose, stop, berth⟩ =
      (s.withRunning p ⟨.proveClose, stop, berth⟩, some (doneWith k (if k = 0 then 0 else 11 - k))) := by
    simp only [State.handOrder, State.nextRef, berthIx_named hp hb, State.takeProveClose, ← hk]
    rfl
  obtain ⟨he, hends⟩ := order_ends (c := .proveClose p stop berth) rfl h (commonCheck_named rfl hp hb rfl) hto queue_withRunning
  exact ⟨_, he, hends, onlyTouches_trans onlyTouches_withRunning
    (onlyTouches_mono (onlyTouches_endOrder _ _) (by simp [State.nextRef]))⟩

/-- Settles O36. -/
theorem proveCloseReportsFirst : Obligations.ProveCloseReportsFirst := by
  refine ⟨fun s p n stop berth row h hrow hp hb => ⟨fun k hk ht hf => ?_, fun ht => ?_⟩, fun s n d hd => ?_⟩
  · obtain ⟨t, he, hends, hframe⟩ := proveClose_answers (stop := stop) h hp hb (State.firstFailing_of_fails ht hf)
    have hd2 : (if k + 1 = 0 then 0 else 11 - (k + 1)) = 10 - k := by rw [if_neg (by omega)]; omega
    exact ⟨t, hrow ▸ he, hrow ▸ hd2 ▸ hends, hframe⟩
  · obtain ⟨t, he, hends, hframe⟩ := proveClose_answers (stop := stop) h hp hb (State.firstFailing_of_holds ht)
    exact ⟨t, hrow ▸ he, hrow ▸ hends, hframe⟩
  · refine ⟨rfl, ?_, ?_, ?_, ?_, ?_, ?_, fun hbus => ?_, fun hbus => ?_, ?_, fun hadm => ?_, fun hbus => ?_, fun hbus => ?_,
      fun hsync => ?_, fun hdead => ?_⟩ <;>
      simp only [State.conditions, List.getElem?_cons_zero, List.getElem?_cons_succ, Option.some.injEq]
    · simp
    · simp
    · simp
    · simp [State.declaredForOutlet, hd]
    · cases ha : (s.berth n).authorization <;> simp [State.authorized, ha]
    · cases hf : d.freq <;> simp [State.selectorReady, hd, Berth.declaredBus, Freq.bus, hf]
    · simp [State.busAvailable, hbus]
    · rw [State.busAvailable_b hbus]
    · rcases hadm with hadm | hadm <;> simp [State.proveAdmitted, hadm]
    · simp [State.capacityOnline, hbus]
    · simp [State.capacityOnline, hbus, Berth.declaredFirm, hd]
    · simp [State.proveTransition, hd, hsync]
    · have hno : ¬ (d.trans = .closed ∧ (s.ship n).side ≠ .dead) := by
        rintro ⟨hc, hs⟩
        rcases hdead with ho | hs'
        · rw [hc] at ho; cases ho
        · exact hs hs'
      simp only [State.proveTransition, hd, if_neg hno, decide_eq_true_eq]

end Sys2Proof.Machine

namespace Sys2Proof.Machine

/-! ### DECLARE -/

/-- The declaration that a DECLARE carries, with its clamped numbers (R157). -/
def declared (freq cls tr : Byte) (h e c d : Word) : Declaration :=
  { freq := .ofByte freq, cls := .ofByte cls, trans := .ofByte tr, h := clampTop 6000 h.toNat, e := clampTop 20000 e.toNat,
    c := clampTop 6000 c.toNat, d := clampTop 1440 d.toNat }

/-- The charge record copied from a declaration (R131, R133). -/
def declaredCharge (e d : Word) : Charge :=
  { e := clampTop 20000 e.toNat, d := clampTop 1440 d.toNat, acc := 0, warned := decide (d.toNat = 0 ∧ 0 < e.toNat) }

theorem declare_argOk {freq cls tr : Byte} {h e c d : Word} (hf : freq = 50 ∨ freq = 60) (hc : cls.toNat ≤ 2)
    (ht : tr.toNat ≤ 1) : (Order.declare freq cls tr h e c d).badArgument = false := by
  have hc' : ¬ 2 < cls.toNat := by omega
  have ht' : ¬ 1 < tr.toNat := by omega
  rcases hf with rfl | rfl <;> simp only [Order.badArgument, hc', ht'] <;> decide

/-- A DECLARE that the berth's state refuses (R28, R157). -/
theorem declare_refused {s : State} {n : Ix} {stop : Bool} {freq cls tr : Byte} {h e c d : Word} {code : Code}
    (hp : PortReady s (.v n)) (hok : (Order.declare freq cls tr h e c d).badArgument = false)
    (hr : s.declareRefused n (declared freq cls tr h e c d) = some code) :
    Refuses (.declare (.v n) stop freq cls tr h e c d) s code := by
  refine order_refuses rfl hp (commonCheck_vessel rfl hok) ?_
  have hr' : (s.withRunning (.v n) ⟨.declare freq cls tr h e c d, stop, 0⟩).declareRefused n (declared freq cls tr h e c d) =
      some code := hr
  show State.takeDeclare n freq cls tr h e c d _ = _
  unfold State.takeDeclare
  unfold declared at hr'
  simp only [hr']

theorem clampTop_pos {top a : Nat} (ht : 0 < top) : clampTop top a = 0 ↔ a = 0 := by
  unfold clampTop; omega

/-- The state after the declaration and its charge record are stored, before CHARGE_SHORT. -/
def State.declareStored (n : Ix) (freq cls tr : Byte) (h e c d : Word) (s : State) : State :=
  (s.modBerth n fun b => { b with declaration := some (declared freq cls tr h e c d), declarationAwaited := false }).modGrantBerth
    n fun g => { g with charge := { declaredCharge e d with warned := false } }

/-- CHARGE_SHORT of a berth whose declared departure is 0 already, with the energy (R133). -/
theorem State.warnShort_due {n : Ix} {e : Nat} {s : State} (h : (s.grantBerth n).charge.d = 0) (he : (s.grantBerth n).charge.e = e)
    (hpos : 0 < e) (hw : (s.grantBerth n).charge.warned = false) : s.warnShort n =
      ((s.modGrantBerth n fun g => { g with charge := { g.charge with warned := true } }).notify (.v n) .grant (some n) 4
        e).notify .t .grant (some n) 4 e := by
  simp [warnShort, h, he, hpos, hw]

theorem State.warnShort_not {n : Ix} {s : State} (h : 0 < (s.grantBerth n).charge.d ∨ (s.grantBerth n).charge.e = 0) :
    s.warnShort n = s := by
  unfold warnShort
  simp only
  rw [if_neg]
  rintro ⟨h1, h2, -⟩
  omega

/-- A DECLARE that is stored (R157). -/
theorem declare_stored {s : State} {n : Ix} {stop : Bool} {freq cls tr : Byte} {h e c d : Word}
    (hp : PortReady s (.v n)) (hok : (Order.declare freq cls tr h e c d).badArgument = false)
    (hr : s.declareRefused n (declared freq cls tr h e c d) = none) {k : Nat}
    (hk : k = clipped 6000 h.toNat + clipped 20000 e.toNat + clipped 6000 c.toNat + clipped 1440 d.toNat) :
    ∃ w v t : State, w = s.withRunning (.v n) ⟨.declare freq cls tr h e c d, stop, 0⟩ ∧
      v = w.declareStored n freq cls tr h e c d ∧ t = (v.warnShort n).endOrder (s.nextRef (.v n)) (doneClamped k k 0) ∧
      exec (.declare (.v n) stop freq cls tr h e c d) s = .next t.settle ∧
      OrderEnds (.declare (.v n) stop freq cls tr h e c d) s (doneClamped k k 0) t := by
  subst hk
  refine ⟨_, _, _, rfl, rfl, rfl, order_ends rfl hp (commonCheck_vessel rfl hok) ?_ ?_⟩
  · have hr' : (s.withRunning (.v n) ⟨.declare freq cls tr h e c d, stop, 0⟩).declareRefused n (declared freq cls tr h e c d) =
        none := hr
    show State.takeDeclare n freq cls tr h e c d _ = _
    unfold State.takeDeclare
    unfold declared at hr'
    simp only [hr']
    rfl
  · simp [State.orders, State.declareStored]

theorem declare_answered {s : State} {n : Ix} {stop : Bool} {freq cls tr : Byte} {h e c d : Word} (hp : PortReady s (.v n))
    (hok : (Order.declare freq cls tr h e c d).badArgument = false)
    (hr : s.declareRefused n (declared freq cls tr h e c d) = none) :
    ∃ t : State, exec (.declare (.v n) stop freq cls tr h e c d) s = .next t.settle ∧
      (∀ k, k = clipped 6000 h.toNat + clipped 20000 e.toNat + clipped 6000 c.toNat + clipped 1440 d.toNat →
        OrderEnds (.declare (.v n) stop freq cls tr h e c d) s (doneClamped k k 0) t) ∧
      t.berth n = { s.berth n with declarationAwaited := false, declaration := some (declared freq cls tr h e c d) } ∧
      t.ge = { s.ge with berths := s.ge.berths.set n { s.grantBerth n with charge := declaredCharge e d } } ∧
      (∀ x lp, x = Notice.mk (some n) (some 4) (min e.toNat 20000) s.ge.period →
        lp = { s.port (.v n) with
          receive := .hunt
          transmit := (s.port (.v n)).transmit ++ [.accept (s.orders (.v n)).rolling (s.freeSlots - 1)] } →
        (d.toNat = 0 → 0 < e.toNat → t.port (.v n) = lp.posted .grant x ∧
          t.port .t = if (s.port .t).isOpen then (s.port .t).posted .grant x else s.port .t) ∧
        (0 < d.toNat ∨ e.toNat = 0 → t.port (.v n) = lp ∧ t.port .t = s.port .t)) ∧
      OnlyTouches [.link (.v n), .link .t, .orders (.v n), .berth n, .grants] s t := by
  obtain ⟨w, v, t, hw, hv, ht, hexec, hends⟩ := declare_stored (stop := stop) hp hok hr rfl
  have hcharge : (v.grantBerth n).charge = { declaredCharge e d with warned := false } := by
    rw [hv]; simp [State.declareStored, State.grantBerth]
  have hd0 : clampTop 1440 d.toNat = 0 ↔ d.toNat = 0 := clampTop_pos (by decide)
  have he0 : clampTop 20000 e.toNat = 0 ↔ e.toNat = 0 := clampTop_pos (by decide)
  have hopen : (s.link.get (.v n)).isOpen = true := hp.isOpen
  refine ⟨t, hexec, fun k hk => hk ▸ hends, ?_, ?_⟩
  · subst ht hv hw
    simp [State.berth, State.declareStored]
  by_cases hdue : d.toNat = 0 ∧ 0 < e.toNat
  · rw [State.warnShort_due (e := clampTop 20000 e.toNat) (by rw [hcharge]; exact hd0.mpr hdue.1) (by rw [hcharge]; rfl) (by omega)
      (by rw [hcharge])] at ht
    subst ht hv hw
    refine ⟨?_, ?_, ?_⟩
    · simp [State.declareStored, declaredCharge, hdue, State.grantBerth]
    · rintro x lp rfl rfl
      refine ⟨fun _ _ => ⟨?_, ?_⟩, fun hno => by omega⟩
      · simp [State.port, State.notify, State.post, State.declareStored, answered, hopen, clampTop]
      · cases ht : (s.link.get .t).isOpen <;> simp [State.port, State.notify, State.post, State.declareStored, clampTop, ht]
    · apply onlyTouches_of_fields <;>
        simp +contextual [State.endOrder, State.nextRef, State.notify, State.post, State.declareStored]
  · rw [State.warnShort_not (by rw [hcharge]; simp only [declaredCharge]; omega)] at ht
    subst ht hv hw
    refine ⟨?_, ?_, ?_⟩
    · simp [State.declareStored, declaredCharge, hdue, State.grantBerth]
    · rintro x lp rfl rfl
      refine ⟨fun h1 h2 => absurd ⟨h1, h2⟩ hdue, fun _ => ⟨?_, ?_⟩⟩
      · simp [State.port, State.declareStored, answered]
      · simp [State.port, State.declareStored]
    · apply onlyTouches_of_fields <;> simp +contextual [State.endOrder, State.nextRef, State.declareStored]

/-- Settles O17. -/
theorem declareAnswers : Obligations.DeclareAnswers := by
  refine ⟨?_, ?_⟩
  · rintro s n stop freq cls tr h e c d _ hp rfl hf hc ht hallowed
    have hr : s.declareRefused n (declared freq cls tr h e c d) = none := by
      unfold State.declareRefused declared
      rcases hallowed with ⟨hd, hs⟩ | hs | hs | hs | ⟨hs, ho⟩ | ⟨hs, hd, hb, hcl⟩ | ⟨d0, hd, h1, h2, h3⟩
      · cases hs' : (s.berth n).state <;> simp_all
      · simp [hs]
      · simp [hs]
      · simp [hs]
      · simp [hs, ho]
      · simp [hs, hd, hb, hcl]
      · cases hs' : (s.berth n).state <;> simp_all [BerthState.isWaiting]
    obtain ⟨t, he, hends, hb, hg, hl, hframe⟩ := declare_answered (stop := stop) hp (declare_argOk hf hc ht) hr
    exact ⟨t, he, hends, hb, hg, hl, hframe⟩
  · rintro s n stop freq cls tr h e c d _ hp rfl hf hc ht
    have hok := declare_argOk (h := h) (e := e) (c := c) (d := d) hf hc ht
    refine ⟨fun d0 hd => ⟨fun hs hne => declare_refused hp hok ?_, fun hs hne => declare_refused hp hok ?_⟩,
      fun hs hd hne => declare_refused hp hok ?_⟩
    · have hdiff : (decide (d0.freq ≠ .ofByte freq) || decide (d0.cls ≠ .ofByte cls)) = true := by simpa using hne
      rcases hs with hs | ⟨hs, ho⟩
      · cases hs' : (s.berth n).state <;> simp [hs'] at hs <;>
          (simp only [State.declareRefused, declared, hs', hd]; exact if_pos hdiff)
      · simp only [State.declareRefused, declared, hs, hd, if_neg ho]
        exact if_pos hdiff
    · have hdiff : (decide (d0.freq ≠ .ofByte freq) || decide (d0.cls ≠ .ofByte cls) || decide (d0.trans ≠ .ofByte tr)) = true := by
        simpa [or_assoc] using hne
      cases hs' : (s.berth n).state <;> simp [hs', BerthState.isWaiting] at hs <;>
        (simp only [State.declareRefused, declared, hs', hd]; exact if_pos hdiff)
    · have hno : ¬ ((Freq.ofByte freq).bus = (s.berth n).bus ∧ VClass.ofByte cls = s.storedClass n) := by tauto
      simp only [State.declareRefused, declared, hs, hd, Option.isNone_none, if_true]
      exact if_neg hno

end Sys2Proof.Machine

namespace Sys2Proof.Machine

/-- The frame of an order row from the state in which its order runs. -/
theorem onlyTouches_taken {l : List Part} {s w t : State} {p : Port} {o : OrderRec} (hw : w = s.withRunning p o)
    (hlink : Part.link p ∈ l) (horders : Part.orders p ∈ l) (h : OnlyTouches l w t) : OnlyTouches l s t := by
  subst hw
  refine onlyTouches_trans (onlyTouches_mono onlyTouches_withRunning fun b hb => ?_) h
  simp only [List.mem_cons, List.not_mem_nil, or_false] at hb
  rcases hb with rfl | rfl
  · exact hlink
  · exact horders

/-! ### DISCONNECT -/

@[simp] theorem State.fields_enterReturnWait (n : Ix) (r : OrderRef) (s : State) :
    (s.enterReturnWait n r).powered = s.powered ∧ (s.enterReturnWait n r).now = s.now ∧
    (s.enterReturnWait n r).table = s.table ∧ (s.enterReturnWait n r).inputs = s.inputs ∧
    (s.enterReturnWait n r).link = s.link ∧ (s.enterReturnWait n r).oe = s.oe ∧
    (s.enterReturnWait n r).berths = s.berths.set n { s.berths.get n with
      state := .returnWait, returnLimit := some s.returnTime, consenting := some r, returnForced := false, openPower := 0,
      permit := true, permitDeadTime := none } ∧
    (s.enterReturnWait n r).pru = s.pru ∧ (s.enterReturnWait n r).cs = s.cs ∧ (s.enterReturnWait n r).cp = s.cp ∧
    (s.enterReturnWait n r).gi = s.gi ∧ (s.enterReturnWait n r).ge = (s.dropFlexible n).ge ∧
    (s.enterReturnWait n r).pending = s.pending := by
  simp [enterReturnWait, assertPermit]
  rfl

/-- A record that loses its flexible grant keeps its firm one, and its bus unless that is 0 (R100, R101). -/
theorem State.recs_dropFlexible (n m : Ix) (s : State) {set : GrantUnit → GrantSet}
    (h : set = GrantUnit.active ∨ set = GrantUnit.staged) : (set (s.dropFlexible n).ge).recs.get m = if m = n then
      { firm := ((set s.ge).recs.get n).firm, flexible := 0, share := 0
        bus := if ((set s.ge).recs.get n).firm = 0 then .none else ((set s.ge).recs.get n).bus }
    else (set s.ge).recs.get m := by
  rcases h with rfl | rfl <;> simp [dropFlexible, GrantSet.put, mkGrant, Six.get_set]

theorem disconnect_argOk {tr : Byte} (h : tr.toNat ≤ 1) : (Order.disconnect tr).badArgument = false := by
  simp [Order.badArgument, h]

/-- DISCONNECT CLOSED begins the return (R18, R53, R101). -/
theorem disconnect_closed {s : State} {n : Ix} {stop : Bool} (h : PortReady s (.v n))
    (hst : (s.berth n).state = .onShore ∨ (s.berth n).state = .adopted) :
    ∃ t : State, exec (.disconnect (.v n) stop 0) s = .next t.settle ∧ OrderRuns (.disconnect (.v n) stop 0) s t ∧
      t.berth n = { s.berth n with
        state := .returnWait, returnLimit := some s.returnTime, consenting := some (s.nextRef (.v n)), returnForced := false,
        openPower := 0, permit := true, permitDeadTime := none } ∧
      (∀ set, (set = GrantUnit.active ∨ set = GrantUnit.staged) →
        (set t.ge).recs.get n =
            { firm := ((set s.ge).recs.get n).firm, flexible := 0, share := 0
              bus := if ((set s.ge).recs.get n).firm = 0 then .none else ((set s.ge).recs.get n).bus } ∧
          ∀ m, m ≠ n → (set t.ge).recs.get m = (set s.ge).recs.get m) ∧
      OnlyTouches [.link (.v n), .orders (.v n), .berth n, .grants] s t := by
  obtain ⟨w, hw⟩ : ∃ w, w = s.withRunning (.v n) ⟨.disconnect 0, stop, 0⟩ := ⟨_, rfl⟩
  have htake : w.takeDisconnect n (s.nextRef (.v n)) 0 = (w.enterReturnWait n (s.nextRef (.v n)), none) := by
    have hwst : (w.berth n).state = .onShore ∨ (w.berth n).state = .adopted := by rw [hw]; exact hst
    unfold State.takeDisconnect
    rcases hwst with hwst | hwst <;> rw [hwst] <;> rfl
  obtain ⟨he, hruns⟩ := order_runs (c := .disconnect (.v n) stop 0) rfl h
    (commonCheck_vessel rfl (disconnect_argOk (by decide))) (by rw [← hw]; exact htake) (by rw [hw]; simp [State.orders])
  have hge : (w.enterReturnWait n (s.nextRef (.v n))).ge = (w.dropFlexible n).ge := by simp
  have hwge : w.ge = s.ge := by rw [hw]; rfl
  refine ⟨_, he, hruns, ?_, fun set hset => ⟨?_, fun m hm => ?_⟩, ?_⟩
  · rw [hw]
    simp [State.berth, State.returnTime, State.param]
  · rw [hge, State.recs_dropFlexible n n w hset, if_pos rfl, hwge]
  · rw [hge, State.recs_dropFlexible n m w hset, if_neg hm, hwge]
  · rw [hw]
    apply onlyTouches_of_fields <;> simp +contextual

/-- DISCONNECT OPEN opens the breaker (R3, R18, R51). -/
theorem disconnect_open {s : State} {n : Ix} {stop : Bool} (h : PortReady s (.v n))
    (hst : (s.berth n).state = .onShore ∨ (s.berth n).state = .adopted) (hbr : (s.berth n).breaker = .closed) :
    ∃ t : State, exec (.disconnect (.v n) stop 1) s = .next t.settle ∧ OrderRuns (.disconnect (.v n) stop 1) s t ∧
      (t.berth n).state = .opening ∧ (t.berth n).purpose = some .ret ∧ (t.berth n).consenting = some (s.nextRef (.v n)) ∧
      (t.berth n).breaker = .openSent ∧ (t.berth n).motionLimit = some 300 ∧ (t.berth n).permit = false ∧
      t.isAdmitted n = false ∧ t.ge.active.recs.get n = State.noGrant ∧ t.ge.staged.recs.get n = State.noGrant ∧
      OnlyTouches [.link (.v n), .orders (.v n), .berth n, .reference, .scanner, .grants] s t := by
  obtain ⟨w, hw⟩ : ∃ w, w = s.withRunning (.v n) ⟨.disconnect 1, stop, 0⟩ := ⟨_, rfl⟩
  have htake : w.takeDisconnect n (s.nextRef (.v n)) 1 =
      ((w.enterOpening n .ret).modBerth n fun b => { b with consenting := some (s.nextRef (.v n)) }, none) := by
    have hwst : (w.berth n).state = .onShore ∨ (w.berth n).state = .adopted := by rw [hw]; exact hst
    unfold State.takeDisconnect
    rcases hwst with hwst | hwst <;> rw [hwst] <;> rfl
  obtain ⟨he, hruns⟩ := order_runs (c := .disconnect (.v n) stop 1) rfl h
    (commonCheck_vessel rfl (disconnect_argOk (by decide))) (by rw [← hw]; exact htake) (by rw [hw]; simp [State.orders])
  have hb := State.berths_enterOpening w (n := n) .ret (.inl (by rw [hw]; exact hbr))
  refine ⟨_, he, hruns, ?_, ?_, ?_, ?_, ?_, ?_, ?_, ?_, ?_, ?_⟩
  · simp [State.berth, hb]
  · simp [State.berth, hb]
  · simp [State.berth]
  · simp [State.berth, hb]
  · simp [State.berth, hb]
  · simp [State.berth, hb]
  · simp [State.isAdmitted, State.grantBerth]
  · simp [GrantSet.put]
  · simp [GrantSet.put]
  · refine onlyTouches_taken hw (by simp) (by simp) ?_
    apply onlyTouches_of_fields <;> simp +contextual [hb]

/-- Settles O21. -/
theorem disconnectAnswers : Obligations.DisconnectAnswers := by
  refine ⟨fun s n stop h hst => disconnect_closed h hst, fun s n stop h hst hbr => disconnect_open h hst hbr, ?_⟩
  rintro s n stop tr _ h rfl htr
  obtain ⟨w, hw⟩ : ∃ w, w = s.withRunning (.v n) ⟨.disconnect tr, stop, 0⟩ := ⟨_, rfl⟩
  have hwn : w.berth n = s.berth n := by rw [hw]; rfl
  have key : ∀ code, w.takeDisconnect n (s.nextRef (.v n)) tr = refuse code w → Refuses (.disconnect (.v n) stop tr) s code :=
    fun code hc => order_refuses rfl h (commonCheck_vessel rfl (disconnect_argOk htr)) (by rw [← hw]; exact hc)
  refine ⟨fun hst => key _ ?_, fun hst => key _ ?_, fun hst => key _ ?_⟩
  · simp [State.takeDisconnect, hwn, hst]
  · simp [State.takeDisconnect, hwn, hst]
  · unfold State.takeDisconnect
    rw [hwn]
    cases hs : (s.berth n).state <;> simp [hs] at hst ⊢

end Sys2Proof.Machine

namespace Sys2Proof.Machine

/-! ### The admission queue (R121, R122) -/

namespace State

/-- An entry is placed between entries that keep their order. -/
theorem insertEntry_split (e : QueueEntry) (q : List QueueEntry) :
    ∃ front behind, insertEntry e q = front ++ e :: behind ∧ front ++ behind = q := by
  induction q with
  | nil => exact ⟨[], [], rfl, rfl⟩
  | cons x q ih =>
    unfold insertEntry
    split
    · exact ⟨[], x :: q, rfl, rfl⟩
    · obtain ⟨front, behind, h1, h2⟩ := ih
      exact ⟨x :: front, behind, by rw [h1]; rfl, by rw [← h2]; rfl⟩

theorem mem_insertEntry {e x : QueueEntry} {q : List QueueEntry} : x ∈ insertEntry e q ↔ x = e ∨ x ∈ q := by
  obtain ⟨front, behind, h1, rfl⟩ := insertEntry_split e q
  rw [h1]
  simp only [List.mem_append, List.mem_cons]
  tauto

/-- R121 as an order of numbers: the class, then the time, then the berth. -/
theorem ahead_iff {e x : QueueEntry} : ahead e x = true ↔ e.prio < x.prio ∨ (e.prio = x.prio ∧
    (e.time < x.time ∨ (e.time = x.time ∧ e.berth.toNat < x.berth.toNat))) := by
  simp [ahead]

theorem ahead_trans {e x y : QueueEntry} (h : ahead e x = true) (h' : ahead x y = true) : ahead e y = true := by
  rw [ahead_iff] at *
  omega

theorem toNat_injective {n m : Ix} (h : n.toNat = m.toNat) : n = m := by
  cases n <;> cases m <;> first | rfl | simp [Ix.toNat] at h

theorem ahead_of_not {e x : QueueEntry} (h : ¬ ahead e x = true) (hne : x.berth ≠ e.berth) : ahead x e = true := by
  have hb : x.berth.toNat ≠ e.berth.toNat := fun h => hne (toNat_injective h)
  rw [ahead_iff] at *
  omega

/-- An entry of a berth that has none takes its place in a queue in order (R121). -/
theorem pairwise_insertEntry {e : QueueEntry} {q : List QueueEntry} (hq : q.Pairwise fun x y => ahead x y = true)
    (hne : ∀ x ∈ q, x.berth ≠ e.berth) : (insertEntry e q).Pairwise fun x y => ahead x y = true := by
  induction q with
  | nil => simp [insertEntry]
  | cons x q ih =>
    rw [List.pairwise_cons] at hq
    unfold insertEntry
    split
    · rename_i hex
      refine List.pairwise_cons.mpr ⟨fun y hy => ?_, List.pairwise_cons.mpr hq⟩
      rcases List.mem_cons.mp hy with rfl | hy
      · exact hex
      · exact ahead_trans hex (hq.1 y hy)
    · rename_i hex
      refine List.pairwise_cons.mpr ⟨fun y hy => ?_, ih hq.2 fun y hy => hne y (List.mem_cons_of_mem _ hy)⟩
      rcases mem_insertEntry.mp hy with rfl | hy
      · exact ahead_of_not hex (hne x List.mem_cons_self)
      · exact hq.1 y hy

/-- An AUTHORIZE for a berth without an entry leaves the queue. -/
theorem requeue_none {n : Ix} {prio : Nat} {s : State} (h : ∀ e ∈ s.ge.queue, e.berth ≠ n) : s.requeue n prio = s := by
  have : s.ge.queue.find? (fun e => decide (e.berth = n)) = none := by simpa using h
  simp [requeue, this]

/-- An AUTHORIZE for a berth with an entry gives that entry its new class and place (R122). -/
theorem ge_requeue_some {n : Ix} {prio : Nat} {e : QueueEntry} {s : State}
    (h : s.ge.queue.find? (fun e => decide (e.berth = n)) = some e) : (s.requeue n prio).ge =
      { s.ge with queue := insertEntry { e with prio } (s.ge.queue.filter fun x => decide (x.berth ≠ n)) } := by
  simp [requeue, h, leaveQueue]

/-- What an AUTHORIZE does to the queue, whatever it holds. -/
theorem requeue_spec (n : Ix) (prio : Nat) (s : State) :
    (s.requeue n prio).ge = { s.ge with queue := (s.requeue n prio).ge.queue } ∧
    (∀ e ∈ (s.requeue n prio).ge.queue, e.berth = n → e.prio = prio ∧ ∃ e0 ∈ s.ge.queue, e0.berth = n ∧ e0.time = e.time) ∧
    (∀ e, e.berth ≠ n → (e ∈ (s.requeue n prio).ge.queue ↔ e ∈ s.ge.queue)) := by
  cases hf : s.ge.queue.find? (fun e => decide (e.berth = n)) with
  | none =>
    have hno : ∀ e ∈ s.ge.queue, e.berth ≠ n := by simpa using hf
    rw [requeue_none hno]
    exact ⟨rfl, fun e he hn => absurd hn (hno e he), fun _ _ => Iff.rfl⟩
  | some e0 =>
    have he0 : e0.berth = n := by simpa using List.find?_some hf
    rw [ge_requeue_some hf]
    refine ⟨rfl, fun e he hn => ?_, fun e hn => ?_⟩
    · rcases mem_insertEntry.mp he with rfl | he
      · exact ⟨rfl, e0, List.mem_of_find?_eq_some hf, he0, rfl⟩
      · exact absurd hn (by simpa using (List.mem_filter.mp he).2)
    · simp only [mem_insertEntry, List.mem_filter, decide_eq_true_eq]
      exact ⟨fun h => h.elim (fun h => absurd (by rw [h]; exact he0) hn) And.left, fun h => .inr ⟨h, hn⟩⟩

/-- The one entry of a berth keeps its time and takes the place of its new class (R122). -/
theorem requeue_place {n : Ix} {prio : Nat} {s : State} {before after : List QueueEntry} {e : QueueEntry}
    (hq : s.ge.queue = before ++ e :: after) (he : e.berth = n) (hne : ∀ x ∈ before ++ after, x.berth ≠ n) :
    ∃ front behind, (s.requeue n prio).ge.queue = front ++ { e with prio } :: behind ∧ front ++ behind = before ++ after ∧
      (s.ge.queue.Pairwise (fun x y => ahead x y = true) →
        (s.requeue n prio).ge.queue.Pairwise fun x y => ahead x y = true) := by
  have hb : ∀ x ∈ before, x.berth ≠ n := fun x hx => hne x (List.mem_append_left _ hx)
  have ha : ∀ x ∈ after, x.berth ≠ n := fun x hx => hne x (List.mem_append_right _ hx)
  have hfind : s.ge.queue.find? (fun e => decide (e.berth = n)) = some e := by
    rw [hq, List.find?_append, List.find?_eq_none.mpr (by simpa using hb)]
    simp [he]
  have hfilter : s.ge.queue.filter (fun x => decide (x.berth ≠ n)) = before ++ after := by
    rw [hq, List.filter_append, List.filter_cons_of_neg (by simpa using he), List.filter_eq_self.mpr (by simpa using hb),
      List.filter_eq_self.mpr (by simpa using ha)]
  have hqueue : (s.requeue n prio).ge.queue = insertEntry { e with prio } (before ++ after) := by
    rw [ge_requeue_some hfind, hfilter]
  obtain ⟨front, behind, h1, h2⟩ := insertEntry_split { e with prio } (before ++ after)
  refine ⟨front, behind, hqueue.trans h1, h2, fun hp => ?_⟩
  rw [hqueue]
  refine pairwise_insertEntry ?_ fun x hx => by rw [show ({ e with prio } : QueueEntry).berth = n from he]; exact hne x hx
  rw [← hfilter]
  exact hp.filter _

end State

end Sys2Proof.Machine

namespace Sys2Proof.Machine

/-! ### AUTHORIZE -/

/-- The authorization that an AUTHORIZE gives for a stored rating (R160). -/
def givenAuthorization (stored : Nat) (prio : Byte) (cap : Word) : Authorization :=
  { prio := prio.toNat, cap := min cap.toNat stored, withdrawn := false }

/-- The berth record with a new authorization (R2, R26, R28). -/
def State.authorizeBerth (n : Ix) (prio : Byte) (cap : Word) (s : State) : State :=
  s.modBerth n fun b => { b with
    authorization := some (givenAuthorization (s.storedRating n) prio cap), rating := min cap.toNat (s.storedRating n)
    forcedOpen := false, authorizationAwaited := false }

theorem State.takeAuthorize_present {n : Ix} {prio : Byte} {cap : Word} {s : State} (h : (s.berth n).plug = .present) :
    s.takeAuthorize n prio cap = ((s.authorizeBerth n prio cap).requeue n prio.toNat,
      some (doneClamped (clipped (s.storedRating n) cap.toNat) (min cap.toNat (s.storedRating n)) 0)) := by
  have hrate : ((s.modBerth n fun b => { b with
      authorization := some (givenAuthorization (s.storedRating n) prio cap), forcedOpen := false,
      authorizationAwaited := false }).rerate n) = s.authorizeBerth n prio cap := by
    simp only [rerate, authorizeBerth, modBerth, Six.get_set_same, Six.set_set, Berth.ratingFor, givenAuthorization]
    have : min (s.storedRating n) (min cap.toNat (s.storedRating n)) = min cap.toNat (s.storedRating n) := by omega
    simp only [storedRating, param] at this ⊢
    rw [this]
  unfold takeAuthorize
  simp only [h]
  rw [if_neg (by simp)]
  have hrating : (((s.authorizeBerth n prio cap).requeue n prio.toNat).berth n).rating = min cap.toNat (s.storedRating n) := by
    simp [berth, authorizeBerth]
  rw [← hrating, ← hrate]
  rfl

theorem authorize_argOk {prio : Byte} {cap : Word} (h : prio.toNat ≤ 3) : (Order.authorize prio cap).badArgument = false := by
  simp [Order.badArgument, h]

/-- Settles O22. -/
theorem authorizeAnswers : Obligations.AuthorizeAnswers := by
  refine ⟨?_, fun s n stop berth prio cap h hb hprio hp => ⟨?_, ?_⟩⟩
  · rintro s n stop berth prio cap _ h rfl hb hprio hp
    obtain ⟨w, hw⟩ : ∃ w, w = s.withRunning .t ⟨.authorize prio cap, stop, berth⟩ := ⟨_, rfl⟩
    have hto : w.handOrder (s.nextRef .t) ⟨.authorize prio cap, stop, berth⟩ = w.takeAuthorize n prio cap := by
      simp only [State.handOrder, State.nextRef, terminal_row stop _ hb]
    have hwp : (w.berth n).plug = .present := by rw [hw]; exact hp
    have hwr : w.storedRating n = s.storedRating n := by rw [hw]; rfl
    have hge : (w.authorizeBerth n prio cap).ge = s.ge := by rw [hw]; rfl
    obtain ⟨he, hends⟩ := order_ends (c := .authorize .t stop berth prio cap) rfl h
      (commonCheck_terminal rfl hb (authorize_argOk hprio)) (by rw [← hw, hto, State.takeAuthorize_present hwp])
      (by rw [hw]; simp [State.orders, State.authorizeBerth])
    rw [hwr] at he hends
    obtain ⟨hspec, hown, hother⟩ := State.requeue_spec n prio.toNat (w.authorizeBerth n prio cap)
    rw [hge] at hspec hown hother
    refine ⟨_, he, hends, ?_, ?_, ?_, ?_, ?_, fun before e after hq hen hne => ?_, ?_⟩
    · rw [← hwr, hw]
      simp [State.berth, State.authorizeBerth, givenAuthorization]
    · simpa using hspec
    · simpa using hown
    · simpa using hother
    · intro hno
      rw [← hge] at hno
      simp [State.requeue_none hno, hge]
    · have := State.requeue_place (prio := prio.toNat) (by rw [hge]; exact hq) hen hne
      rw [hge] at this
      simpa using this
    · refine onlyTouches_taken hw (by simp) (by simp) ?_
      apply onlyTouches_of_fields <;> simp +contextual [State.endOrder, State.nextRef, State.authorizeBerth]
  · refine order_refuses rfl h (commonCheck_terminal rfl hb (authorize_argOk hprio)) ?_
    simp only [State.handOrder, State.nextRef, terminal_row stop _ hb]
    exact if_pos hp
  · refine order_refuses rfl h (commonCheck_terminal rfl hb rfl) ?_
    simp only [State.handOrder, State.nextRef, terminal_row stop _ hb]
    exact if_pos hp

end Sys2Proof.Machine

namespace Sys2Proof.Machine

/-! ### WITHDRAW -/

theorem withdraw_argOk {force : Byte} (h : force.toNat ≤ 1) : (Order.withdraw force).badArgument = false := by
  simp [Order.badArgument, h]

/-- The authorization withdrawn and the advice sent, without what follows for a waiting berth (R26). -/
def State.markWithdrawn (n : Ix) (s : State) : State :=
  (s.modBerth n fun b => { b with authorization := b.authorization.map fun a => { a with withdrawn := true } }).notify (.v n)
    .returnAdvice (some n) 1 0

theorem State.withdrawAuthorization_idle {n : Ix} {s : State} (h : (s.berth n).state.isWaiting = false) :
    s.withdrawAuthorization n = s.markWithdrawn n := by
  simp [withdrawAuthorization, markWithdrawn, h]

theorem State.withdrawAuthorization_waiting {n : Ix} {s : State} (h : (s.berth n).state.isWaiting = true) :
    s.withdrawAuthorization n = (s.markWithdrawn n).failWaiting n .notAuthorized .plugged := by
  simp [withdrawAuthorization, markWithdrawn, h]

@[simp] theorem State.fields_markWithdrawn (n : Ix) (s : State) :
    (s.markWithdrawn n).powered = s.powered ∧ (s.markWithdrawn n).now = s.now ∧ (s.markWithdrawn n).table = s.table ∧
    (s.markWithdrawn n).inputs = s.inputs ∧ (s.markWithdrawn n).oe = s.oe ∧
    (s.markWithdrawn n).berths = s.berths.set n { s.berths.get n with
      authorization := (s.berths.get n).authorization.map fun a => { a with withdrawn := true } } ∧
    (s.markWithdrawn n).pru = s.pru ∧ (s.markWithdrawn n).cs = s.cs ∧ (s.markWithdrawn n).cp = s.cp ∧
    (s.markWithdrawn n).gi = s.gi ∧ (s.markWithdrawn n).ge = s.ge ∧ (s.markWithdrawn n).pending = s.pending := by
  simp [markWithdrawn]

@[simp] theorem State.link_markWithdrawn_ne {n : Ix} {q : Port} {s : State} (h : q ≠ .v n) :
    (s.markWithdrawn n).link.get q = s.link.get q := by
  simp [markWithdrawn, link_notify_ne _ _ _ _ _ h]

/-- The RETURN_ADVICE that a notice leaves as the latest content of an open port. -/
theorem State.returnAdvice_notify {n : Ix} {s : State} (k : Nat) (h : (s.link.get (.v n)).isOpen = true) :
    ((s.notify (.v n) .returnAdvice (some n) k 0).link.get (.v n)).notices.returnAdvice.latest =
      some { berth := some n, code := some k, value := 0, period := s.ge.period } :=
  congrArg NoticeSlot.latest (s.notices_notify (.v n) .returnAdvice (some n) k 0 h)

theorem State.returnAdvice_markWithdrawn {n : Ix} {s : State} (h : (s.link.get (.v n)).isOpen = true) :
    ((s.markWithdrawn n).link.get (.v n)).notices.returnAdvice.latest =
      some { berth := some n, code := some 1, value := 0, period := s.ge.period } :=
  returnAdvice_notify (s := s.modBerth n _) 1 h

/-- A terminal row of WITHDRAW is handed to its take. -/
theorem handOrder_withdraw {w : State} {n : Ix} {r : OrderRef} (stop : Bool) {berth : Byte} (force : Byte) (hr : r.port = .t)
    (hb : berth.toNat = n.toNat) : w.handOrder r ⟨.withdraw force, stop, berth⟩ = w.takeWithdraw n force := by
  simp only [State.handOrder, hr, terminal_row stop _ hb]

/-- WITHDRAW without an opening, of a berth that does not wait (R26). -/
theorem withdraw_idle {s : State} {n : Ix} {stop : Bool} {berth force : Byte} (h : PortReady s .t)
    (hb : berth.toNat = n.toNat) (hf : force.toNat ≤ 1)
    (hno : ¬ (force = 1 ∧ (s.isLive n = true ∨ (s.berth n).state = .closing))) (hw : (s.berth n).state.isWaiting = false) :
    ∃ t : State, exec (.withdraw .t stop berth force) s = .next t.settle ∧
      OrderEnds (.withdraw .t stop berth force) s (doneWith 0 0) t ∧
      t.berth n = { s.berth n with
        authorization := (s.berth n).authorization.map fun a => { a with withdrawn := true } } ∧
      ((s.port (.v n)).isOpen = true → (t.port (.v n)).notices.returnAdvice.latest =
        some { berth := some n, code := some 1, value := 0, period := s.ge.period }) ∧
      OnlyTouches [.link .t, .link (.v n), .orders .t, .berth n] s t := by
  obtain ⟨w, hww⟩ : ∃ w, w = s.withRunning .t ⟨.withdraw force, stop, berth⟩ := ⟨_, rfl⟩
  have hwn : w.berth n = s.berth n := by rw [hww]; rfl
  have hlive : w.isLive n = s.isLive n := by rw [hww]; rfl
  have htake : w.takeWithdraw n force = (w.markWithdrawn n, some (doneWith 0 0)) := by
    unfold State.takeWithdraw
    rw [hwn, hlive, State.withdrawAuthorization_idle (by rw [hwn]; exact hw)]
    exact if_neg hno
  obtain ⟨he, hends⟩ := order_ends (c := .withdraw .t stop berth force) rfl h
    (commonCheck_terminal rfl hb (withdraw_argOk hf)) (by rw [← hww, handOrder_withdraw stop force rfl hb, htake])
    (by rw [hww]; simp [State.orders])
  refine ⟨_, he, hends, ?_, fun hopen => ?_, onlyTouches_taken hww (by simp) (by simp) ?_⟩
  · rw [hww]
    simp [State.berth]
  · have hadv := State.returnAdvice_markWithdrawn (n := n) (s := w) (by rw [hww]; simpa [State.port] using hopen)
    rw [show s.ge.period = w.ge.period by rw [hww]; rfl]
    simpa [State.port] using hadv
  · apply onlyTouches_of_fields <;> simp +contextual [State.endOrder, State.nextRef]

/-- WITHDRAW of a berth that waits ends its CONNECT (R11, R26). -/
theorem withdraw_waiting {s : State} {n : Ix} {stop : Bool} {berth force : Byte} (h : PortReady s .t)
    (hb : berth.toNat = n.toNat) (hf : force.toNat ≤ 1)
    (hno : ¬ (force = 1 ∧ (s.isLive n = true ∨ (s.berth n).state = .closing))) (hw : (s.berth n).state.isWaiting = true) :
    ∃ t : State, exec (.withdraw .t stop berth force) s = .next t.settle ∧
      OrderEnds (.withdraw .t stop berth force) s (doneWith 0 0) t ∧ (t.berth n).state = .plugged ∧
      Consented s n .failed .notAuthorized 0 t ∧ t.isAdmitted n = false ∧
      (t.berth n).authorization = (s.berth n).authorization.map (fun a => { a with withdrawn := true }) ∧
      ((s.port (.v n)).isOpen = true → (t.port (.v n)).notices.returnAdvice.latest =
        some { berth := some n, code := some 1, value := 0, period := s.ge.period }) ∧
      OnlyTouches ([.link .t, .link (.v n), .berth n, .reference, .grants] ++ allOrders) s t := by
  obtain ⟨w, hww⟩ : ∃ w, w = s.withRunning .t ⟨.withdraw force, stop, berth⟩ := ⟨_, rfl⟩
  have hwn : w.berth n = s.berth n := by rw [hww]; rfl
  have hlive : w.isLive n = s.isLive n := by rw [hww]; rfl
  have htake : w.takeWithdraw n force = ((w.markWithdrawn n).failWaiting n .notAuthorized .plugged, some (doneWith 0 0)) := by
    unfold State.takeWithdraw
    rw [hwn, hlive, State.withdrawAuthorization_waiting (by rw [hwn]; exact hw)]
    exact if_neg hno
  have hconsenting : ((w.markWithdrawn n).berth n).consenting = (s.berth n).consenting := by
    rw [← hwn]; simp [State.berth]
  obtain ⟨he, hends⟩ := order_ends (c := .withdraw .t stop berth force) rfl h
    (commonCheck_terminal rfl hb (withdraw_argOk hf)) (by rw [← hww, handOrder_withdraw stop force rfl hb, htake]) (by
      have hq := State.queue_endConsenting (s := s) (w := w.markWithdrawn n) .failed .notAuthorized 0 h hconsenting
      calc (((w.markWithdrawn n).failWaiting n .notAuthorized .plugged).orders .t).queue
          = (((w.markWithdrawn n).endConsenting n .failed .notAuthorized 0).orders .t).queue := by
            simp [State.orders, State.failConsenting]
        _ = (w.orders .t).queue := by rw [hq]; simp [State.orders]
        _ = _ := by rw [hww]; exact queue_withRunning)
  refine ⟨_, he, hends, ?_, ?_, ?_, ?_, fun hopen => ?_, onlyTouches_taken hww (by simp) ?_ ?_⟩
  · simp [State.berth]
  · refine (State.consented_failWaiting (w.markWithdrawn n) n .notAuthorized .plugged).of_steps hconsenting
      (by rw [hww]; simp) (fun r hr => ?_) (State.keepsEnded_endOrder _ _ _) (by simp [State.berth])
    rw [State.slot_of_ports (s := w) (by simp), hww, State.slot_withRunning (h.noConsent n r hr)]
  · simp [State.isAdmitted, State.grantBerth]
  · rw [← hwn]
    simp [State.berth, Berth.stopTimers]
  · have hadv := State.returnAdvice_markWithdrawn (n := n) (s := w) (by rw [hww]; simpa [State.port] using hopen)
    rw [show s.ge.period = w.ge.period by rw [hww]; rfl]
    simpa [State.port] using hadv
  · exact List.mem_append_right _ (mem_allOrders _)
  · apply onlyTouches_allOrders <;> simp +contextual

/-- WITHDRAW with force opens the breaker of a berth that is live or closing (R3, R11, R26). -/
theorem withdraw_forced {s : State} {n : Ix} {stop : Bool} {berth : Byte} (h : PortReady s .t) (hb : berth.toNat = n.toNat)
    (hst : s.isLive n = true ∨ (s.berth n).state = .closing)
    (hbr : (s.berth n).breaker = .closed ∨ (s.berth n).breaker = .closeSent) :
    ∃ t : State, exec (.withdraw .t stop berth 1) s = .next t.settle ∧
      OrderEnds (.withdraw .t stop berth 1) s (doneWith 1 0) t ∧
      (t.berth n).state = .opening ∧ (t.berth n).purpose = some .force ∧ (t.berth n).forcedOpen = true ∧
      (t.berth n).breaker = .openSent ∧ (t.berth n).motionLimit = some 300 ∧ (t.berth n).permit = false ∧
      (t.berth n).authorization = (s.berth n).authorization.map (fun a => { a with withdrawn := true }) ∧
      ((s.port (.v n)).isOpen = true → (t.port (.v n)).notices.returnAdvice.latest =
        some { berth := some n, code := some 2, value := 0, period := s.ge.period }) ∧
      Consented s n .failed .forcedOpen 0 t ∧ t.isAdmitted n = false ∧
      t.ge.active.recs.get n = State.noGrant ∧ t.ge.staged.recs.get n = State.noGrant ∧
      OnlyTouches ([.link .t, .link (.v n), .berth n, .reference, .scanner, .grants] ++ allOrders) s t := by
  obtain ⟨w, hww⟩ : ∃ w, w = s.withRunning .t ⟨.withdraw 1, stop, berth⟩ := ⟨_, rfl⟩
  have hwn : w.berth n = s.berth n := by rw [hww]; rfl
  have hlive : w.isLive n = s.isLive n := by rw [hww]; rfl
  have hnw : (w.berth n).state.isWaiting = false := by
    rw [hwn]
    rcases hst with hl | hc
    · unfold State.isLive at hl
      cases hs : (s.berth n).state <;> simp_all [BerthState.isWaiting, BerthState.isLive]
    · rw [hc]; rfl
  have htake : w.takeWithdraw n 1 = ((w.markWithdrawn n).forceOpen n, some (doneWith 1 0)) := by
    unfold State.takeWithdraw
    rw [hwn, hlive, State.withdrawAuthorization_idle hnw]
    exact if_pos ⟨rfl, hst⟩
  obtain ⟨u, hu⟩ : ∃ u, u = ((w.markWithdrawn n).failConsenting n .forcedOpen).modBerth n fun b => { b with forcedOpen := true } :=
    ⟨_, rfl⟩
  have hforce : (w.markWithdrawn n).forceOpen n = (u.enterOpening n .force).notify (.v n) .returnAdvice (some n) 2 0 := by
    rw [hu]; rfl
  have hub : u.berths.get n = { s.berth n with
      authorization := (s.berth n).authorization.map fun a => { a with withdrawn := true }
      consenting := none, forcedOpen := true } := by
    rw [hu, ← hwn]; simp [State.berth]
  have hopening := u.berths_enterOpening (n := n) .force (by rw [hub]; exact hbr)
  rw [hub] at hopening
  have hconsenting : ((w.markWithdrawn n).berth n).consenting = (s.berth n).consenting := by
    rw [← hwn]; simp [State.berth]
  obtain ⟨he, hends⟩ := order_ends (c := .withdraw .t stop berth 1) rfl h
    (commonCheck_terminal rfl hb (withdraw_argOk (by decide)))
    (by rw [← hww, handOrder_withdraw stop 1 rfl hb, htake, hforce]) (by
      have hq := State.queue_endConsenting (s := s) (w := w.markWithdrawn n) .failed .forcedOpen 0 h hconsenting
      calc (((u.enterOpening n .force).notify (.v n) .returnAdvice (some n) 2 0).orders .t).queue
          = (((w.markWithdrawn n).endConsenting n .failed .forcedOpen 0).orders .t).queue := by
            rw [hu]; simp [State.orders, State.failConsenting]
        _ = (w.orders .t).queue := by rw [hq]; simp [State.orders]
        _ = _ := by rw [hww]; exact queue_withRunning)
  have hcons : Consented (w.markWithdrawn n) n .failed .forcedOpen 0 u :=
    (State.consented_endConsenting (w.markWithdrawn n) n .failed .forcedOpen 0).after
      (State.keepsEnded_of_ports (by rw [hu]; simp [State.failConsenting])) (by simp [State.berth, hub])
  refine ⟨_, he, hends, ?_, ?_, ?_, ?_, ?_, ?_, ?_, fun hopen => ?_, ?_, ?_, ?_, ?_, onlyTouches_taken hww (by simp) ?_ ?_⟩
  · simp [State.berth, hopening]
  · simp [State.berth, hopening]
  · simp [State.berth, hopening, Berth.stopTimers]
  · simp [State.berth, hopening]
  · simp [State.berth, hopening]
  · simp [State.berth, hopening]
  · simp [State.berth, hopening, Berth.stopTimers]
  · have hport : (((u.enterOpening n .force)).link.get (.v n)).isOpen = true := by
      rw [hu]
      simp only [State.fields_enterOpening, State.link_modBerth, State.fields_failConsenting]
      rw [State.markWithdrawn, State.isOpen_notify, hww]
      simpa [State.port] using hopen
    have hadv := State.returnAdvice_notify 2 hport
    have hper : (u.enterOpening n .force).ge.period = s.ge.period := by rw [hu, hww]; simp
    rw [hper] at hadv
    simpa [State.port] using hadv
  · refine hcons.of_steps hconsenting (by rw [hww]; simp) (fun r hr => ?_) ?_ (by
      simp [State.berth, hopening, Berth.stopTimers])
    · rw [State.slot_of_ports (s := w) (by simp), hww, State.slot_withRunning (h.noConsent n r hr)]
    · exact (State.keepsEnded_of_ports (by simp)).trans (State.keepsEnded_endOrder _ _ _)
  · simp [State.isAdmitted, State.grantBerth]
  · simp [GrantSet.put]
  · simp [GrantSet.put]
  · exact List.mem_append_right _ (mem_allOrders _)
  · subst hu
    apply onlyTouches_allOrders <;> simp +contextual [hopening, State.link_notify_ne]

/-- Settles O23. -/
theorem withdrawAnswers : Obligations.WithdrawAnswers := by
  refine ⟨?_, ?_⟩
  · rintro s n stop berth force _ h rfl hb hforce
    have hf : force.toNat ≤ 1 := by
      rcases hforce with rfl | ⟨rfl, -⟩ <;> decide
    have hno : ¬ (force = 1 ∧ (s.isLive n = true ∨ (s.berth n).state = .closing)) := by
      rcases hforce with rfl | ⟨-, hl, hc⟩
      · exact fun h => absurd h.1 (by decide)
      · simp [hl, hc]
    exact ⟨fun hw => withdraw_idle h hb hf hno hw, fun hw => withdraw_waiting h hb hf hno hw⟩
  · rintro s n stop berth _ h rfl hb hst hbr
    exact withdraw_forced h hb hst hbr

end Sys2Proof.Machine

namespace Sys2Proof.Machine

/-! ### Slots of the other orders, and orders taken early -/

theorem Chain.slot_modSlot_ne {c : Chain} {pos at' : Nat} (f : Slot → Slot) (h : at' ≠ pos) :
    (c.modSlot pos f).slot? at' = c.slot? at' := by
  unfold Chain.modSlot
  cases hq : c.slot? pos with
  | none => rfl
  | some x =>
    obtain ⟨hp, -⟩ := Chain.slot_pos hq
    by_cases h0 : at' = 0
    · simp [Chain.slot?, h0]
    · have : pos - 1 ≠ at' - 1 := by omega
      simp [Chain.slot?, h0, List.getElem?_set_ne this]

/-- An order that ends DONE leaves the other orders of its chain. -/
theorem Chain.slot_endOrder_done_ne {c : Chain} {pos at' : Nat} {st : Status} (hd : st.verdict = .done) (h : at' ≠ pos) :
    (c.endOrder pos st).slot? at' = c.slot? at' := by
  unfold Chain.endOrder
  split
  · split
    · rfl
    · unfold Chain.stopOnError
      rw [hd]
      simp only [Verdict.stops, Bool.and_false, Bool.false_eq_true, if_false]
      exact slot_modSlot_ne _ h
  · rfl

namespace State

/-- An order that ends DONE leaves every other order. -/
theorem slot_endOrder_done_ne {s : State} {r r' : OrderRef} {st : Status} (hd : st.verdict = .done) (h : r ≠ r') :
    (s.endOrder r' st).slot? r = s.slot? r := by
  unfold slot?
  rw [chain_endOrder]
  split
  · rename_i he
    have hpos : r.pos ≠ r'.pos := by
      intro hp
      obtain ⟨p1, s1, k1⟩ := r
      obtain ⟨p2, s2, k2⟩ := r'
      simp_all
    cases hc : s.chain? r.port r.serial with
    | none => rfl
    | some c => simpa using Chain.slot_endOrder_done_ne hd hpos
  · rfl

theorem chain_markRunning (s : State) (r : OrderRef) (p : Port) (serial : Nat) : (s.markRunning r).chain? p serial =
    if p = r.port ∧ serial = r.serial then
      (s.chain? p serial).map (Chain.modSlot r.pos fun sl => { sl with status := .running s.now })
    else s.chain? p serial := by
  unfold chain? markRunning
  by_cases h : p = r.port
  · subst h
    have := find_modChain (f := Chain.modSlot r.pos fun sl => { sl with status := .running s.now })
      (fun c => by unfold Chain.modSlot; split <;> rfl) r.serial serial (s.orders r.port).queue
    by_cases h' : serial = r.serial <;> simp_all [modOrders, modOe, orders]
  · simp [h, modOrders, modOe, orders]

/-- The order taken becomes RUNNING at this second. -/
theorem slot_markRunning_self {s : State} {r : OrderRef} {sl : Slot} (h : s.slot? r = some sl) :
    (s.markRunning r).slot? r = some { sl with status := .running s.now } := by
  unfold slot? at h ⊢
  rw [chain_markRunning, if_pos ⟨rfl, rfl⟩]
  cases hc : s.chain? r.port r.serial with
  | none => simp [hc] at h
  | some c =>
    simp only [hc, Option.bind_some] at h
    rw [Option.map_some, Option.bind_some, Chain.slot_modSlot h, if_pos rfl]

theorem slot_markRunning_ne {s : State} {r r' : OrderRef} (h : r ≠ r') : (s.markRunning r').slot? r = s.slot? r := by
  unfold slot?
  rw [chain_markRunning]
  split
  · rename_i he
    have hpos : r.pos ≠ r'.pos := by
      intro hp
      obtain ⟨p1, s1, k1⟩ := r
      obtain ⟨p2, s2, k2⟩ := r'
      simp_all
    cases hc : s.chain? r.port r.serial with
    | none => rfl
    | some c => simpa using Chain.slot_modSlot_ne _ hpos
  · rfl

@[simp] theorem fields_markRunning (s : State) (r : OrderRef) :
    (s.markRunning r).powered = s.powered ∧ (s.markRunning r).now = s.now ∧ (s.markRunning r).table = s.table ∧
    (s.markRunning r).inputs = s.inputs ∧ (s.markRunning r).link = s.link ∧
    (s.markRunning r).oe.held = s.oe.held ∧ (s.markRunning r).oe.flags = s.oe.flags ∧
    (s.markRunning r).berths = s.berths ∧ (s.markRunning r).pru = s.pru ∧ (s.markRunning r).cs = s.cs ∧
    (s.markRunning r).cp = s.cp ∧ (s.markRunning r).gi = s.gi ∧ (s.markRunning r).ge = s.ge ∧
    (s.markRunning r).pending = s.pending := by
  simp [markRunning]

theorem orders_markRunning_ne {s : State} {r : OrderRef} {p : Port} (h : p ≠ r.port) :
    (s.markRunning r).oe.ports.get p = s.oe.ports.get p := by
  simp [markRunning, h]

end State

/-- An order taken at this second, which runs or has ended DONE with no details. -/
def TakenNow (r : OrderRef) (o : OrderRec) (s : State) : Prop :=
  s.slot? r = some { record := o, status := .running s.now } ∨ s.slot? r = some { record := o, status := .ended (doneWith 0 0) }

theorem TakenNow.of_same {r : OrderRef} {o : OrderRec} {s t : State} (h : TakenNow r o s) (hp : t.oe.ports = s.oe.ports)
    (hn : t.now = s.now) : TakenNow r o t := by
  unfold TakenNow at h ⊢
  rw [State.slot_of_ports hp, hn]
  exact h

/-- Orders that end DONE leave an order taken now as it is, and what waits at a flag ends it DONE at once (R169). -/
theorem TakenNow.endRunning {r : OrderRef} {o : OrderRec} {s : State} (h : TakenNow r o s) (p : Port) :
    TakenNow r o (s.endRunning p .done .none) := by
  unfold State.endRunning
  split
  · exact h
  rename_i r' sl hr
  rcases h with h | h
  · by_cases he : r = r'
    · subst he
      refine .inr ((State.slot_endOrder_self h rfl).trans ?_)
      simp [State.elapsed, h, doneWith]
    · refine .inl ((State.slot_endOrder_done_ne rfl he).trans ?_)
      simpa using h
  · exact .inr (State.slot_endOrder_ended h rfl)

theorem TakenNow.flagEvent {r : OrderRef} {o : OrderRec} {s : State} (h : TakenNow r o s) (n : Ix) (b : Bool) :
    TakenNow r o (s.flagEvent n b) := by
  have h' : TakenNow r o (s.setFlag n b (s.flag n b).after) := h.of_same (by simp) (by simp)
  unfold State.flagEvent
  simp only
  split
  · exact h'.endRunning _
  · exact h'
  · exact h'

theorem TakenNow.postSource {r : OrderRef} {o : OrderRec} {s : State} (h : TakenNow r o s) (n : Ix) (src : FlagSource) :
    TakenNow r o (s.postSource n src) := by
  unfold State.postSource
  simp only
  split <;> split
  · exact (h.flagEvent n false).flagEvent n true
  · exact h.flagEvent n false
  · exact h.flagEvent n true
  · exact h

/-- At the end of its take an order taken now has ended DONE (R140). -/
theorem TakenNow.ends {r : OrderRef} {o : OrderRec} {s : State} (h : TakenNow r o s) :
    (s.endOrder r (doneWith 0 0)).slot? r = some { record := o, status := .ended (doneWith 0 0) } := by
  rcases h with h | h
  · exact State.slot_endOrder_self h rfl
  · exact State.slot_endOrder_ended h rfl

/-! ### Source events on the way -/

/-- Steps that leave the flags and keep what has ENDED keep the effect of an event on the flags. -/
theorem FlagsReached.after {s t t' : State} {raised : Ix → Bool → Prop} (h : FlagsReached raised s t)
    (hf : t'.oe.flags = t.oe.flags) (hk : KeepsEnded t t') : FlagsReached raised s t' := by
  have hfl : ∀ m c, t'.flag m c = t.flag m c := State.flag_of_flags hf
  obtain ⟨h1, h2, h3, h4⟩ := h
  refine ⟨by simpa only [hfl] using h1, by simpa only [hfl] using h2, fun m second w rest hr hs hw => ?_, by
    simpa only [hfl] using h4⟩
  obtain ⟨hflag, hdone⟩ := h3 m second w rest hr hs hw
  exact ⟨by rw [hfl]; exact hflag, fun hcons r sl hrun o k hs => hk r _ (hdone hcons r sl hrun o k hs) rfl⟩

/-- What an event at the flags of `u` does is done from `s` too, where `u` differs from `s` in no order that waits at a flag of the
berth. -/
theorem sourceReached_of_sources {s u t : State} {n : Ix} {src : FlagSource} (hf : u.oe.flags = s.oe.flags)
    (hsrc : ∀ m c, u.flagSource m c = s.flagSource m c) (hn : u.now = s.now)
    (hc : ∀ m c, (u.berth m).consenting = some c → (s.berth m).consenting = some c)
    (ho : ∀ second, ∀ w ∈ (s.flag n second).waiters, (∀ m c, (s.berth m).consenting = some c → c.port ≠ w.port) →
      u.orders w.port = s.orders w.port) (h : SourceReached n src u t) : SourceReached n src s t := by
  have hfl : ∀ m c, u.flag m c = s.flag m c := State.flag_of_flags hf
  obtain ⟨h1, h2, h3, h4⟩ := h
  simp only [hfl, hsrc] at h1 h2 h3 h4
  refine ⟨h1, h2, fun m second w rest hr hs hw => ?_, h4⟩
  obtain ⟨hflag, hdone⟩ := h3 m second w rest hr hs hw
  refine ⟨hflag, fun hcons r sl hrun o k hk => ?_⟩
  have hq : u.orders w.port = s.orders w.port := by
    obtain ⟨rfl, -⟩ := hr
    exact ho second w (by rw [hw]; exact List.mem_cons_self) hcons
  have hrun' : u.running? w.port = some (r, sl) := by
    unfold State.running? at hrun ⊢
    rw [hq]
    exact hrun
  have hslot : u.slot? r = s.slot? r :=
    State.slot_of_orders (by obtain ⟨hp, -, -⟩ := State.running_slot hrun; rw [hp, hq])
  have := hdone (fun m c hmc => hcons m c (hc m c hmc)) r sl hrun' o k (by rw [hslot]; exact hk)
  rw [hn] at this
  exact this

theorem sourceReached_of_waiters {s u t : State} {n : Ix} {src : FlagSource} (hf : u.oe.flags = s.oe.flags)
    (ht : u.table = s.table) (hn : u.now = s.now)
    (hc : ∀ m c, (u.berth m).consenting = some c → (s.berth m).consenting = some c)
    (ho : ∀ second, ∀ w ∈ (s.flag n second).waiters, (∀ m c, (s.berth m).consenting = some c → c.port ≠ w.port) →
      u.orders w.port = s.orders w.port) (h : SourceReached n src u t) : SourceReached n src s t :=
  sourceReached_of_sources hf (State.flagSource_of_table ht) hn hc ho h

/-- A source event ends no order of a port that waits at no flag of its berth. -/
theorem State.orders_postSource_ne {s : State} {n : Ix} {p : Port} (src : FlagSource)
    (h : ∀ second, ∀ w ∈ (s.flag n second).waiters, w.port ≠ p) : (s.postSource n src).orders p = s.orders p := by
  have first : ∀ w rest, (s.flag n false).isSet = false → (s.flag n false).waiters = w :: rest → w.port ≠ p :=
    fun w rest _ hw => h false w (by rw [hw]; exact List.mem_cons_self)
  have second : ∀ u : State, u.flag n true = s.flag n true → (u.flagEvent n true).orders p = u.orders p := fun u hu =>
    orders_flagEvent_ne fun w rest _ hw => h true w (by rw [← hu, hw]; exact List.mem_cons_self)
  unfold postSource
  simp only
  split <;> split
  · rw [second _ (by rw [flag_flagEvent]; simp), orders_flagEvent_ne first]
  · exact orders_flagEvent_ne first
  · exact second s rfl
  · rfl

end Sys2Proof.Machine

namespace Sys2Proof.Machine

/-! ### GEN_OPENED and GEN_CLOSED -/

theorem State.berth_withRunning (s : State) (p : Port) (o : OrderRec) (n : Ix) : (s.withRunning p o).berth n = s.berth n := rfl

/-- The state in which GEN_OPENED posts its entry to ON_SHORE. -/
def State.genOpenedReady (n : Ix) (s : State) : State :=
  ((s.modBerth n fun b => { b with parallelLimit := none }).endConsenting n .done .none 1).modBerth n fun b =>
    { b with state := .onShore }

theorem State.genOpened_eq (n : Ix) (s : State) : s.genOpened n = (s.genOpenedReady n).postSource n .onShoreEntered := rfl

@[simp] theorem State.fields_genOpenedReady (n : Ix) (s : State) :
    (s.genOpenedReady n).powered = s.powered ∧ (s.genOpenedReady n).now = s.now ∧ (s.genOpenedReady n).table = s.table ∧
    (s.genOpenedReady n).inputs = s.inputs ∧ (s.genOpenedReady n).link = s.link ∧
    (s.genOpenedReady n).oe.held = s.oe.held ∧ (s.genOpenedReady n).oe.flags = s.oe.flags ∧
    (s.genOpenedReady n).berths = s.berths.set n { s.berths.get n with
      state := .onShore, parallelLimit := none, consenting := none } ∧
    (s.genOpenedReady n).pru = s.pru ∧ (s.genOpenedReady n).cs = s.cs ∧ (s.genOpenedReady n).cp = s.cp ∧
    (s.genOpenedReady n).gi = s.gi ∧ (s.genOpenedReady n).ge = s.ge ∧ (s.genOpenedReady n).pending = s.pending := by
  simp [genOpenedReady]

theorem State.slot_genOpenedReady (n : Ix) (s : State) (r : OrderRef) :
    (s.genOpenedReady n).slot? r = ((s.modBerth n fun b => { b with parallelLimit := none }).endConsenting n .done .none 1).slot? r :=
  slot_of_ports rfl r

theorem State.consented_genOpenedReady (n : Ix) (s : State) : Consented s n .done .none 1 (s.genOpenedReady n) :=
  (consented_endConsenting (s.modBerth n fun b => { b with parallelLimit := none }) n .done .none 1).of_steps
    (by simp [berth]) rfl (fun _ _ => slot_of_ports rfl _) (keepsEnded_of_ports rfl) (by simp [berth])

/-- The orders of a port that no berth consents to outlive GEN_OPENED's end of the CONNECT. -/
theorem State.orders_genOpenedReady {n : Ix} {s : State} {p : Port}
    (h : ∀ r, (s.berth n).consenting = some r → r.port ≠ p) : (s.genOpenedReady n).orders p = s.orders p := by
  have := orders_endConsenting (s := s.modBerth n fun b => { b with parallelLimit := none }) (n := n) (p := p) .done .none 1
    (fun r hr => h r (by simpa [berth] using hr))
  simpa [genOpenedReady, orders] using this

/-- GEN_OPENED reaches the flags whose source is ON_SHORE_ENTERED, as seen from a state before whose waiting orders it has. -/
theorem sourceReached_genOpened {s w : State} {n : Ix} (hf : w.oe.flags = s.oe.flags) (ht : w.table = s.table)
    (hn : w.now = s.now) (hb : w.berths = s.berths)
    (ho : ∀ second, ∀ x ∈ (s.flag n second).waiters, w.orders x.port = s.orders x.port) :
    SourceReached n .onShoreEntered s (w.genOpened n) := by
  rw [State.genOpened_eq]
  refine sourceReached_of_waiters (by simp [hf]) (by simp [ht]) (by simp [hn]) (fun m c hmc => ?_) (fun second x hx hcons => ?_)
    (State.postSource_reaches _ _ _)
  · by_cases hm : m = n
    · subst hm
      simp [State.berth] at hmc
    · simpa [State.berth, hm, hb] using hmc
  · rw [State.orders_genOpenedReady, ho second x hx]
    intro r hr
    exact hcons n r (by simpa [State.berth, hb] using hr)

theorem handOrder_genOpened {w : State} {n : Ix} {r : OrderRef} {o : OrderRec} (hr : r.port = .v n)
    (ho : o.order = .genOpened) : w.handOrder r o = w.takeGenOpened n := by
  simp only [State.handOrder, ho, hr]
  rfl

theorem handOrder_genClosed {w : State} {n : Ix} {r : OrderRef} {o : OrderRec} (hr : r.port = .v n)
    (ho : o.order = .genClosed) : w.handOrder r o = w.takeGenClosed n := by
  simp only [State.handOrder, ho, hr]
  rfl

theorem takeGenOpened_parallel {w : State} {n : Ix} (h : (w.berth n).state = .parallel) :
    w.takeGenOpened n = (w.genOpened n, some (doneWith 0 0)) := by
  simp [State.takeGenOpened, h]

theorem takeGenClosed_returnWait {w : State} {n : Ix} (h : (w.berth n).state = .returnWait) :
    w.takeGenClosed n = (w.enterReturnParallel n, some (doneWith 0 0)) := by
  simp [State.takeGenClosed, h]

@[simp] theorem State.berths_enterReturnParallel (n : Ix) (s : State) : (s.enterReturnParallel n).berths =
    s.berths.set n { s.berths.get n with
      state := .returnParallel, returnLimit := none, parallelLimit := some s.parallelTime } := rfl

/-- GEN_OPENED in PARALLEL at a berth whose CONNECT has been cancelled (R16, R29). -/
theorem genOpened_taken {s : State} {n : Ix} {stop : Bool} (h : PortReady s (.v n)) (hst : (s.berth n).state = .parallel)
    (hc : (s.berth n).consenting = none) :
    ∃ t : State, exec (.genOpened (.v n) stop) s = .next t.settle ∧ OrderEnds (.genOpened (.v n) stop) s (doneWith 0 0) t ∧
      t.berth n = { s.berth n with state := .onShore, parallelLimit := none } ∧ SourceReached n .onShoreEntered s t ∧
      OnlyTouches ([.link (.v n), .flags, .berth n] ++ allOrders) s t := by
  obtain ⟨w, hw⟩ : ∃ w, w = s.withRunning (.v n) ⟨.genOpened, stop, 0⟩ := ⟨_, rfl⟩
  have hwn : w.berth n = s.berth n := by rw [hw]; rfl
  have horders : (w.genOpened n).orders (.v n) = w.orders (.v n) := by
    rw [State.genOpened_eq, State.orders_postSource_ne, State.orders_genOpenedReady]
    · exact fun r hr => h.noConsent n r (by rw [← hwn]; exact hr)
    · intro second x hx
      refine h.noWait n second x ?_
      rwa [State.flag_of_flags (s := s) (by rw [hw]; simp)] at hx
  obtain ⟨he, hends⟩ := order_ends (c := .genOpened (.v n) stop) rfl h (commonCheck_vessel rfl rfl)
    (by rw [← hw, handOrder_genOpened rfl rfl, takeGenOpened_parallel (by rw [hwn]; exact hst)])
    (by rw [horders, hw]; exact queue_withRunning)
  refine ⟨_, he, hends, ?_, ?_, onlyTouches_taken hw (by simp) ?_ ?_⟩
  · simp only [State.genOpened_eq, State.berth, State.fields_endOrder, State.fields_postSource, State.fields_genOpenedReady,
      Six.get_set_same]
    simp only [State.berth] at hwn hc
    rw [hwn, ← hc]
  · have hreach : SourceReached n .onShoreEntered s (w.genOpened n) :=
      sourceReached_genOpened (by rw [hw]; simp) (by rw [hw]; rfl) (by rw [hw]; rfl) (by rw [hw]; rfl) fun second x hx => by
        rw [hw]; simp [State.orders, h.noWait n second x hx]
    exact hreach.after (by simp) (State.keepsEnded_endOrder _ _ _)
  · exact List.mem_append_right _ (mem_allOrders _)
  · apply onlyTouches_allOrders <;> simp +contextual [State.genOpened_eq]

/-- GEN_CLOSED in RETURN_WAIT (R19). -/
theorem genClosed_taken {s : State} {n : Ix} {stop : Bool} (h : PortReady s (.v n)) (hst : (s.berth n).state = .returnWait) :
    ∃ t : State, exec (.genClosed (.v n) stop) s = .next t.settle ∧ OrderEnds (.genClosed (.v n) stop) s (doneWith 0 0) t ∧
      t.berth n = { s.berth n with
        state := .returnParallel, returnLimit := none, parallelLimit := some s.parallelTime } ∧
      OnlyTouches [.link (.v n), .orders (.v n), .berth n] s t := by
  obtain ⟨w, hw⟩ : ∃ w, w = s.withRunning (.v n) ⟨.genClosed, stop, 0⟩ := ⟨_, rfl⟩
  obtain ⟨he, hends⟩ := order_ends (c := .genClosed (.v n) stop) rfl h (commonCheck_vessel rfl rfl)
    (by rw [← hw, handOrder_genClosed rfl rfl, takeGenClosed_returnWait (by rw [hw]; exact hst)])
    (by rw [hw]; exact queue_withRunning)
  refine ⟨_, he, hends, ?_, onlyTouches_taken hw (by simp) (by simp) ?_⟩
  · rw [hw]
    simp [State.berth, State.parallelTime, State.param]
  · apply onlyTouches_of_fields <;> simp +contextual [State.endOrder, State.nextRef, State.enterReturnParallel]

/-- An order of a vessel at its port passes the common checks. -/
theorem commonCheck_report {n : Ix} {o : OrderRec} (h : o.order = .genOpened ∨ o.order = .genClosed) :
    o.commonCheck (.v n) = none := by
  obtain ⟨x, stop, b⟩ := o
  rcases h with rfl | rfl <;> exact commonCheck_vessel rfl rfl

/-- A report taken by its port from its slot is handed to its block. -/
theorem takeOrder_report {s : State} {n : Ix} {r : OrderRef} {o : OrderRec} (hr : r.port = .v n)
    (h : o.order = .genOpened ∨ o.order = .genClosed) :
    s.takeOrder r o = State.finishTake r ((s.markRunning r).handOrder r o) := by
  rw [State.takeOrder, State.takeRunning, hr, commonCheck_report h]

/-- GEN_OPENED taken early ends the CONNECT (R16, R145). -/
theorem genOpened_early {s : State} {n : Ix} {r early : OrderRef} {o : OrderRec} (hp : early.port = .v n)
    (hslot : s.slot? early = some { record := o, status := .notTaken }) (hc : (s.berth n).consenting = some r)
    (hne : r ≠ early) (ho : o.order = .genOpened) (hst : (s.berth n).state = .parallel) :
    ∃ t : State, s.takeOrder early o = t ∧ t.slot? early = some { record := o, status := .ended (doneWith 0 0) } ∧
      Consented s n .done .none 1 t ∧
      t.berth n = { s.berth n with state := .onShore, parallelLimit := none, consenting := none } ∧
      ((∀ second, ∀ w ∈ (s.flag n second).waiters, w.port ≠ .v n) → SourceReached n .onShoreEntered s t) ∧
      OnlyTouches ([.flags, .berth n] ++ allOrders) s t := by
  obtain ⟨w, hw⟩ : ∃ w, w = s.markRunning early := ⟨_, rfl⟩
  have hwn : w.berth n = s.berth n := by rw [hw]; simp [State.berth]
  have htake : s.takeOrder early o = (w.genOpened n).endOrder early (doneWith 0 0) := by
    rw [takeOrder_report hp (.inl ho), ← hw, handOrder_genOpened hp ho, takeGenOpened_parallel (by rw [hwn]; exact hst)]
    rfl
  have hrun : TakenNow early o w := .inl (by rw [hw]; simpa using State.slot_markRunning_self hslot)
  have hready : TakenNow early o (w.genOpenedReady n) := by
    refine .inl ?_
    have hend : ((w.modBerth n fun b => { b with parallelLimit := none }).endConsenting n .done .none 1).slot? early =
        w.slot? early := by
      unfold State.endConsenting
      have hcons : ((w.modBerth n fun b => { b with parallelLimit := none }).berth n).consenting = some r := by
        rw [← hc, ← hwn]; simp [State.berth]
      simp only [hcons]
      exact State.slot_endOrder_done_ne (s := w.modBerth n fun b => { b with parallelLimit := none }) rfl (Ne.symm hne)
    rw [State.slot_genOpenedReady, hend, (State.fields_genOpenedReady n w).2.1]
    rcases hrun with h | h
    · exact h
    · rw [hw, State.slot_markRunning_self hslot] at h
      cases h
  refine ⟨_, htake, (hready.postSource n .onShoreEntered).ends, ?_, ?_, fun hwait => ?_, ?_⟩
  · refine (State.consented_genOpenedReady n w).of_steps (by rw [hwn]) (by rw [hw]; simp) (fun r' hr' => ?_)
      ((State.keepsEnded_postSource _ n .onShoreEntered).trans (State.keepsEnded_endOrder _ _ _))
      (by simp [State.berth, State.genOpened_eq])
    rw [hc] at hr'
    cases hr'
    rw [hw, State.slot_markRunning_ne hne]
  · rw [← hwn]
    simp [State.berth, State.genOpened_eq]
  · have hreach : SourceReached n .onShoreEntered s (w.genOpened n) :=
      sourceReached_genOpened (by rw [hw]; simp) (by rw [hw]; simp) (by rw [hw]; simp) (by rw [hw]; simp) fun second x hx => by
        rw [hw, State.orders, State.orders_markRunning_ne (by rw [hp]; exact hwait second x hx)]
        rfl
    exact hreach.after (by simp) (State.keepsEnded_endOrder _ _ _)
  · subst hw
    apply onlyTouches_allOrders <;> simp +contextual [State.genOpened_eq]

/-- GEN_CLOSED taken early leaves the DISCONNECT running (R19, R145). -/
theorem genClosed_early {s : State} {n : Ix} {r early : OrderRef} {o : OrderRec} (hp : early.port = .v n)
    (hslot : s.slot? early = some { record := o, status := .notTaken }) (hne : r ≠ early) (ho : o.order = .genClosed)
    (hst : (s.berth n).state = .returnWait) :
    ∃ t : State, s.takeOrder early o = t ∧ t.slot? early = some { record := o, status := .ended (doneWith 0 0) } ∧
      t.slot? r = s.slot? r ∧
      t.berth n = { s.berth n with
        state := .returnParallel, returnLimit := none, parallelLimit := some s.parallelTime } ∧
      OnlyTouches [.orders (.v n), .berth n] s t := by
  obtain ⟨w, hw⟩ : ∃ w, w = s.markRunning early := ⟨_, rfl⟩
  have hwn : w.berth n = s.berth n := by rw [hw]; simp [State.berth]
  have htake : s.takeOrder early o = (w.enterReturnParallel n).endOrder early (doneWith 0 0) := by
    rw [takeOrder_report hp (.inr ho), ← hw, handOrder_genClosed hp ho, takeGenClosed_returnWait (by rw [hwn]; exact hst)]
    rfl
  have hports : (w.enterReturnParallel n).oe.ports = w.oe.ports := rfl
  refine ⟨_, htake, ?_, ?_, ?_, ?_⟩
  · refine State.slot_endOrder_self (sl := { record := o, status := .running s.now }) ?_ rfl
    rw [State.slot_of_ports hports, hw, State.slot_markRunning_self hslot]
  · rw [State.slot_endOrder_done_ne rfl hne, State.slot_of_ports hports, hw, State.slot_markRunning_ne hne]
  · rw [hw]
    simp [State.berth, State.parallelTime, State.param]
  · subst hw
    apply onlyTouches_of_fields <;>
      simp +contextual [State.endOrder, State.enterReturnParallel, hp, State.orders_markRunning_ne]

/-- Settles O20. -/
theorem reportAnswers : Obligations.ReportAnswers := by
  refine ⟨fun s n stop h => ⟨fun hst hc => genOpened_taken h hst hc, fun hst => genClosed_taken h hst⟩,
    fun s n stop h => ?_, fun s n r early o hp hslot hc hne =>
      ⟨fun ho hst => genOpened_early hp hslot hc hne ho hst, fun ho hst => genClosed_early hp hslot hne ho hst⟩⟩
  have hopened : ∀ {code}, (s.withRunning (.v n) ⟨.genOpened, stop, 0⟩).takeGenOpened n =
      refuse code (s.withRunning (.v n) ⟨.genOpened, stop, 0⟩) → Refuses (.genOpened (.v n) stop) s code :=
    fun ht => order_refuses rfl h (commonCheck_vessel rfl rfl) ht
  refine ⟨fun hst hcause => hopened ?_, fun hst hno => hopened ?_, fun hst => ?_⟩
  · unfold State.takeGenOpened
    rw [State.berth_withRunning]
    cases hs : (s.berth n).state <;> simp [hs] at hst ⊢ <;> exact fun hno => absurd hcause hno
  · unfold State.takeGenOpened
    rw [State.berth_withRunning]
    cases hs : (s.berth n).state <;> simp [hs] at hst hno ⊢ <;> exact fun hcause => absurd hcause hno
  · refine order_refuses rfl h (commonCheck_vessel rfl rfl) ?_
    show State.takeGenClosed n _ = _
    unfold State.takeGenClosed
    rw [State.berth_withRunning]
    cases hs : (s.berth n).state <;> simp [hs] at hst ⊢

end Sys2Proof.Machine

namespace Sys2Proof.Machine

/-! ### When a breaker is commanded closed -/

/-- No breaker is commanded closed on the way from `s` to `t`. -/
def NoNewClose (s t : State) : Prop := ∀ m, (t.berth m).breaker = .closeSent → (s.berth m).breaker = .closeSent

theorem NoNewClose.trans {s t u : State} (h : NoNewClose s t) (h' : NoNewClose t u) : NoNewClose s u :=
  fun m hm => h m (h' m hm)

theorem NoNewClose.of_berths {s t : State} (h : t.berths = s.berths) : NoNewClose s t := fun m hm => by
  unfold State.berth at hm ⊢
  rwa [h] at hm

/-- A change of one berth record that leaves or opens its breaker. -/
theorem NoNewClose.of_set {s t : State} {n : Ix} {b : Berth} (h : t.berths = s.berths.set n b)
    (hb : b.breaker = .closeSent → (s.berth n).breaker = .closeSent) : NoNewClose s t := fun m hm => by
  by_cases e : m = n
  · subst e
    exact hb (by simpa [State.berth, h] using hm)
  · simpa [State.berth, h, e] using hm

namespace State

theorem noNewClose_modBerth {n : Ix} {f : Berth → Berth} (s : State) (h : (f (s.berth n)).breaker = (s.berth n).breaker) :
    NoNewClose s (s.modBerth n f) :=
  .of_set (berths_modBerth s n f) fun hc => h ▸ hc

theorem noNewClose_leaveOpen (n : Ix) (s : State) : NoNewClose s (s.leaveOpen n .openSent) :=
  .of_set (berths_leaveOpen s n .openSent) nofun

theorem noNewClose_commandOpen (n : Ix) (s : State) : NoNewClose s (s.commandOpen n) := by
  have motion : NoNewClose s ((s.modBerth n fun b => { b with motionLimit := some Config.openMotion }).leaveOpen n .openSent) :=
    (noNewClose_modBerth s (by rfl)).trans (noNewClose_leaveOpen n _)
  unfold commandOpen
  split
  · exact .of_berths rfl
  · split
    · exact .of_berths rfl
    · exact motion
  · exact motion
  · exact motion

theorem noNewClose_endConsenting (n : Ix) (v : Verdict) (c : Code) (d : Nat) (s : State) :
    NoNewClose s (s.endConsenting n v c d) :=
  .of_set (b := { s.berth n with consenting := none }) (by simp [berth]) id

theorem noNewClose_tripTo (n : Ix) (c : TripCause) (v : Nat) (d : BerthState) (p : Option Purpose) (s : State) :
    NoNewClose s (s.tripTo n c v d p) := by
  unfold tripTo
  simp only
  have behind : ∀ u : State, NoNewClose u
      ((((((u.leaveSyncing n false).withdrawPermit n).departLive n).failConsenting n c.reason).notifyBoth n .trip c.index v).postSource
        n .tripped) := fun u =>
    .of_set (b := { u.berth n with permit := false, permitDeadTime := none, consenting := none })
      (by simp [berth, withdrawPermit]) id
  have before : NoNewClose s (s.modBerth n fun b =>
      { b.stopTimers with tripCause := some c, state := d, purpose := p, approach := none, adoptOnClose := false }) :=
    noNewClose_modBerth s rfl
  split
  · exact before.trans (behind _)
  · exact (before.trans (noNewClose_commandOpen n _)).trans (behind _)

theorem noNewClose_trip (n : Ix) (c : TripCause) (s : State) : NoNewClose s (s.trip n c) := by
  unfold trip
  split
  · exact .of_berths rfl
  · exact noNewClose_tripTo _ _ _ _ _ _
  · exact noNewClose_tripTo _ _ _ _ _ _

@[simp] theorem berths_setWindow (n : Ix) (w : Window) (x : Option Nat) (s : State) : (s.setWindow n w x).berths = s.berths := by
  simp

theorem noNewClose_enterSyncing (n : Ix) (s : State) : NoNewClose s (s.enterSyncing n) := by
  unfold enterSyncing
  simp only
  split <;> exact .of_set (b := { s.berth n with state := .syncing, syncLimit := some s.syncTime }) (by simp [berth]) id

theorem noNewClose_enterDeadWait (n : Ix) (s : State) : NoNewClose s (s.enterDeadWait n) := noNewClose_modBerth s rfl

theorem noNewClose_leaveAdmitting (n : Ix) (s : State) : NoNewClose s (s.leaveAdmitting n) := by
  unfold leaveAdmitting
  split
  · split
    · exact noNewClose_enterSyncing n s
    · exact noNewClose_enterDeadWait n s
  · exact noNewClose_enterDeadWait n s

theorem noNewClose_openFromReturn (n : Ix) (f : Bool) (s : State) : NoNewClose s (s.openFromReturn n f) := by
  have opening : NoNewClose s (s.modBerth n fun b =>
      { b with state := .opening, purpose := some .ret, parallelLimit := none, returnForced := f
               openPower := (s.outlet n).meterNow }) := noNewClose_modBerth s (by rfl)
  exact (opening.trans (noNewClose_commandOpen n _)).trans (.of_berths (by simp [openFromReturn]))

theorem noNewClose_enterOnShore (n : Ix) (s : State) : NoNewClose s (s.enterOnShore n) :=
  .of_set (b := { s.berth n with state := .onShore }) (by simp [enterOnShore, berth]) id

@[simp] theorem berths_leaveSyncing (n : Ix) (b : Bool) (s : State) : (s.leaveSyncing n b).berths = s.berths := by simp

/-- The close command changes its own berth's record alone (R14). -/
theorem berths_closeCommand (n : Ix) (a : Approach) (s : State) : (s.closeCommand n a).berths = s.berths.set n { s.berth n with
    state := .closing, approach := some a, syncLimit := none, openTransitionLimit := none, deadCount := .stopped
    motionLimit := some 500, permit := false, permitDeadTime := none, breaker := .closeSent } := by
  unfold closeCommand
  simp only
  split <;> simp [withdrawPermit, berth]

/-- The berth's own breaker is the only one that a close command commands. -/
theorem closeCommand_own {n m : Ix} {a : Approach} {s : State} (h : ((s.closeCommand n a).berth m).breaker = .closeSent)
    (hs : (s.berth m).breaker ≠ .closeSent) : m = n := by
  by_contra hm
  exact hs (by simpa [berth, berths_closeCommand, hm] using h)

theorem motionLimit_closeCommand (n : Ix) (a : Approach) (s : State) :
    ((s.closeCommand n a).berth n).motionLimit = some 500 := by
  simp [berth, berths_closeCommand]

theorem mayClose_iff {s : State} {n : Ix} : s.mayClose n = true ↔ (s.berth n).plug = .present ∧ s.oe.held = false ∧
    s.isAdmitted n = true ∧ s.selectorReady n = true ∧ s.busAvailable n = true ∧ s.fresh n = true ∧ s.capacityOnline n = true := by
  simp only [mayClose, readyToClose, Bool.and_eq_true, decide_eq_true_eq, Bool.not_eq_true', and_assoc]

end State

/-- Settles O37. -/
theorem closeCommandOnlyWhen : Obligations.CloseCommandOnlyWhen := by
  intro s t n m ht hclosed hopen
  have none_of : ∀ {u : State}, NoNewClose s u → some u = some t → False := fun h e => by
    cases e
    exact hopen (h m hclosed)
  unfold State.berthNext at ht
  split at ht
  · exact (none_of (State.noNewClose_trip n .busLost s) ht).elim
  split at ht
  · exact (none_of (State.noNewClose_modBerth s (by rfl)) ht).elim
  split at ht
  · exact (none_of (.of_berths (State.berths_setWindow _ _ _ _)) ht).elim
  split at ht
  · exact (none_of (.of_berths (State.berths_setWindow _ _ _ _)) ht).elim
  split at ht
  · exact (none_of (State.noNewClose_leaveAdmitting n s) ht).elim
  split at ht
  · rename_i hdue
    simp only [State.syncCloseDue, Bool.and_eq_true, decide_eq_true_eq] at hdue
    obtain ⟨⟨hst, hwin⟩, hmay⟩ := hdue
    cases ht
    obtain ⟨hplug, hheld, hadm, hsel, hbus, hfresh, hcap⟩ := State.mayClose_iff.mp hmay
    exact ⟨State.closeCommand_own hclosed hopen, .inl ⟨hst, hwin⟩, hplug, hheld, hadm, hsel, hfresh, hbus, hcap,
      State.motionLimit_closeCommand n .sync s⟩
  split at ht
  · rename_i hdue
    simp only [State.deadCloseDue, Bool.and_eq_true, decide_eq_true_eq] at hdue
    obtain ⟨⟨⟨hst, hcount⟩, hside⟩, hmay⟩ := hdue
    cases ht
    obtain ⟨hplug, hheld, hadm, hsel, hbus, hfresh, hcap⟩ := State.mayClose_iff.mp hmay
    exact ⟨State.closeCommand_own hclosed hopen, .inr ⟨hst, hside, hcount⟩, hplug, hheld, hadm, hsel, hfresh, hbus, hcap,
      State.motionLimit_closeCommand n .dead s⟩
  split at ht
  · exact (none_of (State.noNewClose_openFromReturn n false s) ht).elim
  split at ht
  · exact (none_of (State.noNewClose_enterOnShore n s) ht).elim
  · cases ht

end Sys2Proof.Machine

namespace Sys2Proof.Machine

/-! ### BERTH_RESET -/

@[simp] theorem State.fields_clearParts (n : Ix) (s : State) :
    (s.clearParts n).powered = s.powered ∧ (s.clearParts n).now = s.now ∧ (s.clearParts n).table = s.table ∧
    (s.clearParts n).inputs = s.inputs ∧ (s.clearParts n).link = s.link ∧ (s.clearParts n).oe = s.oe ∧
    (s.clearParts n).berths = s.berths.set n { s.berths.get n with
      declaration := none, authorization := none, forcedOpen := false, declarationAwaited := false,
      authorizationAwaited := false, rating := s.storedRating n } ∧
    (s.clearParts n).pru = s.pru ∧ (s.clearParts n).cp = s.cp ∧ (s.clearParts n).gi = s.gi ∧
    (s.clearParts n).ge = { s.ge with berths := s.ge.berths.set n { s.grantBerth n with
      charge := emptyCharge, overGrant := 0, overRating := 0 } } ∧
    (s.clearParts n).pending = s.pending := by
  simp [clearParts, clearCharge, clearOverdraw, grantBerth]

theorem State.scannerCleared_clearParts (n : Ix) (s : State) : ScannerCleared n (s.clearParts n) := by
  refine scannerCleared_of_same (scannerCleared_clearCheck n (s.modBerth n fun b =>
    { b with declaration := none, authorization := none, forcedOpen := false, declarationAwaited := false,
             authorizationAwaited := false, rating := s.storedRating n })) ?_ ?_
  · simp [clearParts]
  · simp [clearParts, berth]

/-- Each running order of a list of ports ends. -/
theorem State.keepsEnded_endPorts (v : Verdict) (c : Code) (l : List Waiter) (s : State) :
    KeepsEnded s (s.forEach l fun w t => t.endRunning w.port v c) :=
  keep_forEach (P := KeepsEnded s) (fun w t ht => ht.trans (keepsEnded_endRunning t w.port v c)) l fun _ _ h _ => h

theorem State.orders_endRunning_ne {s : State} {p q : Port} (v : Verdict) (c : Code) (h : q ≠ p) :
    (s.endRunning p v c).orders q = s.orders q := by
  unfold endRunning
  split
  · rfl
  · rename_i r sl hr
    obtain ⟨hp, -, -⟩ := running_slot hr
    simp [endOrder, orders, hp, h]

theorem State.orders_endPorts {q : Port} (v : Verdict) (c : Code) {l : List Waiter} {s : State} (h : ∀ w ∈ l, w.port ≠ q) :
    (s.forEach l fun w t => t.endRunning w.port v c).orders q = s.orders q :=
  keep_forEach_mem (P := fun t => t.orders q = s.orders q)
    (fun w hw _ ht => (orders_endRunning_ne v c (Ne.symm (h w hw))).trans ht) rfl

theorem State.running_of_orders {s t : State} {p : Port} (h : t.orders p = s.orders p) : t.running? p = s.running? p := by
  unfold running?
  rw [h]

/-- The running order of each port of a list ends with the seconds it ran. -/
theorem State.finished_endPorts (v : Verdict) (c : Code) {w : Waiter} {r : OrderRef} {sl : Slot} {l : List Waiter} {s : State}
    (hw : w ∈ l) (hrun : s.running? w.port = some (r, sl)) :
    Finished s r v c 0 (s.forEach l fun w t => t.endRunning w.port v c) := by
  induction l generalizing s with
  | nil => exact absurd hw List.not_mem_nil
  | cons x l ih =>
    intro o k hk
    show State.slot? (State.forEach l _ (s.endRunning x.port v c)) r = _
    by_cases hx : x.port = w.port
    · have hdone := finished_endRunning v c (p := x.port) (by rw [hx]; exact hrun) o k hk
      exact keepsEnded_endPorts v c l _ r _ hdone rfl
    · have hwl : w ∈ l := (List.mem_cons.mp hw).resolve_left fun e => hx (by rw [e])
      have ho := orders_endRunning_ne (s := s) v c (Ne.symm hx)
      obtain ⟨hp, -, -⟩ := running_slot hrun
      have := ih hwl ((running_of_orders ho).trans hrun) o k ((slot_of_orders (by rw [hp, ho])).trans hk)
      rwa [(fields_endRunning s x.port v c).2.1] at this

/-- The two flags of a berth after their reset (R153). -/
theorem State.flag_resetFlags (n : Ix) (b : Bool) (s : State) : (s.resetFlags n).flag n b = { isSet := false, waiters := [] } := by
  have hf : ∀ (l : List Waiter) (u : State), (u.forEach l fun w t => t.endRunning w.port .failed .reset).oe.flags = u.oe.flags :=
    fun l u => keep_forEach (P := fun t => t.oe.flags = u.oe.flags) (fun w t ht => by rw [flags_endRunning]; exact ht) l rfl
  unfold resetFlags
  simp only
  rw [flag_of_flags (hf _ _)]
  cases b <;> simp [flag, SyncFlag.clear, FlagPair.get]

theorem State.mem_waiters {s : State} {n : Ix} {w : Waiter} :
    w ∈ (s.flag n false).waiters ++ (s.flag n true).waiters ↔ ∃ second, w ∈ (s.flag n second).waiters := by
  rw [List.mem_append]
  exact ⟨fun h => h.elim (fun h => ⟨_, h⟩) fun h => ⟨_, h⟩, fun ⟨b, h⟩ => by cases b; exacts [.inl h, .inr h]⟩

theorem State.orders_resetFlags {s : State} {n : Ix} {p : Port} (h : ∀ second, ∀ w ∈ (s.flag n second).waiters, w.port ≠ p) :
    (s.resetFlags n).orders p = s.orders p := by
  unfold resetFlags
  simp only
  rw [orders_endPorts]
  · rfl
  · intro w hw
    obtain ⟨b, hb⟩ := mem_waiters.mp hw
    exact h b w hb

theorem State.keepsEnded_resetFlags (n : Ix) (s : State) : KeepsEnded s (s.resetFlags n) := by
  unfold resetFlags
  simp only
  exact (keepsEnded_of_ports (by simp)).trans (keepsEnded_endPorts _ _ _ _)

theorem State.finished_resetFlags {s : State} {n : Ix} {second : Bool} {w : Waiter} {r : OrderRef} {sl : Slot}
    (hw : w ∈ (s.flag n second).waiters) (hrun : s.running? w.port = some (r, sl)) :
    Finished s r .failed .reset 0 (s.resetFlags n) := by
  intro o k hk
  have hmod : ∀ u : State, u.oe.ports = s.oe.ports → u.running? w.port = some (r, sl) := fun u hu =>
    (running_of_orders (by unfold orders; rw [hu])).trans hrun
  have hports : (s.modOe fun oe => { oe with flags := oe.flags.set n ⟨.clear, .clear⟩ }).oe.ports = s.oe.ports := rfl
  unfold resetFlags
  simp only
  exact finished_endPorts .failed .reset (mem_waiters.mpr ⟨second, hw⟩) (hmod _ hports) o k ((slot_of_ports hports r).trans hk)

/-- The berth record, the check record and the charge record that BERTH_RESET leaves, and the two flags (R32). -/
def State.resetBerth (n : Ix) (s : State) : State := ((s.resetSequence n).clearParts n).resetFlags n

@[simp] theorem State.fields_resetBerth (n : Ix) (s : State) :
    (s.resetBerth n).powered = s.powered ∧ (s.resetBerth n).now = s.now ∧ (s.resetBerth n).table = s.table ∧
    (s.resetBerth n).inputs = s.inputs ∧ (s.resetBerth n).link = s.link ∧ (s.resetBerth n).oe.held = s.oe.held ∧
    (s.resetBerth n).berths = s.berths.set n { s.berths.get n with
      declaration := none, authorization := none, forcedOpen := false, declarationAwaited := false,
      authorizationAwaited := false, rating := s.storedRating n, approach := none, purpose := none, consenting := none,
      admissionLimit := none, syncLimit := none, openTransitionLimit := none, parallelLimit := none, returnLimit := none,
      motionLimit := none, deadCount := .stopped } ∧
    (s.resetBerth n).pru = s.pru ∧ (s.resetBerth n).cp = s.cp ∧ (s.resetBerth n).gi = s.gi ∧
    (s.resetBerth n).ge = { s.ge with berths := s.ge.berths.set n { s.grantBerth n with
      charge := emptyCharge, overGrant := 0, overRating := 0 } } ∧
    (s.resetBerth n).pending = s.pending := by
  simp [resetBerth, resetSequence, Berth.stopTimers, grantBerth]
  rfl

theorem State.scannerCleared_resetBerth (n : Ix) (s : State) : ScannerCleared n (s.resetBerth n) :=
  scannerCleared_of_same (scannerCleared_clearParts n (s.resetSequence n)) (by simp [resetBerth]) (by simp [resetBerth, berth])

theorem State.keepsEnded_resetBerth (n : Ix) (s : State) : KeepsEnded s (s.resetBerth n) :=
  (keepsEnded_of_ports (by simp [resetSequence])).trans (keepsEnded_resetFlags n _)

theorem State.orders_resetBerth {s : State} {n : Ix} {p : Port} (h : ∀ second, ∀ w ∈ (s.flag n second).waiters, w.port ≠ p) :
    (s.resetBerth n).orders p = s.orders p := by
  have hfl : ∀ b, ((s.resetSequence n).clearParts n).flag n b = s.flag n b := fun b => flag_of_flags (by simp [resetSequence]) n b
  unfold resetBerth
  rw [orders_resetFlags (by simpa only [hfl] using h)]
  simp [orders, resetSequence]

theorem State.finished_resetBerth {s : State} {n : Ix} {second : Bool} {w : Waiter} {r : OrderRef} {sl : Slot}
    (hw : w ∈ (s.flag n second).waiters) (hrun : s.running? w.port = some (r, sl)) :
    Finished s r .failed .reset 0 (s.resetBerth n) := by
  have ho : ((s.resetSequence n).clearParts n).oe = s.oe := by simp [resetSequence]
  intro o k hk
  have := finished_resetFlags (s := (s.resetSequence n).clearParts n) (n := n) (second := second)
    (by rw [flag_of_flags (s := s) (by rw [ho])]; exact hw)
    ((running_of_orders (by unfold orders; rw [ho])).trans hrun) o k ((slot_of_ports (by rw [ho]) r).trans hk)
  rwa [show ((s.resetSequence n).clearParts n).now = s.now by simp [resetSequence]] at this

theorem State.takeBerthReset_eq {n : Ix} {s : State} (h : (s.berth n).state.resetRefused = false) :
    s.takeBerthReset n = ((if (s.berth n).state.isWaiting then s.failWaiting n .reset .plugged else s).resetBerth n,
      some (doneWith 0 0)) := by
  simp [takeBerthReset, h, resetBerth]

end Sys2Proof.Machine

namespace Sys2Proof.Machine

theorem handOrder_berthReset {w : State} {n : Ix} {r : OrderRef} (stop : Bool) {berth : Byte} (hr : r.port = .t)
    (hb : berth.toNat = n.toNat) : w.handOrder r ⟨.berthReset, stop, berth⟩ = w.takeBerthReset n := by
  simp only [State.handOrder, hr, terminal_row stop _ hb]

theorem BerthState.resetRefused_iff {b : BerthState} : b.resetRefused = true ↔
    b ∈ [.closing, .parallel, .onShore, .returnWait, .returnParallel, .opening, .adopted] := by
  cases b <;> simp [BerthState.resetRefused]

/-- What the state before the reset keeps of the taken order's state. -/
theorem State.fields_beforeReset (n : Ix) (w : State) {u : State}
    (hu : u = if (w.berth n).state.isWaiting then w.failWaiting n .reset .plugged else w) :
    u.powered = w.powered ∧ u.now = w.now ∧ u.table = w.table ∧ u.inputs = w.inputs ∧ u.link = w.link ∧
    u.oe.held = w.oe.held ∧ u.oe.flags = w.oe.flags ∧ u.cs = w.cs ∧ u.cp = w.cp ∧ u.gi = w.gi ∧ u.pending = w.pending ∧
    (∀ m, m ≠ n → u.berths.get m = w.berths.get m) ∧
    u.berth n = (if (w.berth n).state.isWaiting then
      { (w.berth n).stopTimers with state := .plugged, consenting := none } else w.berth n) := by
  subst hu
  split
  · simp +contextual [berth]
  · simp

/-- The orders of a port that no berth consents to outlive what comes before the reset. -/
theorem State.orders_beforeReset {n : Ix} {w u : State} {p : Port}
    (hu : u = if (w.berth n).state.isWaiting then w.failWaiting n .reset .plugged else w)
    (h : (w.berth n).state.isWaiting = true → ∀ r, (w.berth n).consenting = some r → r.port ≠ p) : u.orders p = w.orders p := by
  subst hu
  split
  · rename_i hw
    calc (w.failWaiting n .reset .plugged).orders p = (w.endConsenting n .failed .reset 0).orders p := by
          simp [orders, failConsenting]
      _ = w.orders p := orders_endConsenting _ _ _ (h hw)
  · rfl

/-- A BERTH_RESET that is not refused (R32). -/
theorem berthReset_taken {s : State} {n : Ix} {stop : Bool} {berth : Byte} (h : PortReady s .t) (hb : berth.toNat = n.toNat)
    (hst : (s.berth n).state.resetRefused = false) :
    ∃ w u t : State, w = s.withRunning .t ⟨.berthReset, stop, berth⟩ ∧
      u = (if (w.berth n).state.isWaiting then w.failWaiting n .reset .plugged else w) ∧
      t = (u.resetBerth n).endOrder (s.nextRef .t) (doneWith 0 0) ∧
      exec (.berthReset .t stop berth) s = .next t.settle ∧ OrderEnds (.berthReset .t stop berth) s (doneWith 0 0) t := by
  obtain ⟨w, hw⟩ : ∃ w, w = s.withRunning .t ⟨.berthReset, stop, berth⟩ := ⟨_, rfl⟩
  have hwn : w.berth n = s.berth n := by rw [hw]; rfl
  obtain ⟨u, hu⟩ : ∃ u, u = if (w.berth n).state.isWaiting then w.failWaiting n .reset .plugged else w := ⟨_, rfl⟩
  obtain ⟨he, hends⟩ := order_ends (c := .berthReset .t stop berth) rfl h (commonCheck_terminal rfl hb rfl)
    (by rw [← hw, handOrder_berthReset stop rfl hb, State.takeBerthReset_eq (by rw [hwn]; exact hst), ← hu]) (by
      rw [State.orders_resetBerth, State.orders_beforeReset hu, hw]
      · exact queue_withRunning
      · exact fun _ r hr => h.noConsent n r (by rw [← hwn]; exact hr)
      · intro second x hx
        refine h.noWait n second x ?_
        obtain ⟨-, -, -, -, -, -, hfl, -⟩ := State.fields_beforeReset n w hu
        rwa [State.flag_of_flags (s := s) (by rw [hfl, hw]; simp)] at hx)
  exact ⟨w, u, _, hw, hu, rfl, he, hends⟩

/-- Settles O33. -/
theorem berthResetAnswers : Obligations.BerthResetAnswers := by
  rintro s n stop berth _ h rfl hb
  refine ⟨fun hst => ?_, fun hst => ?_⟩
  · refine order_refuses rfl h (commonCheck_terminal rfl hb rfl) ?_
    rw [handOrder_berthReset stop rfl hb]
    have hr : ((s.withRunning .t ⟨.berthReset, stop, berth⟩).berth n).state.resetRefused = true :=
      BerthState.resetRefused_iff.mpr hst
    simp [State.takeBerthReset, hr]
  have hno : (s.berth n).state.resetRefused = false := by
    rw [← Bool.not_eq_true, BerthState.resetRefused_iff]; exact hst
  obtain ⟨w, u, t, hw, hu, ht, he, hends⟩ := berthReset_taken (stop := stop) h hb hno
  have hwn : w.berth n = s.berth n := by rw [hw]; rfl
  obtain ⟨-, hnow, htab, -, hlink, hheld, hflags, hcs, hcp, hgi, hpend, hother, hown⟩ := State.fields_beforeReset n w hu
  have hrating : u.storedRating n = s.storedRating n := by unfold State.storedRating State.param; rw [htab, hw]; rfl
  have htb : t.berth n = { u.berth n with
      declaration := none, authorization := none, forcedOpen := false, declarationAwaited := false,
      authorizationAwaited := false, rating := s.storedRating n, approach := none, purpose := none, consenting := none,
      admissionLimit := none, syncLimit := none, openTransitionLimit := none, parallelLimit := none, returnLimit := none,
      motionLimit := none, deadCount := .stopped } := by
    rw [ht, ← hrating]; simp [State.berth]
  have hfl : ∀ b, t.flag n b = { isSet := false, waiters := [] } := fun b => by
    rw [ht, State.flag_of_flags (State.flags_endOrder _ _ _)]
    exact State.flag_resetFlags n b _
  have hclear : ScannerCleared n t :=
    State.scannerCleared_of_same (u.scannerCleared_resetBerth n) (by rw [ht]; simp) (by rw [ht]; simp [State.berth])
  have hplug : (t.berth n).plug = (s.berth n).plug := by
    rw [htb, hown, hwn]; split <;> rfl
  have hkeep : KeepsEnded u t := ht ▸ (State.keepsEnded_resetBerth n u).trans (State.keepsEnded_endOrder _ _ _)
  refine ⟨t, he, hends, ?_, hfl false, hfl true, ?_, ?_, ?_, ?_, ?_, ?_, hclear.1, fun hwait => ⟨?_, ?_, ?_, ?_, ?_⟩,
    fun hidle => ?_⟩
  · rw [htb, hown, hwn]
    split <;> rfl
  · intro second x hx r o k hrun hcons
    have hport : x.port ≠ .t := h.noWait n second x hx
    have ho : u.orders x.port = s.orders x.port := by
      rw [State.orders_beforeReset hu, hw]
      · simp [State.orders, hport]
      · intro hwait c hc
        rw [hwn] at hwait hc
        exact hcons hwait c hc
    have hslot : u.slot? r = s.slot? r :=
      State.slot_of_orders (by obtain ⟨hp, -, -⟩ := State.running_slot hrun; rw [hp, ho])
    intro o' k' hk
    have := State.finished_resetBerth (s := u) (n := n) (second := second)
      (by rw [State.flag_of_flags (s := s) (by rw [hflags, hw]; simp)]; exact hx)
      ((State.running_of_orders ho).trans hrun) o' k' (hslot.trans hk)
    rw [show u.now = s.now by rw [hnow, hw]; rfl] at this
    rw [ht]
    exact State.keepsEnded_endOrder _ _ _ r _ this rfl
  · rw [ht]; simp [State.grantBerth]
  · rw [ht]; simp [State.grantBerth]
  · rw [ht]; simp [State.grantBerth]
  · obtain ⟨-, ⟨hfresh, -⟩ | ⟨-, c, hc, hn, ho, hrec⟩⟩ := hclear
    · exact .inl hfresh
    · exact .inr ⟨c, hc, hn, ho, hrec⟩
  · exact fun habs => (hclear.of_absent (by rw [hplug]; exact habs)).2.1
  all_goals rw [← hwn] at *
  · have hu' : u = w.failWaiting n .reset .plugged := by rw [hu]; simp [hwait]
    have hcons := State.consented_failWaiting w n .reset .plugged
    rw [hw] at hcons hu'
    exact hcons.of_withRunning h (hu' ▸ hkeep) (by rw [htb])
  · have hu' : u = w.failWaiting n .reset .plugged := by rw [hu]; simp [hwait]
    rw [ht, hu']
    simp [State.isAdmitted, State.grantBerth]
  · have hu' : u = w.failWaiting n .reset .plugged := by rw [hu]; simp [hwait]
    rw [ht, hu']
    simp
  · have hu' : u = w.failWaiting n .reset .plugged := by rw [hu]; simp [hwait]
    have hout := (State.outOfClaims_failWaiting n .reset .plugged w).of_pru (t := t) (by rw [ht, hu']; simp)
    exact hout.window
  · have hu' : u = w.failWaiting n .reset .plugged := by rw [hu]; simp [hwait]
    refine onlyTouches_taken hw (by simp) (List.mem_append_right _ (mem_allOrders _)) ?_
    rw [ht, hu']
    apply onlyTouches_allOrders <;> simp +contextual
  · have hu' : u = w := by rw [hu]; simp [hidle]
    refine onlyTouches_taken hw (by simp) (List.mem_append_right _ (mem_allOrders _)) ?_
    rw [ht, hu']
    apply onlyTouches_allOrders <;> simp +contextual

end Sys2Proof.Machine

namespace Sys2Proof.Machine

/-! ### Frames said of the parts that stay -/

theorem untouched_nil (s t : State) : Untouched [] s t := fun _ h => absurd h List.not_mem_nil

theorem untouched_cons {b : Part} {l : List Part} {s t : State} : Untouched (b :: l) s t ↔ b.same s t ∧ Untouched l s t := by
  simp [Untouched]

/-! ### Serving the admission queue -/

namespace State

/-- An admission in its own fields (R125). -/
theorem fields_admission (m : Ix) (s : State) :
    (s.admission m).powered = s.powered ∧ (s.admission m).now = s.now ∧ (s.admission m).table = s.table ∧
    (s.admission m).inputs = s.inputs ∧ (s.admission m).link.get .t = s.link.get .t ∧ (s.admission m).oe = s.oe ∧
    (s.admission m).berths = s.berths.set m { s.berths.get m with admissionLimit := none } ∧
    (s.admission m).pru = s.pru ∧ (s.admission m).cs = s.cs ∧ (s.admission m).cp = s.cp ∧
    (s.admission m).gi = s.gi ∧ (s.admission m).pending = s.pending ∧
    (s.admission m).ge.queue = s.ge.queue.filter (fun e => decide (e.berth ≠ m)) := by
  simp [admission, leaveQueue, putBoth]

theorem isAdmitted_admission (m n : Ix) (s : State) : (s.admission m).isAdmitted n = (decide (n = m) || s.isAdmitted n) := by
  by_cases h : n = m
  · subst h
    simp [admission, isAdmitted, grantBerth, leaveQueue, putBoth]
  · simp [admission, isAdmitted, grantBerth, leaveQueue, putBoth, h]

end State

/-- What serving the admission queue leaves, as berth `n` with its queue entry `e` sees it (R124, R125): other blocks stay, a berth
record changes in its admission limit alone, and the berth is admitted with its limit stopped, or its entry stands. -/
structure Served (n : Ix) (e : QueueEntry) (s t : State) : Prop where
  powered : t.powered = s.powered
  now : t.now = s.now
  table : t.table = s.table
  inputs : t.inputs = s.inputs
  link : t.link.get .t = s.link.get .t
  oe : t.oe = s.oe
  pru : t.pru = s.pru
  cs : t.cs = s.cs
  cp : t.cp = s.cp
  gi : t.gi = s.gi
  pending : t.pending = s.pending
  berths : ∀ m, t.berths.get m = { s.berths.get m with admissionLimit := (t.berths.get m).admissionLimit }
  admitted : t.isAdmitted n = true → (t.berths.get n).admissionLimit = none
  waits : t.isAdmitted n = false → e ∈ t.ge.queue

theorem Served.admission {n m : Ix} {e : QueueEntry} {s t : State} (h : Served n e s t) (he : e.berth = n) :
    Served n e s (t.admission m) := by
  obtain ⟨h1, h2, h3, h4, h5, h6, hb, h7, h8, h9, h10, h11, hq⟩ := State.fields_admission m t
  refine ⟨h1.trans h.powered, h2.trans h.now, h3.trans h.table, h4.trans h.inputs, h5.trans h.link, h6.trans h.oe,
    h7.trans h.pru, h8.trans h.cs, h9.trans h.cp, h10.trans h.gi, h11.trans h.pending, fun k => ?_, fun ha => ?_, fun ha => ?_⟩
  · rw [hb]
    by_cases hk : k = m
    · subst hk
      rw [Six.get_set_same, h.berths k]
    · rw [Six.get_set_ne _ _ hk]
      exact h.berths k
  · rw [hb]
    by_cases hk : n = m
    · subst hk
      rw [Six.get_set_same]
    · rw [Six.get_set_ne _ _ hk]
      rw [State.isAdmitted_admission] at ha
      exact h.admitted (by simpa [hk] using ha)
  · rw [State.isAdmitted_admission, Bool.or_eq_false_iff] at ha
    rw [hq]
    refine List.mem_filter.mpr ⟨h.waits ha.2, ?_⟩
    rw [he]
    simpa using ha.1

theorem Served.serveUpTo {n : Ix} {e : QueueEntry} {s : State} (he : e.berth = n) (k : Nat) :
    ∀ {t : State}, Served n e s t → Served n e s (State.serveUpTo k t) := by
  induction k with
  | zero => exact fun h => h
  | succ k ih =>
    intro t h
    unfold State.serveUpTo
    split
    · exact h
    · split
      · exact ih (h.admission he)
      · exact h

/-- A berth joins the queue with the class of its authorization and the time (R122). -/
theorem State.served_joinQueue {n : Ix} {a : Authorization} {s : State} (ha : (s.berth n).authorization = some a)
    (hno : s.isAdmitted n = false) : Served n { berth := n, prio := a.prio, time := s.now } s (s.joinQueue n) := by
  unfold joinQueue serveQueue
  simp only [ha]
  refine Served.serveUpTo (s := s) (e := { berth := n, prio := a.prio, time := s.now }) rfl _ ?_
  refine ⟨rfl, rfl, rfl, rfl, rfl, rfl, rfl, rfl, rfl, rfl, rfl, fun _ => rfl, fun h => ?_, fun _ => ?_⟩
  · have : s.isAdmitted n = true := h
    rw [hno] at this
    cases this
  · exact mem_insertEntry.mpr (.inl rfl)

/-! ### CONNECT -/

/-- A request that is filed stands in the queue or is in flight (R60, R61). -/
theorem State.filed_fileRequest (n : Ix) (s : State) :
    n ∈ (s.fileRequest n).cs.queue ∨ ∃ c, (s.fileRequest n).cs.scanner = .running c ∧ c.berth = n := by
  unfold fileRequest
  split
  · obtain ⟨u, hu⟩ : ∃ u, u = s.modCs fun u => { u with queue := u.queue ++ [n] } := ⟨_, rfl⟩
    rw [← hu]
    have hq : u.cs.queue = s.cs.queue ++ [n] := by rw [hu]; rfl
    have hmem : n ∈ u.cs.queue := by rw [hq]; simp
    rcases u.chooseCheck_cases with e | ⟨-, m, o, e, hm⟩ <;> rw [e]
    · exact .inl hmem
    · rcases hm with ⟨-, rest, hr⟩ | ⟨-, hr, -⟩
      · rw [hr] at hmem
        rcases List.mem_cons.mp hmem with rfl | hmem
        · exact .inr ⟨_, rfl, rfl⟩
        · exact .inl (by simp [hr, hmem])
      · rw [hr] at hmem
        cases hmem
  · rename_i h
    unfold filing at h
    split at h
    · rename_i hc
      exact .inl (by simpa using hc)
    · split at h <;> cases h
  · rename_i h
    unfold filing at h
    split at h
    · cases h
    · split at h
      · rename_i hc
        rw [Option.any_eq_true] at hc
        obtain ⟨c, hc, hn⟩ := hc
        refine .inr ⟨c, ?_, by simpa using hn⟩
        unfold inFlight at hc
        split at hc <;> simp_all
      · cases h

/-- The limit and the selector command of a berth in ADMITTING (R5, R9). -/
def State.startAdmitting (n : Ix) (minutes : Nat) (s : State) : State :=
  let t := if s.isAdmitted n then s else s.modBerth n fun b => { b with admissionLimit := some (60 * minutes) }
  if t.selectorDue n then t.selectorCommand n else t

/-- An accepted CONNECT with a wait (R9). -/
theorem State.enterAdmitting_eq {n : Ix} {r : OrderRef} {minutes : Nat} {s v : State} (hm : minutes ≠ 0)
    (hv : v = ((s.modBerth n fun b => { b with
      state := .admitting, consenting := some r, returnForced := false, openPower := 0, purpose := none
      approach := none }).joinQueue n).startAdmitting n minutes) :
    s.enterAdmitting n r minutes = if v.fresh n then v else v.fileRequest n := by
  subst hv
  unfold enterAdmitting startAdmitting
  simp only [hm, if_false, ite_self]

@[simp] theorem State.fields_startAdmitting (n : Ix) (k : Nat) (s : State) :
    (s.startAdmitting n k).powered = s.powered ∧ (s.startAdmitting n k).now = s.now ∧ (s.startAdmitting n k).table = s.table ∧
    (s.startAdmitting n k).inputs = s.inputs ∧ (s.startAdmitting n k).link = s.link ∧ (s.startAdmitting n k).oe = s.oe ∧
    (s.startAdmitting n k).pru = s.pru ∧ (s.startAdmitting n k).cs = s.cs ∧ (s.startAdmitting n k).cp = s.cp ∧
    (s.startAdmitting n k).gi = s.gi ∧ (s.startAdmitting n k).ge = s.ge ∧ (s.startAdmitting n k).pending = s.pending := by
  unfold startAdmitting selectorCommand
  simp only
  split <;> split <;> simp

end Sys2Proof.Machine

namespace Sys2Proof.Machine

/-- The record of a berth that enters ADMITTING (R9). -/
def Berth.admitting (r : OrderRef) (b : Berth) : Berth :=
  { b with state := .admitting, consenting := some r, returnForced := false, openPower := 0, purpose := none, approach := none }

theorem State.berths_startAdmitting_ne {n m : Ix} (k : Nat) (s : State) (h : m ≠ n) :
    (s.startAdmitting n k).berths.get m = s.berths.get m := by
  unfold startAdmitting selectorCommand
  simp only
  split <;> split <;> simp [h]

/-- The berth's own record, with the limit of an unadmitted berth and the selector commanded when that is due. -/
theorem State.berth_startAdmitting (n : Ix) (k : Nat) (s : State) : (s.startAdmitting n k).berths.get n =
    let b := { s.berths.get n with
      admissionLimit := if s.isAdmitted n then (s.berths.get n).admissionLimit else some (60 * k) }
    if s.selectorDue n then
      { b with moving := true, bus := .none, commanded := (s.berths.get n).declaredBus, selectorLimit := some 4 } else b := by
  have hdue : (s.modBerth n fun b => { b with admissionLimit := some (60 * k) }).selectorDue n = s.selectorDue n := by
    simp only [selectorDue, berth, berths_modBerth, Six.get_set_same]
    rfl
  unfold startAdmitting selectorCommand
  by_cases ha : s.isAdmitted n = true
  · simp only [ha, if_true]
    split <;> simp [Config.selectorLimit]
  · simp only [ha, Bool.false_eq_true, if_false, hdue]
    split <;> simp [Config.selectorLimit, Berth.declaredBus]

theorem connectRefused_none {s : State} {n : Ix} {d : Declaration} {a : Authorization} (hheld : s.oe.held = false)
    (hst : (s.berth n).state = .plugged) (hd : (s.berth n).declaration = some d) (hcls : d.cls = s.storedClass n)
    (ha : (s.berth n).authorization = some a) (hwd : a.withdrawn = false) : s.connectRefused n = none := by
  simp [State.connectRefused, hheld, hst, hd, State.declaredForOutlet, hcls, State.authorized, ha, hwd]

/-- What an accepted CONNECT passes on besides the berth record and the scanner: the state after the queue was served. -/
theorem State.same_connect {n : Ix} {e : QueueEntry} {k : Nat} {s u v t : State} (hserved : Served n e s u)
    (hv : v = u.startAdmitting n k) (ht : t = if v.fresh n then v else v.fileRequest n) :
    t.powered = s.powered ∧ t.now = s.now ∧ t.table = s.table ∧ t.inputs = s.inputs ∧ t.link.get .t = s.link.get .t ∧
    t.oe = s.oe ∧ t.berths = v.berths ∧ t.pru = s.pru ∧ t.cp = s.cp ∧ t.gi = s.gi ∧ t.ge = u.ge ∧ t.pending = s.pending := by
  have hvf := fields_startAdmitting n k u
  rw [← hv] at hvf
  obtain ⟨h1, h2, h3, h4, h5, h6, h7, h8, h9, h10, h11, h12⟩ := hvf
  have htv : t.powered = v.powered ∧ t.now = v.now ∧ t.table = v.table ∧ t.inputs = v.inputs ∧ t.link = v.link ∧
      t.oe = v.oe ∧ t.berths = v.berths ∧ t.pru = v.pru ∧ t.cp = v.cp ∧ t.gi = v.gi ∧ t.ge = v.ge ∧ t.pending = v.pending := by
    rw [ht]
    split <;> simp
  obtain ⟨g1, g2, g3, g4, g5, g6, g7, g8, g9, g10, g11, g12⟩ := htv
  exact ⟨g1.trans (h1.trans hserved.powered), g2.trans (h2.trans hserved.now), g3.trans (h3.trans hserved.table),
    g4.trans (h4.trans hserved.inputs), by rw [g5, h5, hserved.link], g6.trans (h6.trans hserved.oe), g7,
    g8.trans (h7.trans hserved.pru), g9.trans (h9.trans hserved.cp), g10.trans (h10.trans hserved.gi), g11.trans h11,
    g12.trans (h12.trans hserved.pending)⟩

/-- Settles O18. -/
theorem connectStarts : Obligations.ConnectStarts := by
  intro s n stop wait d a h hpos hwait hheld hst hd hcls ha hwd hno
  obtain ⟨w, hw⟩ : ∃ w, w = s.withRunning (.v n) ⟨.connect wait, stop, 0⟩ := ⟨_, rfl⟩
  have hwn : w.berth n = s.berth n := by rw [hw]; rfl
  obtain ⟨x, hx⟩ : ∃ x, x = w.modBerth n (Berth.admitting (s.nextRef (.v n))) := ⟨_, rfl⟩
  obtain ⟨u, hu⟩ : ∃ u, u = x.joinQueue n := ⟨_, rfl⟩
  obtain ⟨v, hv⟩ : ∃ v, v = u.startAdmitting n wait.toNat := ⟨_, rfl⟩
  obtain ⟨t, ht⟩ : ∃ t, t = if v.fresh n then v else v.fileRequest n := ⟨_, rfl⟩
  have hxn : x.berths.get n = Berth.admitting (s.nextRef (.v n)) (s.berth n) := by rw [hx, ← hwn]; simp [State.berth]
  have hserved : Served n { berth := n, prio := a.prio, time := x.now } x u := by
    rw [hu]
    refine State.served_joinQueue ?_ ?_
    · simp only [State.berth, hxn, Berth.admitting]
      exact ha
    · rw [hx, hw]
      exact hno
  have htake : w.takeConnect n (s.nextRef (.v n)) wait = (t, none) := by
    have hr : w.connectRefused n = none := by
      rw [hw]
      exact connectRefused_none (s := s.withRunning (.v n) ⟨.connect wait, stop, 0⟩) hheld hst hd hcls ha hwd
    unfold State.takeConnect
    simp only [hr]
    rw [State.enterAdmitting_eq (v := v) (by omega) (by rw [hv, hu, hx]; rfl), ← ht]
  have hsame := State.same_connect hserved hv ht
  obtain ⟨hpow, hnow, htab, hin, hlink, hoe, hberths, hpru, hcp, hgi, hge, hpend⟩ := hsame
  obtain ⟨he, hruns⟩ := order_runs (c := .connect (.v n) stop wait) rfl h
    (commonCheck_vessel rfl (by simp [Order.badArgument, hwait])) (by rw [← hw]; exact htake) (by
      unfold State.orders
      rw [hoe, hx, hw]
      exact queue_withRunning)
  have hown := State.berth_startAdmitting n wait.toNat u
  have hun := hserved.berths n
  have hadm : t.isAdmitted n = u.isAdmitted n := by unfold State.isAdmitted State.grantBerth; rw [hge]
  rw [← hv, ← hberths, hun, hxn] at hown
  dsimp only at hown
  refine ⟨t, he, hruns, ?_, ?_, ?_, fun hna => ?_, fun hmov hbus hbr => ?_, ?_, fun m hm => ?_, ?_⟩
  · rw [State.berth, hown]
    split <;> rfl
  · rw [State.berth, hown]
    split <;> rfl
  · rw [State.berth, hown, hadm]
    by_cases hau : u.isAdmitted n = true
    · have hlim := hserved.admitted hau
      simp only [hau, if_true]
      split <;> exact hlim
    · simp only [hau, Bool.false_eq_true, if_false]
      split <;> rfl
  · rw [hadm] at hna
    refine ⟨_, hge ▸ hserved.waits hna, rfl, rfl, ?_⟩
    rw [hx, hw]
    rfl
  · have hdue : u.selectorDue n = true := by
      unfold State.selectorDue State.berth
      rw [hun, hxn]
      simp [Berth.admitting, Berth.declaredBus, hmov, hd, hbus, hbr]
    rw [State.berth, hown, if_pos hdue]
    refine ⟨rfl, rfl, ?_, rfl⟩
    simp [Berth.admitting, Berth.declaredBus, hd]
  · by_cases hf : v.fresh n = true
    · refine .inl ?_
      have hcs : v.cs = s.cs := by
        have := State.fields_startAdmitting n wait.toNat u
        rw [← hv] at this
        obtain ⟨-, -, -, -, -, -, -, hcs, -⟩ := this
        rw [hcs, hserved.cs, hx, hw]; rfl
      have htable : v.table = s.table := by
        have := State.fields_startAdmitting n wait.toNat u
        rw [← hv] at this
        obtain ⟨-, -, htb, -⟩ := this
        rw [htb, hserved.table, hx, hw]; rfl
      unfold State.fresh State.check State.checkWindow State.param at hf ⊢
      rwa [hcs, htable] at hf
    · refine .inr ?_
      rw [if_neg hf] at ht
      rw [ht]
      exact State.filed_fileRequest n v
  · have hum := hserved.berths m
    have hxm : x.berths.get m = s.berths.get m := by rw [hx, hw]; simp [hm]
    have hvm : t.berths.get m = u.berths.get m := by rw [hberths, hv, State.berths_startAdmitting_ne _ _ hm]
    rw [hxm, ← hvm] at hum
    exact hum
  · simp only [untouched_cons, Part.same, untouched_nil, and_true, State.port, State.orders]
    rw [hpow, hnow, htab, hin, hlink, hoe, hpru, hcp, hgi, hpend, hx, hw]
    simp

end Sys2Proof.Machine

namespace Sys2Proof.Machine

/-! ### Trips -/

namespace State

/-- The state in which a trip ends the consenting order (R22). -/
def tripBefore (n : Ix) (cause : TripCause) (dest : BerthState) (purpose : Option Purpose) (s : State) : State :=
  let t := s.modBerth n fun b =>
    { b.stopTimers with tripCause := some cause, state := dest, purpose, approach := none, adoptOnClose := false }
  let t := if (s.berth n).breaker = .opened then t else t.commandOpen n
  ((t.leaveSyncing n false).withdrawPermit n).departLive n

theorem tripTo_eq (n : Ix) (c : TripCause) (v : Nat) (d : BerthState) (p : Option Purpose) (s : State) : s.tripTo n c v d p =
    (((s.tripBefore n c d p).failConsenting n c.reason).notifyBoth n .trip c.index v).postSource n .tripped := rfl

theorem consenting_commandOpen (n m : Ix) (s : State) : ((s.commandOpen n).berth m).consenting = (s.berth m).consenting := by
  by_cases hm : m = n
  · subst hm
    unfold commandOpen
    split
    · rfl
    · split <;> simp [berth]
    · simp [berth]
    · simp [berth]
  · rw [berth, berths_commandOpen_ne s hm, berth]

theorem consenting_tripBefore (n : Ix) (c : TripCause) (d : BerthState) (p : Option Purpose) (s : State) :
    ((s.tripBefore n c d p).berth n).consenting = (s.berth n).consenting := by
  unfold tripBefore
  simp only
  split
  · simp [berth, withdrawPermit, Berth.stopTimers]
  · have := consenting_commandOpen n n (s.modBerth n fun b =>
      { b.stopTimers with tripCause := some c, state := d, purpose := p, approach := none, adoptOnClose := false })
    unfold berth at this ⊢
    simpa [withdrawPermit, Berth.stopTimers] using this

@[simp] theorem oe_tripBefore (n : Ix) (c : TripCause) (d : BerthState) (p : Option Purpose) (s : State) :
    (s.tripBefore n c d p).oe = s.oe ∧ (s.tripBefore n c d p).now = s.now := by
  unfold tripBefore
  simp only
  split <;> simp [withdrawPermit]

@[simp] theorem consenting_tripTo (n : Ix) (c : TripCause) (v : Nat) (d : BerthState) (p : Option Purpose) (s : State) :
    ((s.tripTo n c v d p).berth n).consenting = none := by
  rw [tripTo_eq]
  simp [berth]

/-- A trip ends the berth's consenting order FAILED with its reason (R22). -/
theorem consented_tripTo (s : State) (n : Ix) (c : TripCause) (v : Nat) (d : BerthState) (p : Option Purpose) :
    Consented s n .failed c.reason 0 (s.tripTo n c v d p) := by
  rw [tripTo_eq]
  refine (consented_endConsenting (s.tripBefore n c d p) n .failed c.reason 0).of_steps (consenting_tripBefore n c d p s)
    (by simp) (fun r _ => slot_of_ports (by simp) r) ?_ (by simp [berth])
  exact (keepsEnded_of_ports (by simp [failConsenting])).trans (keepsEnded_postSource _ n .tripped)

/-- A trip touches its own parts (R22, R33). -/
theorem onlyTouches_tripTo (s : State) (n : Ix) (c : TripCause) (v : Nat) (d : BerthState) (p : Option Purpose) :
    OnlyTouches (tripParts n) s (s.tripTo n c v d p) := by
  apply onlyTouches_allOrders <;> simp +contextual [link_tripTo_ne, berths_tripTo_ne]

theorem isAdmitted_tripTo (s : State) (n : Ix) (c : TripCause) (v : Nat) (d : BerthState) (p : Option Purpose) :
    (s.tripTo n c v d p).isAdmitted n = false := by
  simp [isAdmitted, grantBerth]

theorem noGrant_tripTo (s : State) (n : Ix) (c : TripCause) (v : Nat) (d : BerthState) (p : Option Purpose) :
    (s.tripTo n c v d p).ge.active.recs.get n = noGrant ∧ (s.tripTo n c v d p).ge.staged.recs.get n = noGrant := by
  simp [GrantSet.put]

end State

/-- A trip of a berth whose breaker is not open, with the settled account of it (R22). -/
theorem tripped_tripTo {s : State} {n : Ix} {c : TripCause} (h : (s.berth n).breaker ≠ .opened) :
    Tripped s n c (s.tripTo n c 0 .tripped none) := by
  have hb := s.berths_tripTo c 0 .tripped none (n := n) h
  obtain ⟨hactive, hstaged⟩ := s.noGrant_tripTo n c 0 .tripped none
  refine ⟨?_, ?_, ?_, ?_, s.isAdmitted_tripTo n c 0 _ _, hactive, hstaged, fun p hp => s.noticed_tripTo n c 0 _ _ hp,
    fun _ => s.sourceReached_tripTo n c 0 _ _⟩ <;> simp [State.berth, hb]

/-! ### The limits of the sequence -/

theorem State.queuePosition_split {n : Ix} {s : State} {before after : List QueueEntry} {e : QueueEntry}
    (hq : s.ge.queue = before ++ e :: after) (he : e.berth = n) (hb : ∀ x ∈ before, x.berth ≠ n) :
    s.queuePosition n = before.length + 1 := by
  have : s.ge.queue.findIdx? (fun e => decide (e.berth = n)) = some before.length := by
    rw [hq, List.findIdx?_append, List.findIdx?_eq_none_iff.mpr (by simpa using hb)]
    simp [List.findIdx?_cons, he]
  simp [queuePosition, this]

theorem State.queuePosition_none {n : Ix} {s : State} (h : ∀ e ∈ s.ge.queue, e.berth ≠ n) : s.queuePosition n = 0 := by
  have : s.ge.queue.findIdx? (fun e => decide (e.berth = n)) = none := by simpa using h
  simp [queuePosition, this]

/-- The admission limit expires (R10, R158). -/
theorem State.consented_headroomFailed (s : State) (n : Ix) :
    Consented s n .failed .noHeadroom (s.queuePosition n) (s.headroomFailed n) :=
  (consented_endConsenting s n .failed .noHeadroom (s.queuePosition n)).after
    (keepsEnded_of_ports (by simp [headroomFailed])) (by simp [berth, headroomFailed, Berth.stopTimers])

/-- The limits of the three waiting states (R10, R12, R13). -/
theorem waitingLimits {s : State} {n : Ix} (h : s.powered = true) :
    ((s.berth n).state = .admitting → (s.berth n).admissionLimit.isSome = true →
      ∃ t : State, exec (.admissionLimitExpiry n) s = .next t.settle ∧ (t.berth n).state = .plugged ∧
        (∀ before e after, s.ge.queue = before ++ e :: after → e.berth = n → (∀ x ∈ before, x.berth ≠ n) →
          Consented s n .failed .noHeadroom (before.length + 1) t) ∧
        ((∀ e ∈ s.ge.queue, e.berth ≠ n) → Consented s n .failed .noHeadroom 0 t) ∧
        (t.berth n).admissionLimit = none ∧ (∀ e ∈ t.ge.queue, e.berth ≠ n) ∧ t.isAdmitted n = false ∧
        OnlyTouches ([.berth n, .reference, .grants] ++ allOrders) s t) ∧
    ((s.berth n).state = .syncing → (s.berth n).syncLimit.isSome = true →
      ∃ t : State, exec (.syncLimitExpiry n) s = .next t.settle ∧ (t.berth n).state = .plugged ∧
        Consented s n .failed .syncTimeout 0 t ∧ (t.berth n).syncLimit = none ∧ (t.ship n).window = .inactive ∧
        t.holdsClaim n = false ∧ t.isAdmitted n = false ∧
        OnlyTouches ([.berth n, .reference, .grants] ++ allOrders) s t) ∧
    ((s.berth n).state = .deadWait → (s.berth n).openTransitionLimit.isSome = true →
      ∃ t : State, exec (.openTransitionLimitExpiry n) s = .next t.settle ∧ (t.berth n).state = .plugged ∧
        Consented s n .failed .deadTimeout 0 t ∧ (t.berth n).openTransitionLimit = none ∧
        (t.berth n).deadCount = .stopped ∧ t.isAdmitted n = false ∧
        OnlyTouches ([.berth n, .reference, .grants] ++ allOrders) s t) := by
  have frame : ∀ c, OnlyTouches ([.berth n, .reference, .grants] ++ allOrders) s (s.failWaiting n c .plugged) := fun c => by
    apply onlyTouches_allOrders <;> simp +contextual
  have admitted : ∀ c, (s.failWaiting n c .plugged).isAdmitted n = false := fun c => by
    simp [State.isAdmitted, State.grantBerth]
  refine ⟨fun hst hl => ?_, fun hst hl => ?_, fun hst hl => ?_⟩
  · have ht : s.admissionExpires n = s.headroomFailed n := if_pos ⟨hst, hl⟩
    have hcons := s.consented_headroomFailed n
    refine ⟨_, ht ▸ event_next (f := State.admissionExpires n) h, ?_, fun before e after hq he hb => ?_, fun hno => ?_, ?_, ?_,
      ?_, ?_⟩
    · simp [State.headroomFailed, State.berth]
    · rwa [State.queuePosition_split hq he hb] at hcons
    · rwa [State.queuePosition_none hno] at hcons
    · simp [State.headroomFailed, State.berth, Berth.stopTimers]
    · simp [State.headroomFailed]
    · simp [State.headroomFailed, State.isAdmitted, State.grantBerth]
    · apply onlyTouches_allOrders <;> simp +contextual [State.headroomFailed]
  · have ht : s.syncExpires n = s.failWaiting n .syncTimeout .plugged := if_pos ⟨hst, hl⟩
    have hout := s.outOfClaims_failWaiting n .syncTimeout .plugged
    exact ⟨_, ht ▸ event_next (f := State.syncExpires n) h, by simp [State.berth], s.consented_failWaiting n .syncTimeout _,
      by simp [State.berth, Berth.stopTimers], hout.window, hout.holdsClaim, admitted _, frame _⟩
  · have ht : s.openTransitionExpires n = s.failWaiting n .deadTimeout .plugged := if_pos ⟨hst, hl⟩
    exact ⟨_, ht ▸ event_next (f := State.openTransitionExpires n) h, by simp [State.berth],
      s.consented_failWaiting n .deadTimeout _, by simp [State.berth, Berth.stopTimers],
      by simp [State.berth, Berth.stopTimers], admitted _, frame _⟩

/-- The record of a berth that opens from RETURN_PARALLEL (R20). -/
theorem State.berths_openFromReturn {n : Ix} {f : Bool} {s : State} (h : (s.berths.get n).breaker = .closed) :
    (s.openFromReturn n f).berths = s.berths.set n { s.berths.get n with
      state := .opening, purpose := some .ret, parallelLimit := none, returnForced := f
      openPower := (s.outlet n).meterNow, breaker := .openSent, motionLimit := some 300, permitDeadTime := none } := by
  unfold openFromReturn
  rw [(fields_departLive _ _).2.2.2.2.2.2.1, berths_commandOpen]
  · simp
  · simp [h]

@[simp] theorem State.fields_openFromReturn (n : Ix) (f : Bool) (s : State) :
    (s.openFromReturn n f).powered = s.powered ∧ (s.openFromReturn n f).now = s.now ∧
    (s.openFromReturn n f).table = s.table ∧ (s.openFromReturn n f).inputs = s.inputs ∧
    (s.openFromReturn n f).link = s.link ∧ (s.openFromReturn n f).oe = s.oe ∧ (s.openFromReturn n f).cp = s.cp ∧
    (s.openFromReturn n f).gi = s.gi ∧ (s.openFromReturn n f).ge = (s.departLive n).ge ∧
    (s.openFromReturn n f).pending = s.pending := by
  simp [openFromReturn]

/-- The limits of the closed states (R16, R19, R20). -/
theorem closedLimits {s : State} {n : Ix} (h : s.powered = true) :
    ((s.berth n).state = .parallel → (s.berth n).parallelLimit.isSome = true → (s.berth n).breaker = .closed →
      ∃ t : State, exec (.parallelLimitExpiry n) s = .next t.settle ∧ (t.berth n).state = .opening ∧
        (t.berth n).purpose = some .trip ∧ (t.berth n).tripCause = some .parallelTimeout ∧
        (t.berth n).breaker = .openSent ∧ (t.berth n).motionLimit = some 300 ∧ (t.berth n).parallelLimit = none ∧
        Consented s n .failed .parallelTimeout 0 t ∧ t.isAdmitted n = false ∧
        (∀ p, p = .t ∨ p = .v n → Noticed s t p .trip (some n) 3 0) ∧ SourceReached n .tripped s t ∧
        OnlyTouches (tripParts n) s t) ∧
    ((s.berth n).state = .returnParallel → (s.berth n).parallelLimit.isSome = true → (s.berth n).breaker = .closed →
      ∃ t : State, exec (.returnParallelLimitExpiry n) s = .next t.settle ∧ (t.berth n).state = .opening ∧
        (t.berth n).purpose = some .ret ∧ (t.berth n).returnForced = true ∧
        (t.berth n).openPower = (s.outlet n).meterNow ∧ (t.berth n).breaker = .openSent ∧
        (t.berth n).motionLimit = some 300 ∧ (t.berth n).permit = (s.berth n).permit ∧
        (t.berth n).consenting = (s.berth n).consenting ∧ t.isAdmitted n = false ∧
        OnlyTouches [.berth n, .reference, .scanner, .grants] s t) ∧
    ((s.berth n).state = .returnWait → (s.berth n).returnLimit.isSome = true →
      ∃ t : State, exec (.returnLimitExpiry n) s = .next t.settle ∧
        (t.berth n).state = (if (s.berth n).declarationAwaited ∨ (s.berth n).authorizationAwaited then .adopted
          else .onShore) ∧
        (t.berth n).returnLimit = none ∧ (t.berth n).permit = false ∧ Consented s n .failed .returnTimeout 0 t ∧
        OnlyTouches (.berth n :: allOrders) s t) := by
  refine ⟨fun hst hl hbr => ?_, fun hst hl hbr => ?_, fun hst hl => ?_⟩
  · have ht : s.parallelExpires n = s.tripTo n .parallelTimeout 0 .opening (some .trip) := if_pos ⟨hst, hl⟩
    have hbr' : (s.berths.get n).breaker = .closed := hbr
    have hb := s.berths_tripTo .parallelTimeout 0 .opening (some .trip) (n := n) (by rw [hbr']; decide)
    refine ⟨_, ht ▸ event_next (f := State.parallelExpires n) h, ?_, ?_, ?_, ?_, ?_, ?_, s.consented_tripTo n .parallelTimeout 0 _ _,
      s.isAdmitted_tripTo n _ _ _ _, fun p hp => s.noticed_tripTo n .parallelTimeout 0 _ _ hp,
      s.sourceReached_tripTo n _ _ _ _, s.onlyTouches_tripTo n _ _ _ _⟩ <;>
      simp [State.berth, hb, hbr', Berth.stopTimers]
  · have ht : s.returnParallelExpires n = s.openFromReturn n true := if_pos ⟨hst, hl⟩
    have hb := State.berths_openFromReturn (f := true) (s := s) (n := n) hbr
    refine ⟨_, ht ▸ event_next (f := State.returnParallelExpires n) h, ?_, ?_, ?_, ?_, ?_, ?_, ?_, ?_, ?_, ?_⟩
    case refine_9 => simp [State.isAdmitted, State.grantBerth]
    case refine_10 => apply onlyTouches_of_fields <;> simp +contextual [hb]
    all_goals simp [State.berth, hb]
  · have ht : s.returnExpires n = (s.failConsenting n .returnTimeout).backFromReturn n := if_pos ⟨hst, hl⟩
    refine ⟨_, ht ▸ event_next (f := State.returnExpires n) h, ?_, ?_, ?_, ?_, ?_⟩
    · simp only [State.backFromReturn, State.berth, State.withdrawPermit, State.berths_modBerth, State.fields_failConsenting,
        Six.get_set_same, Berth.markerSet, Bool.or_eq_true]
      exact if_congr Iff.rfl rfl rfl
    · simp [State.backFromReturn, State.berth, State.withdrawPermit]
    · simp [State.backFromReturn, State.berth, State.withdrawPermit]
    · exact (State.consented_endConsenting s n .failed .returnTimeout 0).after
        (State.keepsEnded_of_ports (by simp [State.backFromReturn, State.withdrawPermit, State.failConsenting]))
        (by simp [State.backFromReturn, State.berth, State.withdrawPermit])
    · refine onlyTouches_allOrders (l := [.berth n]) ?_ ?_ ?_ ?_ ?_ ?_ ?_ ?_ ?_ ?_ ?_ ?_ ?_ ?_ <;>
        simp +contextual [State.backFromReturn, State.withdrawPermit]

/-- Settles O51. -/
theorem sequenceLimits : Obligations.SequenceLimits := ⟨fun _ _ h => waitingLimits h, fun _ _ h => closedLimits h⟩

end Sys2Proof.Machine

namespace Sys2Proof.Machine

/-! ### Failures of the breaker -/

/-- A notice to a port of a berth (R179). -/
theorem noticed_notifyBoth {s u : State} {n : Ix} {p : Port} {c : NoticeClass} {k v : Nat} (hl : u.link = s.link)
    (hper : u.ge.period = s.ge.period) (hp : p = .t ∨ p = .v n) : Noticed s (u.notifyBoth n c k v) p c (some n) k v := by
  intro hopen
  unfold State.notifyBoth State.port at *
  rw [State.isOpen_notify, State.isOpen_notify, hl] at hopen
  rcases hp with rfl | rfl
  · rw [State.link_notify_ne _ _ _ _ _ (by simp), State.notices_notify u .t c (some n) k v (by rw [hl]; exact hopen), hl, hper]
  · rw [State.notices_notify _ (.v n) c (some n) k v (by rw [State.isOpen_notify, hl]; exact hopen),
      State.link_notify_ne _ _ _ _ _ (by simp), hl]
    simp [hper]

/-- What a trip finds in `u` as in `s`: all that its notices and the flags depend on. -/
structure SameForTrip (s u : State) : Prop where
  link : u.link = s.link
  oe : u.oe = s.oe
  ge : u.ge = s.ge
  table : u.table = s.table
  now : u.now = s.now
  consenting : ∀ m, (u.berth m).consenting = (s.berth m).consenting

theorem SameForTrip.reached {s u t : State} {n : Ix} {src : FlagSource} (h : SameForTrip s u) (ht : SourceReached n src u t) :
    SourceReached n src s t :=
  sourceReached_of_waiters (by rw [h.oe]) h.table h.now (fun m c hc => by rw [← h.consenting m]; exact hc)
    (fun _ _ _ _ => by unfold State.orders; rw [h.oe]) ht

theorem SameForTrip.consented {s u t : State} {n : Ix} {v : Verdict} {c : Code} {d : Nat} (h : SameForTrip s u)
    (ht : Consented u n v c d t) : Consented s n v c d t :=
  ht.of_steps (h.consenting n) h.now (fun r _ => State.slot_of_ports (by rw [h.oe]) r) (fun _ _ hs _ => hs) ht.1

theorem SameForTrip.noticed {s u t : State} {p : Port} {c : NoticeClass} {n : Option Ix} {k v : Nat} (h : SameForTrip s u)
    (ht : Noticed u t p c n k v) : Noticed s t p c n k v := by
  unfold Noticed State.port at *
  rwa [h.link, h.ge] at ht

theorem SameForTrip.tripped {s u t : State} {n : Ix} {c : TripCause} (h : SameForTrip s u) (ht : Tripped u n c t) :
    Tripped s n c t :=
  { ht with notices := fun p hp => h.noticed (ht.notices p hp), flags := fun hc => h.reached (ht.flags hc) }

theorem State.consenting_openCommand (n m : Ix) (s : State) : ((s.openCommand n).berth m).consenting = (s.berth m).consenting := by
  unfold openCommand withdrawPermit
  rw [← consenting_commandOpen n m s]
  by_cases hm : m = n
  · subst hm; simp [berth]
  · simp [berth, hm]

theorem sameForTrip_openCommand {s x : State} {n : Ix} (h : SameForTrip s x) : SameForTrip s (x.openCommand n) :=
  ⟨by simp [h.link], by simp [h.oe], by simp [h.ge], by simp [h.table], by simp [h.now], fun m => by
    rw [State.consenting_openCommand, h.consenting]⟩

theorem State.berths_openCommand_ne {n m : Ix} {s : State} (h : m ≠ n) : (s.openCommand n).berths.get m = s.berths.get m := by
  simp [openCommand, withdrawPermit, h, berths_commandOpen_ne]

/-- The open command and the trip CLOSE_FAIL of a breaker that does not do as commanded (R4, R15). -/
theorem closeFails {s x : State} {n : Ix} (h : SameForTrip s x)
    (hbr : (x.berths.get n).breaker = .closed ∨ (x.berths.get n).breaker = .closeSent ∨
      ((x.berths.get n).breaker = .opened ∧ (x.outlet n).breaker ≠ .opened))
    (hst : (x.berths.get n).state ≠ .tripped) (hst' : (x.berths.get n).state ≠ .opening) :
    Tripped s n .closeFail ((x.openCommand n).trip n .closeFail) ∧
    Consented s n .failed .breakerFail 0 ((x.openCommand n).trip n .closeFail) ∧
    (((x.openCommand n).trip n .closeFail).berth n).motionLimit = some 300 ∧
    OnlyTouches (tripParts n) x ((x.openCommand n).trip n .closeFail) := by
  have hb := x.berths_openCommand hbr
  have htrip : (x.openCommand n).trip n .closeFail = (x.openCommand n).tripTo n .closeFail 0 .tripped none :=
    State.trip_eq _ (by simpa [hb] using hst) (fun ho => absurd ho (by simpa [hb] using hst'))
  have hsent : ((x.openCommand n).berths.get n).breaker = .openSent := by simp [hb]
  have hsame := sameForTrip_openCommand (n := n) h
  rw [htrip]
  refine ⟨hsame.tripped (tripped_tripTo (by rw [State.berth, hsent]; decide)), hsame.consented (State.consented_tripTo _ _ _ _ _ _),
    ?_, ?_⟩
  · rw [State.berth, State.berths_tripTo _ _ _ _ _ (by rw [hsent]; decide)]
    simp [hb]
  · refine onlyTouches_trans ?_ (State.onlyTouches_tripTo _ n _ _ _ _)
    exact onlyTouches_allOrders (by simp) (by simp) (by simp) (by simp) (by simp) (by simp) (by simp) (by simp)
      (fun m hm => State.berths_openCommand_ne (by simpa using hm)) (by simp) (by simp) (by simp) (by simp) (by simp)

/-- The open motion limit expires at an opening berth (R21, R22). -/
theorem openStuck_opening {s : State} {n : Ix} (hst : (s.berth n).state = .opening) (hbr : (s.berth n).breaker = .openSent) :
    ((s.openStuck n).berth n).state = .tripped ∧ ((s.openStuck n).berth n).tripCause = some .breakerStuck ∧
    ((s.openStuck n).berth n).stuck = true ∧ ((s.openStuck n).berth n).breaker = .openSent ∧
    ((s.openStuck n).berth n).motionLimit = none ∧ Consented s n .failed .stuck 0 (s.openStuck n) ∧
    (∀ cause, (s.berth n).tripCause = some cause → cause ≠ .breakerStuck →
      ∀ p, p = .t ∨ p = .v n → Noticed s (s.openStuck n) p .trip (some n) 7 cause.index) ∧
    SourceReached n .tripped s (s.openStuck n) ∧ OnlyTouches (tripParts n) s (s.openStuck n) := by
  obtain ⟨u, hu⟩ : ∃ u, u = s.modBerth n fun b => { b with stuck := true, motionLimit := none } := ⟨_, rfl⟩
  have ht : s.openStuck n = u.tripTo n .breakerStuck (s.replacedCause n) .tripped none := by
    unfold State.openStuck
    rw [hst, hu]
  have hub : u.berths.get n = { s.berth n with stuck := true, motionLimit := none } := by rw [hu]; simp [State.berth]
  have hb := u.berths_tripTo .breakerStuck (s.replacedCause n) .tripped none (n := n) (by rw [hub]; simp [hbr])
  rw [hub] at hb
  have hsame : SameForTrip s u := ⟨by rw [hu]; rfl, by rw [hu]; rfl, by rw [hu]; rfl, by rw [hu]; rfl, by rw [hu]; rfl, fun m => by
    by_cases hm : m = n
    · subst hm; rw [State.berth, hub]
    · rw [hu]; simp [State.berth, hm]⟩
  rw [ht]
  refine ⟨?_, ?_, ?_, ?_, ?_, hsame.consented (u.consented_tripTo n .breakerStuck _ _ _), fun cause hc hne p hp => ?_,
    hsame.reached (u.sourceReached_tripTo n _ _ _ _), ?_⟩
  case refine_6 =>
    have hv : s.replacedCause n = cause.index := by
      unfold State.replacedCause
      rw [hc]
      cases cause <;> first | rfl | exact absurd rfl hne
    rw [hv]
    exact hsame.noticed (u.noticed_tripTo n .breakerStuck cause.index _ _ hp)
  case refine_7 =>
    refine onlyTouches_trans ?_ (u.onlyTouches_tripTo n _ _ _ _)
    rw [hu]
    exact onlyTouches_mono (onlyTouches_modBerth n _) (by simp [tripParts])
  all_goals simp [State.berth, hb, Berth.stopTimers]
  exact if_pos hbr

/-- The open motion limit expires at a berth that is TRIPPED (R21, R22). -/
theorem openStuck_tripped {s : State} {n : Ix} (hst : (s.berth n).state = .tripped) :
    (s.openStuck n).berth n = { s.berth n with stuck := true, motionLimit := none, tripCause := some .breakerStuck } ∧
    (∀ cause, (s.berth n).tripCause = some cause → cause ≠ .breakerStuck →
      ∀ p, p = .t ∨ p = .v n → Noticed s (s.openStuck n) p .trip (some n) 7 cause.index) ∧
    OnlyTouches [.link .t, .link (.v n), .berth n] s (s.openStuck n) := by
  have ht : s.openStuck n = ((s.modBerth n fun b => { b with stuck := true, motionLimit := none }).modBerth n fun b =>
      { b with tripCause := some .breakerStuck }).notifyBoth n .trip TripCause.breakerStuck.index (s.replacedCause n) := by
    unfold State.openStuck
    rw [hst]
  rw [ht]
  refine ⟨by simp [State.berth], fun cause hc hne p hp => ?_, ?_⟩
  · have hv : s.replacedCause n = cause.index := by
      unfold State.replacedCause
      rw [hc]
      cases cause <;> first | rfl | exact absurd rfl hne
    rw [hv]
    exact noticed_notifyBoth rfl rfl hp
  · apply onlyTouches_of_fields <;> simp +contextual [State.link_notifyBoth_ne]

/-- A position report outside a motion that does not match the breaker field (R4). -/
theorem breakerPosition_disagrees {s : State} {n : Ix} {position : Position}
    (h : ((s.berth n).breaker = .closed ∧ position ≠ .closed) ∨ ((s.berth n).breaker = .opened ∧ position ≠ .opened)) :
    s.breakerPosition n position =
      ((s.modOutlet n fun o => { o with breaker := position }).openCommand n).trip n .closeFail := by
  unfold State.breakerPosition
  rcases h with ⟨hb, hp⟩ | ⟨hb, hp⟩ <;> rw [hb] <;> cases position <;> first | rfl | exact absurd rfl hp

/-- A position report during a motion that does not end it (R4). -/
theorem breakerPosition_moving {s : State} {n : Ix} {position : Position}
    (h : ((s.berth n).breaker = .closeSent ∧ position ≠ .closed) ∨ ((s.berth n).breaker = .openSent ∧ position ≠ .opened)) :
    s.breakerPosition n position = s.modOutlet n fun o => { o with breaker := position } := by
  unfold State.breakerPosition
  rcases h with ⟨hb, hp⟩ | ⟨hb, hp⟩ <;> rw [hb] <;> cases position <;> first | rfl | exact absurd rfl hp

theorem sameForTrip_modOutlet (s : State) (n : Ix) (f : OutletInputs → OutletInputs) : SameForTrip s (s.modOutlet n f) :=
  ⟨rfl, rfl, rfl, rfl, rfl, fun _ => rfl⟩

theorem onlyTouches_modOutlet (s : State) (n : Ix) (f : OutletInputs → OutletInputs) :
    OnlyTouches [.inputs] s (s.modOutlet n f) := onlyTouches_modInputs _

@[simp] theorem State.outlet_modOutlet (n m : Ix) (f : OutletInputs → OutletInputs) (s : State) :
    (s.modOutlet n f).outlet m = if m = n then f (s.outlet n) else s.outlet m := by
  simp [State.outlet, Six.get_set]

/-- A breaker that leaves its position outside a motion (R4). -/
theorem disagreement_trips {s : State} {n : Ix} {position : Position} (h : s.powered = true)
    (hd : ((s.berth n).breaker = .closed ∧ position ≠ .closed) ∨ ((s.berth n).breaker = .opened ∧ position ≠ .opened)) :
    ((s.berth n).state ≠ .tripped → (s.berth n).state ≠ .opening →
      ∃ t : State, exec (.breakerDisagreement n position) s = .next t.settle ∧ Tripped s n .closeFail t ∧
        Consented s n .failed .breakerFail 0 t ∧ (t.berth n).motionLimit = some 300 ∧
        OnlyTouches (.inputs :: tripParts n) s t) ∧
    ((s.berth n).state = .tripped →
      ∃ t : State, exec (.breakerDisagreement n position) s = .next t.settle ∧ (t.berth n).state = .tripped ∧
        (t.berth n).tripCause = (s.berth n).tripCause ∧ (t.berth n).breaker = .openSent ∧
        (t.berth n).motionLimit = some 300 ∧
        OnlyTouches [.inputs, .berth n, .reference, .scanner] s t) := by
  obtain ⟨x, hx⟩ : ∃ x, x = s.modOutlet n fun o => { o with breaker := position } := ⟨_, rfl⟩
  have hxb : x.berths = s.berths := by rw [hx]; rfl
  have hexec : exec (.breakerDisagreement n position) s = .next ((x.openCommand n).trip n .closeFail).settle := by
    rw [hx, ← breakerPosition_disagrees hd]
    exact event_next (f := State.breakerPosition n position) h
  have hbr : (x.berths.get n).breaker = .closed ∨ (x.berths.get n).breaker = .closeSent ∨
      ((x.berths.get n).breaker = .opened ∧ (x.outlet n).breaker ≠ .opened) := by
    rw [hxb]
    rcases hd with ⟨hb, -⟩ | ⟨hb, hp⟩
    · exact .inl hb
    · exact .inr (.inr ⟨hb, by rw [hx]; simpa using hp⟩)
  have hframe : OnlyTouches [.inputs] s x := hx ▸ onlyTouches_modOutlet s n _
  refine ⟨fun hst hst' => ?_, fun hst => ?_⟩
  · obtain ⟨h1, h2, h3, h4⟩ := closeFails (s := s) (hx ▸ sameForTrip_modOutlet s n _) hbr (by rw [hxb]; exact hst)
      (by rw [hxb]; exact hst')
    exact ⟨_, hexec, h1, h2, h3, onlyTouches_trans (onlyTouches_mono hframe (by simp)) (onlyTouches_mono h4 fun _ hb => List.mem_cons_of_mem _ hb)⟩
  · have hb := x.berths_openCommand hbr
    have hs : (s.berths.get n).state = .tripped := hst
    have hquiet : (x.openCommand n).trip n .closeFail = x.openCommand n := by
      unfold State.trip State.berth
      rw [hb]
      simp [hxb, hs]
    rw [hquiet] at hexec
    refine ⟨_, hexec, by simp [State.berth, hb, hxb, hs], by simp [State.berth, hb, hxb], by simp [State.berth, hb],
      by simp [State.berth, hb], onlyTouches_trans (onlyTouches_mono hframe (by simp)) ?_⟩
    apply onlyTouches_of_fields <;> simp +contextual [hb]

/-- Settles O49. -/
theorem breakerFailuresTrip : Obligations.BreakerFailuresTrip := by
  refine ⟨fun s n position h => ⟨fun hd => disagreement_trips h hd, fun hd => ?_⟩, fun s n h hl => ⟨fun hst hbr => ?_,
    fun hst hbr => ?_, fun hst hbr => ?_⟩, fun s n h => ⟨fun hno => ?_, fun hno => ?_⟩⟩
  · have hmov := breakerPosition_moving hd
    refine ⟨_, hmov ▸ event_next (f := State.breakerPosition n position) h, onlyTouches_modOutlet s n _, by simp⟩
  · have ht : s.closeMotionExpires n = (s.openCommand n).trip n .closeFail := if_pos ⟨hbr, hl⟩
    obtain ⟨h1, h2, h3, h4⟩ := closeFails (s := s) (x := s) (n := n) ⟨rfl, rfl, rfl, rfl, rfl, fun _ => rfl⟩ (.inr (.inl hbr))
      (by unfold State.berth at hst; rw [hst]; decide) (by unfold State.berth at hst; rw [hst]; decide)
    exact ⟨_, ht ▸ event_next (f := State.closeMotionExpires n) h, h1, h2, h3, h4⟩
  · have ht : s.openMotionExpires n = s.openStuck n := if_pos ⟨hbr, hl⟩
    exact ⟨_, ht ▸ event_next (f := State.openMotionExpires n) h, openStuck_opening hst hbr⟩
  · have ht : s.openMotionExpires n = s.openStuck n := if_pos ⟨hbr, hl⟩
    exact ⟨_, ht ▸ event_next (f := State.openMotionExpires n) h, openStuck_tripped hst⟩
  · have ht : s.closeMotionExpires n = s := if_neg (by
      rintro ⟨h1, h2⟩
      rcases hno with hno | hno
      · rw [hno] at h2; cases h2
      · exact hno h1)
    exact (event_next (f := State.closeMotionExpires n) h).trans (by rw [ht])
  · have ht : s.openMotionExpires n = s := if_neg (by
      rintro ⟨h1, h2⟩
      rcases hno with hno | hno
      · rw [hno] at h2; cases h2
      · exact hno h1)
    exact (event_next (f := State.openMotionExpires n) h).trans (by rw [ht])

end Sys2Proof.Machine

namespace Sys2Proof.Machine

/-! ### Grants of an adopted berth -/

/-- The bus B step of a record without a flexible grant. -/
theorem GrantSet.trimB_firm (g : GrantSet) (kb : Nat) {n : Ix} {r : GrantRec} (hr : g.recs.get n = r) (h : r.flexible = 0)
    (hs : r.share = 0) : ((g.trimB kb).recs.get n).firm = r.firm ∧ ((g.trimB kb).recs.get n).flexible = 0 ∧
      ((g.trimB kb).recs.get n).bus = r.bus ∧ (r.bus ≠ .b → ((g.trimB kb).recs.get n).share = 0) := by
  unfold trimB
  simp only
  split
  · simp only [Six.get_map, hr, cutOnB]
    split
    · rename_i hb
      exact ⟨rfl, by simp [h], rfl, fun hno => absurd hb hno⟩
    · exact ⟨rfl, h, rfl, fun _ => hs⟩
  · exact hr ▸ ⟨rfl, hr ▸ h, rfl, fun _ => hr ▸ hs⟩

/-- A trim leaves a record without a flexible grant as firm as it is (R117). -/
theorem GrantSet.trim_firm (g : GrantSet) (kb : Nat) {n : Ix} {r : GrantRec} (hr : g.recs.get n = r) (h : r.flexible = 0)
    (hs : r.share = 0) : ((g.trim kb).recs.get n).firm = r.firm ∧ ((g.trim kb).recs.get n).flexible = 0 := by
  obtain ⟨hf, hx, hb, hshare⟩ := g.trimB_firm kb hr h hs
  unfold trim trimImport
  split
  · simp only [Six.get_map, cutImport]
    refine ⟨hf, ?_⟩
    rw [hx, hb]
    cases hbus : r.bus
    · simp [hshare (by rw [hbus]; decide)]
    · simp [hshare (by rw [hbus]; decide)]
    · simp
  · exact ⟨hf, hx⟩

/-- The entry to ADOPTED in the Grant Engine (R101, R102, R125, R129). -/
theorem State.ge_adoptGrants (n : Ix) (s : State) : ((s.adoptGrants n).ge.active.recs.get n).firm = (s.berth n).rating ∧
    ((s.adoptGrants n).ge.active.recs.get n).flexible = 0 ∧ (s.adoptGrants n).isAdmitted n = false ∧
    ((s.adoptGrants n).grantBerth n).connected = (s.grantBerth n).connected := by
  obtain ⟨u, hu⟩ : ∃ u, u = (((s.endAdmission n).modGrantBerth n fun g => { g with sinceAdoption := false, adoptionUnread := true
      }).putBoth n (mkGrant (s.berth n).rating 0 0 (s.berth n).bus)) := ⟨_, rfl⟩
  have ht : s.adoptGrants n = u.trimBoth := by rw [hu]; rfl
  have hrec : u.ge.active.recs.get n = mkGrant (s.berth n).rating 0 0 (s.berth n).bus := by
    rw [hu]; simp [putBoth, GrantSet.put]
  obtain ⟨hfirm, hflex⟩ := u.ge.active.trim_firm u.busBCapacity hrec rfl rfl
  rw [ht, ge_trimBoth]
  refine ⟨hfirm, hflex, ?_, ?_⟩
  · simp only [isAdmitted, grantBerth, ge_trimBoth]
    rw [hu]
    simp [putBoth]
  · simp only [grantBerth, ge_trimBoth]
    rw [hu]
    simp [putBoth]

/-! ### Reports of the breaker -/

/-- The state of a closed report before the berth's own step (R3, R15). -/
def State.closedBefore (n : Ix) (s : State) : State :=
  (((s.modOutlet n fun o => { o with breaker := .closed }).modBerth n fun b =>
    { b with motionLimit := none, approach := none }).leaveOpen n .closed).setConnected n

theorem State.berths_closedBefore (n : Ix) (s : State) : (s.closedBefore n).berths = s.berths.set n { s.berths.get n with
    motionLimit := none, approach := none, breaker := .closed, permitDeadTime := none } := by
  simp [closedBefore]

@[simp] theorem State.fields_closedBefore (n : Ix) (s : State) :
    (s.closedBefore n).powered = s.powered ∧ (s.closedBefore n).now = s.now ∧ (s.closedBefore n).table = s.table ∧
    (s.closedBefore n).inputs = (s.modOutlet n fun o => { o with breaker := .closed }).inputs ∧
    (s.closedBefore n).link = s.link ∧ (s.closedBefore n).oe = s.oe ∧ (s.closedBefore n).cp = s.cp ∧
    (s.closedBefore n).gi = s.gi ∧ (s.closedBefore n).pending = s.pending ∧
    ((s.closedBefore n).grantBerth n).connected = s.now := by
  simp [closedBefore, setConnected, grantBerth]

theorem sameForEvent_closedBefore (n : Ix) (s : State) : (s.closedBefore n).oe = s.oe ∧ (s.closedBefore n).table = s.table ∧
    (s.closedBefore n).now = s.now ∧ (∀ m, ((s.closedBefore n).berth m).consenting = (s.berth m).consenting) := by
  refine ⟨by simp, by simp, by simp, fun m => ?_⟩
  unfold State.berth
  rw [State.berths_closedBefore]
  by_cases hm : m = n
  · subst hm; simp
  · simp [hm]

/-- The end of a consenting order behind which a source event follows, told from a state before (R9, R150). -/
theorem sourceReached_behindConsent {s u : State} {n : Ix} {src : FlagSource} {v : Verdict} {c : Code} {d : Nat} {f : Berth → Berth}
    (ho : u.oe = s.oe) (ht : u.table = s.table) (hn : u.now = s.now)
    (hc : ∀ m, (u.berth m).consenting = (s.berth m).consenting) (hf : ∀ b, (f b).consenting = b.consenting) :
    SourceReached n src s (((u.endConsenting n v c d).modBerth n f).postSource n src) := by
  refine sourceReached_of_waiters (by simp [ho]) (by simp [ht]) (by simp [hn]) (fun m k hk => ?_) (fun second w hw hcons => ?_)
    (State.postSource_reaches _ _ _)
  · rw [← hc m]
    by_cases hm : m = n
    · subst hm
      simp [State.berth, hf] at hk
    · simpa [State.berth, hm] using hk
  · have := State.orders_endConsenting (s := u) (n := n) (p := w.port) v c d fun r hr => hcons n r (by rw [← hc n]; exact hr)
    unfold State.orders at this ⊢
    rw [State.oe_modBerth, this, ho]

/-- What a closed report leaves, whatever the berth enters (R3, R15, R127). -/
structure ClosedAfter (n : Ix) (s t : State) : Prop where
  breaker : (t.berth n).breaker = .closed
  motion : (t.berth n).motionLimit = none
  approach : (t.berth n).approach = none
  outlet : (t.outlet n).breaker = .closed
  connected : (t.grantBerth n).connected = s.now
  frame : Untouched [.power, .time, .waiting, .table, .held, .pool, .grid] s t

/-- A step behind a closed report that leaves the breaker fields of the record and the connection's time. -/
theorem ClosedAfter.of_step {n : Ix} {s t : State} (hb : (t.berth n).breaker = ((s.closedBefore n).berth n).breaker)
    (hm : (t.berth n).motionLimit = ((s.closedBefore n).berth n).motionLimit)
    (ha : (t.berth n).approach = ((s.closedBefore n).berth n).approach) (hi : t.inputs = (s.closedBefore n).inputs)
    (hc : (t.grantBerth n).connected = ((s.closedBefore n).grantBerth n).connected)
    (hf : Untouched [.power, .time, .waiting, .table, .held, .pool, .grid] (s.closedBefore n) t) : ClosedAfter n s t := by
  obtain ⟨hpow, hnow, htab, hin, -, hoe, hcp, hgi, hpend, hconn⟩ := State.fields_closedBefore n s
  have hbn : (s.closedBefore n).berth n = { s.berth n with
      motionLimit := none, approach := none, breaker := .closed, permitDeadTime := none } := by
    simp [State.berth, State.berths_closedBefore]
  refine ⟨by rw [hb, hbn], by rw [hm, hbn], by rw [ha, hbn], ?_, hc.trans hconn, ?_⟩
  · unfold State.outlet
    rw [hi, hin]
    simp
  · simp only [untouched_cons, untouched_nil, Part.same, and_true] at hf ⊢
    rwa [hpow, hnow, htab, hoe, hcp, hgi, hpend] at hf

/-- A closed report at a berth that PANEL_RESET met in CLOSING (R28, R31). -/
theorem closedReport_adopted {s : State} {n : Ix} (hbr : (s.berth n).breaker = .closeSent)
    (ha : (s.berth n).adoptOnClose = true) : ∃ t, s.breakerPosition n .closed = t ∧ ClosedAfter n s t ∧
      (t.berth n).state = .adopted ∧ (t.berth n).declarationAwaited = true ∧ (t.berth n).authorizationAwaited = true ∧
      (t.ge.active.recs.get n).firm = (s.berth n).rating ∧ (t.ge.active.recs.get n).flexible = 0 ∧
      t.isAdmitted n = false ∧ t.oe.flags = s.oe.flags := by
  obtain ⟨x, hx⟩ : ∃ x, x = (s.closedBefore n).modBerth n fun b =>
      { b with state := .adopted, declarationAwaited := true, authorizationAwaited := true, adoptOnClose := false } := ⟨_, rfl⟩
  have ht : s.breakerPosition n .closed = x.adoptGrants n := by
    unfold State.breakerPosition
    rw [hbr]
    unfold State.closedReport
    simp only [State.berth, State.berths_modOutlet] at ha ⊢
    simp only [ha, if_true]
    rw [hx]; rfl
  have hxn : x.berths.get n = { (s.closedBefore n).berths.get n with
      state := .adopted, declarationAwaited := true, authorizationAwaited := true, adoptOnClose := false } := by rw [hx]; simp
  obtain ⟨hfirm, hflex, hadm, hcon⟩ := x.ge_adoptGrants n
  refine ⟨_, ht, .of_step ?_ ?_ ?_ ?_ ?_ ?_, ?_, ?_, ?_, ?_, hflex, hadm, ?_⟩
  · simp [State.berth, hxn]
  · simp [State.berth, hxn]
  · simp [State.berth, hxn]
  · simp [hx]
  · rw [hcon, hx]; rfl
  · simp only [untouched_cons, untouched_nil, Part.same, and_true]
    simp [hx]
  · simp [State.berth, hxn]
  · simp [State.berth, hxn]
  · simp [State.berth, hxn]
  · rw [hfirm, State.berth, hxn, State.berths_closedBefore, Six.get_set_same]
    rfl
  · simp [hx]

/-- A closed report after a sync approach (R15). -/
theorem closedReport_parallel {s : State} {n : Ix} (hbr : (s.berth n).breaker = .closeSent)
    (ha : (s.berth n).adoptOnClose = false) (hap : (s.berth n).approach = some .sync) :
    ∃ t, s.breakerPosition n .closed = t ∧ ClosedAfter n s t ∧ (t.berth n).state = .parallel ∧
      (t.berth n).parallelLimit = some s.parallelTime ∧ (t.berth n).consenting = (s.berth n).consenting ∧
      t.oe.flags = s.oe.flags := by
  have ht : s.breakerPosition n .closed =
      (s.closedBefore n).modBerth n fun b => { b with state := .parallel, parallelLimit := some s.parallelTime } := by
    unfold State.breakerPosition
    rw [hbr]
    unfold State.closedReport
    simp only [State.berth, State.berths_modOutlet] at ha hap ⊢
    simp only [ha, hap, Bool.false_eq_true, if_false]
    rfl
  refine ⟨_, ht, .of_step ?_ ?_ ?_ rfl rfl ?_, ?_, ?_, ?_, ?_⟩
  · simp [State.berth]
  · simp [State.berth]
  · simp [State.berth]
  · simp only [untouched_cons, untouched_nil, Part.same, and_true]
    simp
  · simp [State.berth]
  · simp [State.berth]
  · simp [State.berth, State.berths_closedBefore]
  · simp

/-- A closed report after a dead approach (R15, R18). -/
theorem closedReport_onShore {s : State} {n : Ix} (hbr : (s.berth n).breaker = .closeSent)
    (ha : (s.berth n).adoptOnClose = false) (hap : (s.berth n).approach ≠ some .sync) :
    ∃ t, s.breakerPosition n .closed = t ∧ ClosedAfter n s t ∧ (t.berth n).state = .onShore ∧
      Consented s n .done .none 2 t ∧ SourceReached n .onShoreEntered s t := by
  have ht : s.breakerPosition n .closed = ((s.closedBefore n).endConsenting n .done .none 2).enterOnShore n := by
    unfold State.breakerPosition
    rw [hbr]
    unfold State.closedReport
    simp only [State.berth, State.berths_modOutlet] at ha hap ⊢
    simp only [ha, Bool.false_eq_true, if_false]
    cases hc : (s.berths.get n).approach with
    | none => rfl
    | some a =>
      cases a with
      | sync => exact absurd hc hap
      | dead => rfl
  obtain ⟨hoe, htab, hnow, hcons⟩ := sameForEvent_closedBefore n s
  refine ⟨_, ht, .of_step ?_ ?_ ?_ ?_ ?_ ?_, ?_, ?_, ?_⟩
  · simp [State.berth, State.enterOnShore]
  · simp [State.berth, State.enterOnShore]
  · simp [State.berth, State.enterOnShore]
  · simp [State.enterOnShore]
  · simp [State.grantBerth, State.enterOnShore]
  · simp only [untouched_cons, untouched_nil, Part.same, and_true]
    simp [State.enterOnShore]
  · simp [State.berth, State.enterOnShore]
  · have hkeep : KeepsEnded ((s.closedBefore n).endConsenting n .done .none 2)
        (((s.closedBefore n).endConsenting n .done .none 2).enterOnShore n) :=
      (State.keepsEnded_of_ports (by rfl)).trans
        (State.keepsEnded_postSource (((s.closedBefore n).endConsenting n .done .none 2).modBerth n _) n .onShoreEntered)
    exact (State.consented_endConsenting (s.closedBefore n) n .done .none 2).of_steps (hcons n) hnow
      (fun r _ => State.slot_of_ports (by rw [hoe]) r) hkeep (by simp [State.berth, State.enterOnShore])
  · exact sourceReached_behindConsent hoe htab hnow hcons fun _ => rfl

/-- BREAKER_CLOSED_REPORT in CLOSING (R3, R15, R31). -/
theorem closedReport_answers {s : State} {n : Ix} (h : s.powered = true) (hbr : (s.berth n).breaker = .closeSent) :
    ∃ t : State, exec (.breakerClosedReport n) s = .next t.settle ∧ ClosedAfter n s t ∧
      ((s.berth n).adoptOnClose = false → (s.berth n).approach = some .sync →
        (t.berth n).state = .parallel ∧ (t.berth n).parallelLimit = some s.parallelTime ∧
          (t.berth n).consenting = (s.berth n).consenting ∧ t.oe.flags = s.oe.flags) ∧
      ((s.berth n).adoptOnClose = false → (s.berth n).approach = some .dead →
        (t.berth n).state = .onShore ∧ Consented s n .done .none 2 t ∧ SourceReached n .onShoreEntered s t) ∧
      ((s.berth n).adoptOnClose = true → (t.berth n).state = .adopted ∧
        (t.berth n).declarationAwaited = true ∧ (t.berth n).authorizationAwaited = true ∧
        (t.ge.active.recs.get n).firm = (s.berth n).rating ∧ (t.ge.active.recs.get n).flexible = 0 ∧
        t.isAdmitted n = false ∧ t.oe.flags = s.oe.flags) := by
  have hexec : exec (.breakerClosedReport n) s = .next (s.breakerPosition n .closed).settle :=
    event_next (f := State.breakerPosition n .closed) h
  cases ha : (s.berth n).adoptOnClose with
  | true =>
    obtain ⟨t, ht, hclosed, hrest⟩ := closedReport_adopted hbr ha
    exact ⟨t, ht ▸ hexec, hclosed, nofun, nofun, fun _ => hrest⟩
  | false =>
    by_cases hap : (s.berth n).approach = some .sync
    · obtain ⟨t, ht, hclosed, hrest⟩ := closedReport_parallel hbr ha hap
      exact ⟨t, ht ▸ hexec, hclosed, fun _ _ => hrest, fun _ hd => absurd (hap.symm.trans hd) (by decide), nofun⟩
    · obtain ⟨t, ht, hclosed, hrest⟩ := closedReport_onShore hbr ha hap
      exact ⟨t, ht ▸ hexec, hclosed, fun _ hs => absurd hs hap, fun _ _ => hrest, nofun⟩

end Sys2Proof.Machine

namespace Sys2Proof.Machine

/-- The state of an open report before the berth's own step (R3, R5, R52). -/
def State.openedBefore (n : Ix) (s : State) : State :=
  ((s.modOutlet n fun o => { o with breaker := .opened }).modBerth n fun b =>
    { b with motionLimit := none, stuck := false }).reachOpen n

theorem State.berths_openedBefore (n : Ix) (s : State) : (s.openedBefore n).berths = s.berths.set n { s.berths.get n with
    motionLimit := none, stuck := false, breaker := .opened
    bus := if (s.berths.get n).moving then (s.berths.get n).bus else (s.outlet n).selector
    permitDeadTime := if (s.berths.get n).permit = false ∧ (s.berths.get n).plug = .present then some s.deadTime
      else (s.berths.get n).permitDeadTime } := by
  simp [openedBefore, outlet]
  rfl

@[simp] theorem State.fields_openedBefore (n : Ix) (s : State) :
    (s.openedBefore n).powered = s.powered ∧ (s.openedBefore n).now = s.now ∧ (s.openedBefore n).table = s.table ∧
    (s.openedBefore n).inputs = (s.modOutlet n fun o => { o with breaker := .opened }).inputs ∧
    (s.openedBefore n).link = s.link ∧ (s.openedBefore n).oe = s.oe ∧ (s.openedBefore n).cp = s.cp ∧
    (s.openedBefore n).gi = s.gi ∧ (s.openedBefore n).ge = s.ge ∧ (s.openedBefore n).pending = s.pending := by
  simp [openedBefore]

theorem sameForEvent_openedBefore (n : Ix) (s : State) : (s.openedBefore n).oe = s.oe ∧ (s.openedBefore n).table = s.table ∧
    (s.openedBefore n).now = s.now ∧ (∀ m, ((s.openedBefore n).berth m).consenting = (s.berth m).consenting) := by
  refine ⟨by simp, by simp, by simp, fun m => ?_⟩
  unfold State.berth
  rw [State.berths_openedBefore]
  by_cases hm : m = n
  · subst hm; simp
  · simp [hm]

/-- What an open report leaves, whatever the berth enters (R3, R5, R52). -/
structure OpenedAfter (n : Ix) (s t : State) : Prop where
  breaker : (t.berth n).breaker = .opened
  stuck : (t.berth n).stuck = false
  motion : (t.berth n).motionLimit = none
  outlet : (t.outlet n).breaker = .opened
  bus : (s.berth n).moving = false → (t.berth n).bus = (s.outlet n).selector
  permit : (s.berth n).permit = false → (s.berth n).plug = .present → (t.berth n).permitDeadTime = some s.deadTime
  frame : OnlyTouches ([.inputs, .flags, .berth n, .reference, .scanner] ++ allOrders) s t

/-- A step behind an open report that leaves the breaker fields of the record. -/
theorem OpenedAfter.of_step {n : Ix} {s t : State} (hb : (t.berth n).breaker = ((s.openedBefore n).berth n).breaker)
    (hs : (t.berth n).stuck = ((s.openedBefore n).berth n).stuck)
    (hm : (t.berth n).motionLimit = ((s.openedBefore n).berth n).motionLimit)
    (hbus : (t.berth n).bus = ((s.openedBefore n).berth n).bus)
    (hperm : (t.berth n).permitDeadTime = ((s.openedBefore n).berth n).permitDeadTime)
    (hi : t.inputs = (s.openedBefore n).inputs)
    (hf : OnlyTouches ([.inputs, .flags, .berth n, .reference, .scanner] ++ allOrders) (s.openedBefore n) t) :
    OpenedAfter n s t := by
  have hown : (s.openedBefore n).berth n = { s.berth n with
      motionLimit := none, stuck := false, breaker := .opened
      bus := if (s.berth n).moving then (s.berth n).bus else (s.outlet n).selector
      permitDeadTime := if (s.berth n).permit = false ∧ (s.berth n).plug = .present then some s.deadTime
        else (s.berth n).permitDeadTime } := by
    rw [State.berth, State.berths_openedBefore, Six.get_set_same]
    rfl
  rw [hown] at hb hs hm hbus hperm
  refine ⟨hb, hs, hm, ?_, fun hmov => ?_, fun h1 h2 => ?_, onlyTouches_trans ?_ hf⟩
  · unfold State.outlet
    rw [hi, (State.fields_openedBefore n s).2.2.2.1]
    simp
  · rw [hbus, hmov]
    rfl
  · rw [hperm]
    exact if_pos ⟨h1, h2⟩
  · apply onlyTouches_allOrders <;> simp +contextual [State.berths_openedBefore]

theorem openReport_eq {s : State} {n : Ix} (hbr : (s.berth n).breaker = .openSent) :
    s.breakerPosition n .opened = (s.modOutlet n fun o => { o with breaker := .opened }).openReport n := by
  unfold State.breakerPosition
  rw [hbr]

/-- An open report that ends a return (R20, R21). -/
theorem openReport_return {s : State} {n : Ix} (hbr : (s.berth n).breaker = .openSent) (hst : (s.berth n).state = .opening)
    (hp : (s.berth n).purpose = some .ret) : ∃ t, s.breakerPosition n .opened = t ∧ OpenedAfter n s t ∧
      (t.berth n).state = .plugged ∧ (t.berth n).purpose = none ∧
      Consented s n .done (if (s.berth n).returnForced then .returnForced else .none) (s.berth n).openPower t ∧
      SourceReached n .returned s t := by
  obtain ⟨note, hnote⟩ : ∃ note, note = if (s.berth n).returnForced then Code.returnForced else Code.none := ⟨_, rfl⟩
  obtain ⟨u, hu⟩ : ∃ u, u = (s.openedBefore n).modBerth n fun b =>
      { b with state := .plugged, purpose := none, returnForced := false } := ⟨_, rfl⟩
  have ht : s.breakerPosition n .opened = (u.endConsenting n .done note (s.berth n).openPower).postSource n .returned := by
    rw [openReport_eq hbr, hu, hnote]
    unfold State.openReport
    simp only [State.berth, State.berths_modOutlet] at hst hp ⊢
    simp only [hst, hp]
    rfl
  obtain ⟨hoe, htab, hnow, hcons⟩ := sameForEvent_openedBefore n s
  have huc : ∀ m, (u.berth m).consenting = (s.berth m).consenting := fun m => by
    rw [← hcons m, hu]
    by_cases hm : m = n
    · subst hm; simp [State.berth]
    · simp [State.berth, hm]
  have huoe : u.oe = s.oe := by rw [hu]; exact hoe
  have hunow : u.now = s.now := by rw [hu]; exact hnow
  refine ⟨_, ht, .of_step ?_ ?_ ?_ ?_ ?_ ?_ ?_, ?_, ?_, ?_, ?_⟩
  case refine_7 =>
    rw [hu]
    apply onlyTouches_allOrders <;> simp +contextual
  case refine_10 =>
    rw [← hnote]
    exact (State.consented_endConsenting u n .done note (s.berth n).openPower).of_steps (huc n) hunow
      (fun r _ => State.slot_of_ports (by rw [huoe]) r) (State.keepsEnded_postSource _ n .returned) (by simp [State.berth])
  case refine_11 =>
    have hreach := sourceReached_behindConsent (n := n) (src := .returned) (v := .done) (c := note) (d := (s.berth n).openPower)
      (f := fun b => b) huoe (by rw [hu]; exact htab) hunow huc fun _ => rfl
    rwa [State.modBerth_self rfl] at hreach
  all_goals simp [State.berth, hu]

/-- An open report of a berth that opens for a trip (R21, R22). -/
theorem openReport_trip {s : State} {n : Ix} (hbr : (s.berth n).breaker = .openSent) (hst : (s.berth n).state = .opening)
    (hp : (s.berth n).purpose = some .trip) : ∃ t, s.breakerPosition n .opened = t ∧ OpenedAfter n s t ∧
      (t.berth n).state = .tripped ∧ (t.berth n).purpose = none ∧ (t.berth n).tripCause = (s.berth n).tripCause ∧
      t.oe.flags = s.oe.flags := by
  have ht : s.breakerPosition n .opened =
      (s.openedBefore n).modBerth n fun b => { b with state := .tripped, purpose := none } := by
    rw [openReport_eq hbr]
    unfold State.openReport
    simp only [State.berth, State.berths_modOutlet] at hst hp ⊢
    simp only [hst, hp]
    rfl
  refine ⟨_, ht, .of_step ?_ ?_ ?_ ?_ ?_ rfl ?_, ?_, ?_, ?_, by simp⟩
  case refine_6 => exact onlyTouches_mono (onlyTouches_modBerth n _) (by simp)
  all_goals simp [State.berth, State.berths_openedBefore]

/-- An open report of a berth that opens by force or by PANEL_RESET (R21). -/
theorem openReport_other {s : State} {n : Ix} (hbr : (s.berth n).breaker = .openSent) (hst : (s.berth n).state = .opening)
    (hp : (s.berth n).purpose ≠ some .ret) (hp' : (s.berth n).purpose ≠ some .trip) :
    ∃ t, s.breakerPosition n .opened = t ∧ OpenedAfter n s t ∧ (t.berth n).state = .plugged ∧ (t.berth n).purpose = none ∧
      t.oe.flags = s.oe.flags := by
  have ht : s.breakerPosition n .opened =
      (s.openedBefore n).modBerth n fun b => { b with state := .plugged, purpose := none } := by
    rw [openReport_eq hbr]
    unfold State.openReport
    simp only [State.berth, State.berths_modOutlet] at hst hp hp' ⊢
    rw [hst]
    cases hpu : (s.berths.get n).purpose with
    | none => rfl
    | some p =>
      cases p
      case ret => exact absurd hpu hp
      case trip => exact absurd hpu hp'
      all_goals rfl
  refine ⟨_, ht, .of_step ?_ ?_ ?_ ?_ ?_ rfl ?_, ?_, ?_, by simp⟩
  case refine_6 => exact onlyTouches_mono (onlyTouches_modBerth n _) (by simp)
  all_goals simp [State.berth]

/-- An open report of a berth that is not opening (R23). -/
theorem openReport_idle {s : State} {n : Ix} (hbr : (s.berth n).breaker = .openSent) (hst : (s.berth n).state ≠ .opening) :
    ∃ t, s.breakerPosition n .opened = t ∧ OpenedAfter n s t ∧ (t.berth n).state = (s.berth n).state ∧
      (t.berth n).tripCause = (s.berth n).tripCause ∧ t.oe.flags = s.oe.flags := by
  have ht : s.breakerPosition n .opened = s.openedBefore n := by
    rw [openReport_eq hbr]
    unfold State.openReport
    simp only [State.berth, State.berths_modOutlet] at hst ⊢
    cases hs : (s.berths.get n).state
    case opening => exact absurd hs hst
    all_goals rfl
  refine ⟨_, ht, .of_step rfl rfl rfl rfl rfl rfl (onlyTouches_refl _ _), ?_, ?_, by simp⟩ <;>
    simp [State.berth, State.berths_openedBefore]

/-- BREAKER_OPEN_REPORT at the end of an open motion (R3, R21, R23, R52). -/
theorem openReport_answers {s : State} {n : Ix} (h : s.powered = true) (hbr : (s.berth n).breaker = .openSent) :
    ∃ t : State, exec (.breakerOpenReport n) s = .next t.settle ∧ OpenedAfter n s t ∧
      ((s.berth n).state = .opening → (s.berth n).purpose = some .ret →
        (t.berth n).state = .plugged ∧ (t.berth n).purpose = none ∧
          Consented s n .done (if (s.berth n).returnForced then .returnForced else .none) (s.berth n).openPower t ∧
          SourceReached n .returned s t) ∧
      ((s.berth n).state ≠ .opening ∨ (s.berth n).purpose ≠ some .ret → t.oe.flags = s.oe.flags) ∧
      ((s.berth n).state = .opening → (s.berth n).purpose = some .force ∨ (s.berth n).purpose = some .panel →
        (t.berth n).state = .plugged ∧ (t.berth n).purpose = none) ∧
      ((s.berth n).state = .opening → (s.berth n).purpose = some .trip →
        (t.berth n).state = .tripped ∧ (t.berth n).purpose = none ∧ (t.berth n).tripCause = (s.berth n).tripCause) ∧
      ((s.berth n).state = .tripped → (t.berth n).state = .tripped ∧ (t.berth n).tripCause = (s.berth n).tripCause) := by
  have hexec : exec (.breakerOpenReport n) s = .next (s.breakerPosition n .opened).settle :=
    event_next (f := State.breakerPosition n .opened) h
  by_cases hst : (s.berth n).state = .opening
  · have htr : (s.berth n).state ≠ .tripped := by rw [hst]; decide
    by_cases hr : (s.berth n).purpose = some .ret
    · obtain ⟨t, ht, hopened, hrest⟩ := openReport_return hbr hst hr
      refine ⟨t, ht ▸ hexec, hopened, fun _ _ => hrest, fun hno => ?_, fun _ hp => ?_, fun _ hp => ?_, fun h' => absurd h' htr⟩
      · exact (hno.elim (fun hno => hno hst) fun hno => hno hr).elim
      · rw [hr] at hp
        exact absurd hp (by decide)
      · rw [hr] at hp
        exact absurd hp (by decide)
    · by_cases htp : (s.berth n).purpose = some .trip
      · obtain ⟨t, ht, hopened, h1, h2, h3, h4⟩ := openReport_trip hbr hst htp
        refine ⟨t, ht ▸ hexec, hopened, fun _ hp => absurd hp hr, fun _ => h4, fun _ hp => ?_, fun _ _ => ⟨h1, h2, h3⟩,
          fun h' => absurd h' htr⟩
        rw [htp] at hp
        exact absurd hp (by decide)
      · obtain ⟨t, ht, hopened, h1, h2, h3⟩ := openReport_other hbr hst hr htp
        exact ⟨t, ht ▸ hexec, hopened, fun _ hp => absurd hp hr, fun _ => h3, fun _ _ => ⟨h1, h2⟩, fun _ hp => absurd hp htp,
          fun h' => absurd h' htr⟩
  · obtain ⟨t, ht, hopened, h1, h2, h3⟩ := openReport_idle hbr hst
    exact ⟨t, ht ▸ hexec, hopened, fun h' => absurd h' hst, fun _ => h3, fun h' => absurd h' hst, fun h' => absurd h' hst,
      fun htr => ⟨h1.trans htr, h2⟩⟩

/-! ### What a berth does next -/

/-- What a berth with an idle window does next when its bus is not lost and it is not ADMITTING, SYNCING or DEAD_WAIT: the last two
entries of the list of R20 and R28. -/
theorem State.berthNext_idleWindow {s : State} {n : Ix} (hwin : (s.ship n).window = .inactive) (hlost : s.busLost n = false)
    (hst : (s.berth n).state.isWaiting = false) : s.berthNext n =
      if s.returnOpenDue n then some (s.openFromReturn n false)
      else if s.adoptionDone n then some (s.enterOnShore n) else none := by
  have hne : (s.berth n).state ≠ .admitting ∧ (s.berth n).state ≠ .syncing ∧ (s.berth n).state ≠ .deadWait := by
    cases hs : (s.berth n).state <;> simp [hs, BerthState.isWaiting] at hst ⊢
  obtain ⟨h1, h2, h3⟩ := hne
  simp [berthNext, hlost, selectorDue, windowEntered, windowLeft, admittingDone, syncCloseDue, deadCloseDue, hwin, h1, h2, h3]

theorem State.busLost_false {s : State} {n : Ix} (h : (s.berth n).bus ≠ .b ∨ 0 < s.online) : s.busLost n = false := by
  unfold busLost
  rcases h with h | h
  · simp [h]
  · have : s.online ≠ 0 := by omega
    simp [this]

/-- An ADOPTED berth without a marker enters ON_SHORE (R28). -/
theorem adopted_next {s : State} {n : Ix} (hst : (s.berth n).state = .adopted) (hd : (s.berth n).declarationAwaited = false)
    (ha : (s.berth n).authorizationAwaited = false) (hwin : (s.ship n).window = .inactive)
    (hbus : (s.berth n).bus ≠ .b ∨ 0 < s.online) :
    ∃ t : State, s.berthNext n = some t ∧ t.berth n = { s.berth n with state := .onShore } ∧
      SourceReached n .onShoreEntered s t ∧ OnlyTouches ([.flags, .berth n] ++ allOrders) s t := by
  have hnext : s.berthNext n = some (s.enterOnShore n) := by
    rw [State.berthNext_idleWindow hwin (State.busLost_false hbus) (by rw [hst]; rfl)]
    simp [State.returnOpenDue, State.adoptionDone, hst, Berth.markerSet, hd, ha]
  refine ⟨_, hnext, by simp [State.enterOnShore, State.berth], ?_, ?_⟩
  · refine sourceReached_of_waiters (u := s.modBerth n fun b => { b with state := .onShore }) rfl rfl rfl (fun m c hc => ?_)
      (fun _ _ _ _ => rfl) (State.postSource_reaches _ n .onShoreEntered)
    by_cases hm : m = n
    · subst hm; simpa [State.berth] using hc
    · simpa [State.berth, hm] using hc
  · apply onlyTouches_allOrders <;> simp +contextual [State.enterOnShore]

/-- Settles O48. -/
theorem breakerReports : Obligations.BreakerReports := by
  refine ⟨fun s n h hst hbr => ?_, fun s n h hbr => ?_, fun s n hst hd ha hwin hbus => adopted_next hst hd ha hwin hbus⟩
  · obtain ⟨t, he, hclosed, hsync, hdead, hadopt⟩ := closedReport_answers h hbr
    exact ⟨t, he, hclosed.breaker, hclosed.motion, hclosed.approach, hclosed.outlet, hclosed.connected, hsync, hdead, hadopt,
      hclosed.frame⟩
  · obtain ⟨t, he, hopened, hret, hflags, hother, htrip, htripped⟩ := openReport_answers h hbr
    exact ⟨t, he, hopened.breaker, hopened.stuck, hopened.motion, hopened.outlet, hopened.bus, hopened.permit, hret, hflags,
      hother, htrip, htripped, hopened.frame⟩

end Sys2Proof.Machine

namespace Sys2Proof.Machine

/-! ### The selector -/

/-- A selector that settles on a bus (R5). -/
theorem berth_settleSelector (n : Ix) (x : Bus) (s : State) :
    (s.settleSelector n x).berth n = { s.berth n with moving := false, bus := x, selectorLimit := none } := by
  simp [State.berth]

theorem onlyTouches_settleSelector (n : Ix) (x : Bus) (s : State) : OnlyTouches [.berth n, .reference] s (s.settleSelector n x) := by
  apply onlyTouches_of_fields <;> simp +contextual

/-- A selector position that acts settles the selector, and nothing else but its input is touched (R5). -/
theorem selectorPosition_settles {s : State} {n : Ix} {position : Bus} (h : s.powered = true)
    (ht : s.selectorPosition n position = (s.modOutlet n fun o => { o with selector := position }).settleSelector n position) :
    ∃ t : State, exec (.selectorPositionReport n position) s = .next t.settle ∧
      t.berth n = { s.berth n with moving := false, bus := position, selectorLimit := none } ∧
      OnlyTouches [.inputs, .berth n, .reference] s t := by
  have hexec : exec (.selectorPositionReport n position) s = .next (s.selectorPosition n position).settle :=
    event_next (f := State.selectorPosition n position) h
  rw [ht] at hexec
  exact ⟨_, hexec, berth_settleSelector n position _,
    onlyTouches_trans (onlyTouches_mono (onlyTouches_modOutlet s n _) (by simp))
      (onlyTouches_mono (onlyTouches_settleSelector n position _) (by simp))⟩

/-- The selector limit at a berth in ADMITTING ends its CONNECT, with its entry and its admission (R5, R11). -/
theorem selectorExpires_admitting {s : State} {n : Ix} (hl : (s.berth n).selectorLimit.isSome = true)
    (hst : (s.berth n).state = .admitting) : ∃ t, s.selectorExpires n = t ∧ (t.berth n).moving = false ∧ (t.berth n).bus = .none ∧
      (t.berth n).selectorLimit = none ∧ (t.berth n).state = .plugged ∧ Consented s n .failed .breakerFail 0 t ∧
      t.isAdmitted n = false ∧ (∀ e ∈ t.ge.queue, e.berth ≠ n) ∧ t.ge.active.recs.get n = State.noGrant ∧
      t.ge.staged.recs.get n = State.noGrant ∧ (t.berth n).admissionLimit = none ∧
      OnlyTouches ([.berth n, .reference, .grants] ++ allOrders) s t := by
  have ht : s.selectorExpires n = (s.settleSelector n .none).failWaiting n .breakerFail .plugged := by
    simp [State.selectorExpires, hl, hst]
  refine ⟨_, ht, ?_, ?_, ?_, ?_, ?_, ?_, ?_, ?_, ?_, ?_, ?_⟩
  · simp [State.berth, Berth.stopTimers]
  · simp [State.berth, Berth.stopTimers]
  · simp [State.berth, Berth.stopTimers]
  · simp [State.berth]
  · exact (State.consented_failWaiting (s.settleSelector n .none) n .breakerFail .plugged).of_steps
      (by rw [berth_settleSelector]) (by simp) (fun r _ => State.slot_of_ports (by simp) r) (fun _ _ hs _ => hs)
      (by simp [State.berth])
  · simp [State.isAdmitted, State.grantBerth]
  · simp
  · simp [GrantSet.put]
  · simp [GrantSet.put]
  · simp [State.berth, Berth.stopTimers]
  · apply onlyTouches_allOrders <;> simp +contextual

/-- The selector limit at a berth that is not in ADMITTING (R5). -/
theorem selectorExpires_other {s : State} {n : Ix} (hl : (s.berth n).selectorLimit.isSome = true)
    (hst : (s.berth n).state ≠ .admitting) : s.selectorExpires n = s.settleSelector n .none := by
  simp [State.selectorExpires, hl, hst]

/-- The reports and the limit of the selector (R5, R11). -/
theorem selector_answers {s : State} {n : Ix} {position : Bus} (h : s.powered = true) :
    ((s.berth n).moving = true → position = (s.berth n).commanded → position ≠ .none →
      ∃ t : State, exec (.selectorPositionReport n position) s = .next t.settle ∧
        t.berth n = { s.berth n with moving := false, bus := position, selectorLimit := none } ∧
        OnlyTouches [.inputs, .berth n, .reference] s t) ∧
    ((s.berth n).moving = true → position ≠ (s.berth n).commanded →
      ∃ t : State, exec (.selectorPositionReport n position) s = .next t.settle ∧ OnlyTouches [.inputs] s t ∧
        (t.outlet n).selector = position) ∧
    ((s.berth n).moving = false → (s.berth n).breaker = .opened →
      ∃ t : State, exec (.selectorPositionReport n position) s = .next t.settle ∧ (t.berth n).bus = position ∧
        (t.berth n).moving = false ∧ OnlyTouches [.inputs, .berth n, .reference] s t) ∧
    ((s.berth n).moving = false → (s.berth n).breaker ≠ .opened →
      ∃ t : State, exec (.selectorPositionReport n position) s = .next t.settle ∧ OnlyTouches [.inputs] s t) ∧
    ((s.berth n).selectorLimit.isSome = true →
      ∃ t : State, exec (.selectorLimitExpiry n) s = .next t.settle ∧ (t.berth n).moving = false ∧ (t.berth n).bus = .none ∧
        (t.berth n).selectorLimit = none ∧
        ((s.berth n).state = .admitting → (t.berth n).state = .plugged ∧ Consented s n .failed .breakerFail 0 t ∧
          t.isAdmitted n = false ∧ (∀ e ∈ t.ge.queue, e.berth ≠ n) ∧ t.ge.active.recs.get n = State.noGrant ∧
          t.ge.staged.recs.get n = State.noGrant ∧ (t.berth n).admissionLimit = none) ∧
        ((s.berth n).state ≠ .admitting → (t.berth n).state = (s.berth n).state) ∧
        OnlyTouches ([.berth n, .reference, .grants] ++ allOrders) s t) := by
  have report : ∀ t, s.selectorPosition n position = t → exec (.selectorPositionReport n position) s = .next t.settle :=
    fun t ht => ht ▸ event_next (f := State.selectorPosition n position) h
  refine ⟨fun hm hp hno => ?_, fun hm hp => ?_, fun hm hb => ?_, fun hm hb => ?_, fun hl => ?_⟩
  · exact selectorPosition_settles h (by simp [State.selectorPosition, hm, ← hp, hno])
  · exact ⟨_, report (s.modOutlet n fun o => { o with selector := position }) (by simp [State.selectorPosition, hm, hp]),
      onlyTouches_modOutlet s n _, by simp⟩
  · obtain ⟨t, he, hbn, hf⟩ := selectorPosition_settles (n := n) (position := position) h (by simp [State.selectorPosition, hm, hb])
    exact ⟨t, he, by rw [hbn], by rw [hbn], hf⟩
  · exact ⟨_, report (s.modOutlet n fun o => { o with selector := position }) (by simp [State.selectorPosition, hm, hb]),
      onlyTouches_modOutlet s n _⟩
  · by_cases hst : (s.berth n).state = .admitting
    · obtain ⟨t, ht, hmov, hbus, hlim, h1, h2, h3, h4, h5, h6, h7, hf⟩ := selectorExpires_admitting hl hst
      exact ⟨t, ht ▸ event_next (f := State.selectorExpires n) h, hmov, hbus, hlim, fun _ => ⟨h1, h2, h3, h4, h5, h6, h7⟩,
        fun hno => absurd hst hno, hf⟩
    · have ht := selectorExpires_other hl hst
      have hbn := berth_settleSelector n .none s
      exact ⟨_, ht ▸ event_next (f := State.selectorExpires n) h, by rw [hbn], by rw [hbn], by rw [hbn],
        fun h' => absurd h' hst, fun _ => by rw [hbn],
        onlyTouches_mono (onlyTouches_settleSelector n .none s) fun b hb => List.mem_append_left _ (by
          simp only [List.mem_cons, List.not_mem_nil, or_false] at hb ⊢
          tauto)⟩

/-! ### A berth in ADMITTING -/

/-- What a berth in ADMITTING with an idle window does next (R5, R10). -/
theorem State.berthNext_admitting {s : State} {n : Ix} (hst : (s.berth n).state = .admitting)
    (hwin : s.selectorDue n = true ∨ (s.ship n).window = .inactive) : s.berthNext n =
      if s.selectorDue n then some (s.selectorCommand n)
      else if s.admittingDone n then some (s.leaveAdmitting n) else none := by
  have hlost : s.busLost n = false := by simp [busLost, isLive, hst, BerthState.isLive]
  rcases hwin with hdue | hwin
  · simp [berthNext, hlost, hdue]
  · simp [berthNext, hlost, windowEntered, windowLeft, hwin, syncCloseDue, deadCloseDue, returnOpenDue, adoptionDone, hst]

theorem Berth.declaredBus_of {b : Berth} {d : Declaration} (h : b.declaration = some d) : b.declaredBus = d.freq.bus := by
  simp [Berth.declaredBus, h]

/-- The selector command is due in ADMITTING at an open breaker off the matching bus (R5). -/
theorem State.selectorDue_iff {s : State} {n : Ix} {d : Declaration} {r : OrderRef} (hst : (s.berth n).state = .admitting)
    (hd : (s.berth n).declaration = some d) (hr : (s.berth n).consenting = some r) : s.selectorDue n = true ↔
      (s.berth n).moving = false ∧ (s.berth n).bus ≠ d.freq.bus ∧ (s.berth n).breaker = .opened := by
  simp [selectorDue, hst, hr, Berth.declaredBus_of hd, and_assoc]

/-- Conditions 6, 7, 8 and 10 and the admission, all of which the step out of ADMITTING needs (R10). -/
theorem State.admittingDone_iff {s : State} {n : Ix} (hst : (s.berth n).state = .admitting) : s.admittingDone n = true ↔
    s.isAdmitted n = true ∧ s.selectorReady n = true ∧ s.busAvailable n = true ∧ s.fresh n = true ∧
      s.capacityOnline n = true := by
  simp [admittingDone, hst, readyToClose, and_assoc]

theorem State.leaveAdmitting_syncing {s : State} {n : Ix} {d : Declaration} (hd : (s.berth n).declaration = some d)
    (ht : d.trans = .closed) (hs : (s.ship n).side = .live) : s.leaveAdmitting n = s.enterSyncing n := by
  obtain ⟨f, c, t, a, b, e, g⟩ := d
  cases ht
  simp [leaveAdmitting, hd, hs]

theorem State.leaveAdmitting_deadWait {s : State} {n : Ix} {d : Declaration} (hd : (s.berth n).declaration = some d)
    (h : d.trans = .opened ∨ (s.ship n).side ≠ .live) : s.leaveAdmitting n = s.enterDeadWait n := by
  obtain ⟨f, c, t, a, b, e, g⟩ := d
  rcases h with rfl | h
  · simp [leaveAdmitting, hd]
  · cases t <;> simp [leaveAdmitting, hd, h]

/-- The entry to SYNCING (R12, R34). -/
theorem enterSyncing_answers (s : State) (n : Ix) : OnlyTouches [.berth n, .reference] s (s.enterSyncing n) ∧
    (s.enterSyncing n).berth n = { s.berth n with state := .syncing, syncLimit := some s.syncTime } ∧
    ((s.berth n).bus = .a → ((s.enterSyncing n).ship n).window = .outside) := by
  unfold State.enterSyncing
  simp only
  split
  · rename_i hb
    refine ⟨?_, by simp [State.berth], fun ha => absurd (ha.symm.trans hb) (by decide)⟩
    apply onlyTouches_of_fields <;> simp +contextual
  · refine ⟨?_, by simp [State.berth], fun _ => by simp [State.ship_setWindow]⟩
    apply onlyTouches_of_fields <;> simp +contextual

/-- What a berth in ADMITTING does next (R5, R10, R12, R13). -/
theorem admitting_next {s : State} {n : Ix} {d : Declaration} {r : OrderRef} (hst : (s.berth n).state = .admitting)
    (hd : (s.berth n).declaration = some d) (hr : (s.berth n).consenting = some r) :
    ((s.berth n).moving = false → (s.berth n).bus ≠ d.freq.bus → (s.berth n).breaker = .opened →
      ∃ t : State, s.berthNext n = some t ∧ OnlyTouches [.berth n] s t ∧
        t.berth n = { s.berth n with moving := true, bus := .none, commanded := d.freq.bus, selectorLimit := some 4 }) ∧
    (s.isAdmitted n = true → s.selectorReady n = true → s.busAvailable n = true → s.fresh n = true →
      s.capacityOnline n = true → (s.ship n).window = .inactive →
      (d.trans = .closed → (s.ship n).side = .live →
        ∃ t : State, s.berthNext n = some t ∧ OnlyTouches [.berth n, .reference] s t ∧
          t.berth n = { s.berth n with state := .syncing, syncLimit := some s.syncTime } ∧
          ((s.berth n).bus = .a → (t.ship n).window = .outside)) ∧
      (d.trans = .opened ∨ (s.ship n).side ≠ .live →
        ∃ t : State, s.berthNext n = some t ∧ OnlyTouches [.berth n] s t ∧
          t.berth n = { s.berth n with
            state := .deadWait, openTransitionLimit := some s.openTransitionTime
            deadCount := if (s.ship n).side = .dead then .running s.deadTime else .stopped })) ∧
    (s.isAdmitted n = false ∨ s.selectorReady n = false ∨ s.busAvailable n = false ∨ s.fresh n = false ∨
      s.capacityOnline n = false → (s.berth n).moving = true ∨ (s.berth n).bus = d.freq.bus ∨ (s.berth n).breaker ≠ .opened →
      (s.ship n).window = .inactive → s.berthNext n = none) := by
  have hdue := State.selectorDue_iff hst hd hr
  refine ⟨fun hm hb hbr => ?_, fun h1 h2 h3 h4 h5 hwin => ?_, fun hno hidle hwin => ?_⟩
  · have hd' : s.selectorDue n = true := hdue.mpr ⟨hm, hb, hbr⟩
    refine ⟨s.selectorCommand n, by rw [State.berthNext_admitting hst (.inl hd'), if_pos hd'], onlyTouches_modBerth n _, ?_⟩
    simp only [State.selectorCommand, State.berth, State.berths_modBerth, Six.get_set_same]
    have hbus := Berth.declaredBus_of hd
    unfold State.berth at hbus
    rw [hbus]
  · have hready : (s.berth n).bus = d.freq.bus := by
      simp only [State.selectorReady, Bool.and_eq_true, decide_eq_true_eq, Berth.declaredBus_of hd] at h2
      exact h2.2
    have hnext : s.berthNext n = some (s.leaveAdmitting n) := by
      rw [State.berthNext_admitting hst (.inr hwin), if_neg fun h => (hdue.mp h).2.1 hready,
        if_pos ((State.admittingDone_iff hst).mpr ⟨h1, h2, h3, h4, h5⟩)]
    refine ⟨fun htr hs => ?_, fun htr => ?_⟩
    · rw [State.leaveAdmitting_syncing hd htr hs] at hnext
      exact ⟨_, hnext, enterSyncing_answers s n⟩
    · rw [State.leaveAdmitting_deadWait hd htr] at hnext
      exact ⟨_, hnext, onlyTouches_modBerth n _, by simp [State.enterDeadWait, State.berth]⟩
  · rw [State.berthNext_admitting hst (.inr hwin), if_neg, if_neg]
    · intro hdone
      obtain ⟨h1, h2, h3, h4, h5⟩ := (State.admittingDone_iff hst).mp hdone
      simp [h1, h2, h3, h4, h5] at hno
    · intro h
      obtain ⟨hm, hb, hbr⟩ := hdue.mp h
      rcases hidle with hi | hi | hi
      · rw [hm] at hi; cases hi
      · exact hb hi
      · exact hi hbr

/-- Settles O50. -/
theorem selectorSettles : Obligations.SelectorSettles :=
  ⟨fun _ _ _ h => selector_answers h, fun _ _ _ _ hst hd hr => admitting_next hst hd hr⟩

end Sys2Proof.Machine

namespace Sys2Proof.Machine

/-- An event whose effect is known. -/
theorem event_next_eq {f : State → State} {s t : State} (h : s.powered = true) (ht : f s = t) : event f s = .next t.settle := by
  rw [event_next h, ht]

/-! ### Signals of a berth and of bus A -/

/-- An open command changes the breaker field, the motion limit and the permit dead time of its own record alone (R3, R52). -/
theorem State.commandOpen_berths (n : Ix) (s : State) : ∃ br limit dead, (s.commandOpen n).berths =
    s.berths.set n { s.berths.get n with breaker := br, motionLimit := limit, permitDeadTime := dead } := by
  have self : s.berths = s.berths.set n { s.berths.get n with
      breaker := (s.berths.get n).breaker, motionLimit := (s.berths.get n).motionLimit
      permitDeadTime := (s.berths.get n).permitDeadTime } := (Six.set_get _ _).symm
  have motion : ((s.modBerth n fun b => { b with motionLimit := some Config.openMotion }).leaveOpen n .openSent).berths =
      s.berths.set n { s.berths.get n with
        breaker := .openSent, motionLimit := some Config.openMotion, permitDeadTime := none } := by simp
  unfold commandOpen
  split
  · exact ⟨_, _, _, self⟩
  · split
    · exact ⟨_, _, _, self⟩
    · exact ⟨_, _, _, motion⟩
  · exact ⟨_, _, _, motion⟩
  · exact ⟨_, _, _, motion⟩

/-- The record of a berth that opens from RETURN_PARALLEL, whatever its breaker does (R20). -/
theorem State.openFromReturn_record (n : Ix) (f : Bool) (s : State) : ((s.openFromReturn n f).berth n).state = .opening ∧
    ((s.openFromReturn n f).berth n).purpose = some .ret ∧ ((s.openFromReturn n f).berth n).returnForced = f ∧
    ((s.openFromReturn n f).berth n).openPower = (s.outlet n).meterNow := by
  obtain ⟨u, hu⟩ : ∃ u, u = s.modBerth n fun b =>
      { b with state := .opening, purpose := some .ret, parallelLimit := none, returnForced := f
               openPower := (s.outlet n).meterNow } := ⟨_, rfl⟩
  obtain ⟨br, limit, dead, hb⟩ := u.commandOpen_berths n
  have ht : (s.openFromReturn n f).berths = (u.commandOpen n).berths := by
    rw [hu]
    exact (fields_departLive _ _).2.2.2.2.2.2.1
  have hun : u.berths.get n = { s.berths.get n with
      state := .opening, purpose := some .ret, parallelLimit := none, returnForced := f
      openPower := (s.outlet n).meterNow } := by rw [hu]; simp
  unfold berth
  rw [ht, hb]
  simp [hun]

/-- SHORE_POWER_LOW (R20). -/
theorem shorePower_answers {s : State} {n : Ix} {kw : Nat} (h : s.powered = true) :
    ∃ t : State, exec (.shorePowerLow n kw) s = .next t.settle ∧ (t.outlet n).meterNow = kw ∧ OnlyTouches [.inputs] s t ∧
      (∀ m, m ≠ n → t.outlet m = s.outlet m) ∧
      ((s.berth n).state = .returnParallel → kw * 20 < (s.berth n).rating →
        ((s.berth n).bus ≠ .b ∨ 0 < s.online) → (s.ship n).window = .inactive →
        ∃ u : State, t.berthNext n = some u ∧ (u.berth n).state = .opening ∧ (u.berth n).purpose = some .ret ∧
          (u.berth n).returnForced = false ∧ (u.berth n).openPower = kw) := by
  have hmeter : ((s.shorePower n kw).outlet n).meterNow = kw := by simp [State.shorePower]
  refine ⟨s.shorePower n kw, event_next (f := State.shorePower n kw) h, hmeter, onlyTouches_modOutlet s n _,
    fun m hm => by simp [State.shorePower, hm], fun hst hlow hbus hwin => ⟨(s.shorePower n kw).openFromReturn n false, ?_, ?_⟩⟩
  · have hst' : ((s.shorePower n kw).berth n).state = .returnParallel := hst
    have hlow' : (s.shorePower n kw).shorePowerLow n = true := by
      unfold State.shorePowerLow
      rw [hmeter]
      exact decide_eq_true hlow
    rw [State.berthNext_idleWindow (s := s.shorePower n kw) hwin (State.busLost_false hbus) (by rw [hst']; rfl)]
    simp [State.returnOpenDue, hst', hlow']
  · have hrec := (s.shorePower n kw).openFromReturn_record n false
    rwa [hmeter] at hrec

/-- The dead count, the permit dead time and the settle time run out (R48, R50, R52). -/
theorem berthTimers_answers {s : State} {n : Ix} (h : s.powered = true) :
    (∀ left, (s.berth n).deadCount = .running left →
      ∃ t : State, exec (.deadCountCompletion n) s = .next t.settle ∧
        t.berth n = { s.berth n with deadCount := .completed } ∧ OnlyTouches [.berth n] s t) ∧
    ((s.berth n).permitDeadTime.isSome = true →
      ∃ t : State, exec (.permitDeadTimeExpiry n) s = .next t.settle ∧
        t.berth n = { s.berth n with permit := true, permitDeadTime := none } ∧ OnlyTouches [.berth n] s t) ∧
    ((s.ship n).window = .settling →
      ∃ t : State, exec (.settleTimerExpiry n) s = .next t.settle ∧ (t.ship n).window = .held ∧ (t.ship n).settle = none ∧
        (∀ m, m ≠ n → t.ship m = s.ship m) ∧ OnlyTouches [.reference] s t) := by
  refine ⟨fun left hl => ?_, fun hp => ?_, fun hw => ?_⟩
  · have ht : s.deadCountCompletes n = s.modBerth n fun b => { b with deadCount := .completed } :=
      if_pos (by rw [hl]; rfl)
    exact ⟨_, ht ▸ event_next (f := State.deadCountCompletes n) h, by simp [State.berth], onlyTouches_modBerth n _⟩
  · have ht : s.permitExpires n = s.modBerth n fun b => { b with permit := true, permitDeadTime := none } := if_pos hp
    exact ⟨_, ht ▸ event_next (f := State.permitExpires n) h, by simp [State.berth], onlyTouches_modBerth n _⟩
  · have ht : s.settleExpires n = s.setWindow n .held none := if_pos hw
    refine ⟨_, ht ▸ event_next (f := State.settleExpires n) h, by simp [State.ship_setWindow], by simp [State.ship_setWindow],
      fun m hm => by simp [State.ship_setWindow, hm], ?_⟩
    apply onlyTouches_of_fields <;> simp +contextual

/-- The voltage of bus A and its availability (R36), and the reference that arrives (R40). -/
theorem busA_answers {s : State} (h : s.powered = true) :
    (∀ voltage, (s.pru.busAPresent = true ↔ voltage < 800) →
      ∃ t : State, exec (.busAVoltageCrossing voltage) s = .next t.settle ∧ t.inputs.busAVoltage = voltage ∧
        t.pru.busATimer.isSome = true ∧ t.pru.busAPresent = s.pru.busAPresent ∧
        (s.pru.busATimer = none → t.pru = { s.pru with busATimer := some 1 }) ∧ OnlyTouches [.inputs, .reference] s t) ∧
    (∀ voltage, (s.pru.busAPresent = true ↔ 800 ≤ voltage) →
      ∃ t : State, exec (.busAVoltageCrossing voltage) s = .next t.settle ∧ t.pru = { s.pru with busATimer := none } ∧
        OnlyTouches [.inputs, .reference] s t) ∧
    (s.pru.busATimer.isSome = true →
      ∃ t : State, exec .busAAvailabilityChange s = .next t.settle ∧
        t.pru = { s.pru with busAPresent := !s.pru.busAPresent, busATimer := none } ∧ OnlyTouches [.reference] s t) ∧
    (s.pru.mode = .ret →
      ∃ t : State, exec .referenceReaches60 s = .next t.settle ∧ t.pru = { s.pru with mode := .free, frequency := 60000 } ∧
        OnlyTouches [.reference] s t) := by
  have frame : ∀ (f : Inputs → Inputs) (g : PhaseUnit → PhaseUnit),
      OnlyTouches [.inputs, .reference] s ((s.modInputs f).modPru g) := fun f g =>
    onlyTouches_trans (onlyTouches_mono (onlyTouches_modInputs f) (by simp)) (onlyTouches_mono (onlyTouches_modPru g) (by simp))
  refine ⟨fun voltage hv => ?_, fun voltage hv => ?_, fun ht => ?_, fun hm => ?_⟩
  · have hne : ¬ decide (800 ≤ voltage) = s.pru.busAPresent := by
      intro he
      rw [← he, decide_eq_true_eq] at hv
      omega
    have ht : s.busAVoltage voltage = (s.modInputs fun i => { i with busAVoltage := voltage }).modPru fun u =>
        { u with busATimer := some (u.busATimer.getD 1) } := if_neg hne
    have hexec : exec (.busAVoltageCrossing voltage) s = _ := event_next_eq (f := State.busAVoltage voltage) h ht
    exact ⟨_, hexec, rfl, rfl, rfl, fun hno => by simp [hno], frame _ _⟩
  · have he : decide (800 ≤ voltage) = s.pru.busAPresent := by
      rw [Bool.eq_iff_iff, hv]
      simp
    have ht : s.busAVoltage voltage = (s.modInputs fun i => { i with busAVoltage := voltage }).modPru fun u =>
        { u with busATimer := none } := if_pos he
    have hexec : exec (.busAVoltageCrossing voltage) s = _ := event_next_eq (f := State.busAVoltage voltage) h ht
    exact ⟨_, hexec, rfl, frame _ _⟩
  · have hc : s.busAChanges = s.modPru fun u => { u with busAPresent := !u.busAPresent, busATimer := none } := if_pos ht
    have hexec : exec .busAAvailabilityChange s = _ := event_next_eq (f := State.busAChanges) h hc
    exact ⟨_, hexec, rfl, onlyTouches_modPru _⟩
  · have ht : s.referenceArrives = s.freeReference := if_pos hm
    have hexec : exec .referenceReaches60 s = _ := event_next_eq (f := State.referenceArrives) h ht
    exact ⟨_, hexec, rfl, onlyTouches_modPru _⟩

/-- Settles O52. -/
theorem berthSignals : Obligations.BerthSignals :=
  ⟨fun _ _ _ h => shorePower_answers h, fun _ _ h => berthTimers_answers h, fun _ h => busA_answers h⟩

end Sys2Proof.Machine

namespace Sys2Proof.Machine

/-! ### Ship-side reports -/

/-- The ship-side state is taken in (R35). -/
def State.withSide (n : Ix) (side : ShipSide) (s : State) : State := s.modShip n fun p => { p with side }

theorem State.ship_withSide (n m : Ix) (x : ShipSide) (s : State) :
    (s.withSide n x).ship m = if m = n then { s.ship n with side := x } else s.ship m := by
  simp [withSide, ship, Six.get_set, eq_comm]

theorem onlyTouches_withSide (n : Ix) (x : ShipSide) (s : State) : OnlyTouches [.reference] s (s.withSide n x) :=
  onlyTouches_modPru _

@[simp] theorem State.fields_withSide (n : Ix) (x : ShipSide) (s : State) : OnlyPru s (s.withSide n x) := by
  simp [OnlyPru, withSide]

theorem sideOf_dead {v : Nat} : sideOf v = .dead ↔ v < 100 := by
  unfold sideOf Config.deadBelow Config.liveFrom
  split
  · simp_all
  · split <;> simp_all

theorem sideOf_live {v : Nat} : sideOf v = .live ↔ 800 ≤ v := by
  unfold sideOf Config.deadBelow Config.liveFrom
  split
  · simp only [reduceCtorEq, false_iff]
    omega
  · split <;> simp only [reduceCtorEq, false_iff, true_iff] <;> omega

theorem sideOf_between {v : Nat} (h : 100 ≤ v) (h' : v < 800) : sideOf v = .between := by
  unfold sideOf Config.deadBelow Config.liveFrom
  rw [if_neg (by omega), if_pos h']

/-- A report that does not change the ship-side state is taken in alone (R35). -/
theorem State.shipVoltage_quiet {n : Ix} {v : Nat} {s : State} (h : (s.berth n).plug = .absent ∨ sideOf v = (s.ship n).side) :
    s.shipVoltage n v = s.modOutlet n fun o => { o with shipVoltage := v } := by
  unfold shipVoltage
  refine if_neg ?_
  rintro ⟨hp, hs⟩
  rcases h with h | h
  · exact absurd (hp.symm.trans h) (by decide)
  · exact hs h

/-- A report that changes the ship-side state reaches the Berth Sequencer and the Check Scanner (R35). -/
theorem State.shipVoltage_report {n : Ix} {v : Nat} {s : State} (hp : (s.berth n).plug = .present)
    (hs : sideOf v ≠ (s.ship n).side) :
    s.shipVoltage n v = (s.modOutlet n fun o => { o with shipVoltage := v }).sideReport n (sideOf v) :=
  if_pos ⟨hp, hs⟩

/-- What a report that is not DEAD does to the berth (R50). -/
def State.stopDeadCount (n : Ix) (s : State) : State :=
  if (s.berth n).state = .deadWait then s.modBerth n fun b => { b with deadCount := .stopped } else s

theorem State.sideReport_between (n : Ix) (s : State) : s.sideReport n .between = (s.withSide n .between).stopDeadCount n := by
  unfold sideReport stopDeadCount
  have hst : ((s.withSide n .between).berth n).state = (s.berth n).state := by simp [berth]
  rw [hst]
  cases hs : (s.berth n).state <;> simp [withSide]

theorem State.sideReport_live (n : Ix) (s : State) : s.sideReport n .live = ((s.withSide n .live).stopDeadCount n).abortDead n := by
  unfold sideReport stopDeadCount
  have hst : ((s.withSide n .live).berth n).state = (s.berth n).state := by simp [berth]
  rw [hst]
  cases hs : (s.berth n).state <;> simp [withSide]

theorem State.sideReport_dead_syncing {n : Ix} {s : State} (h : (s.berth n).state = .syncing) :
    s.sideReport n .dead = (s.withSide n .dead).syncToDead n := by
  unfold sideReport
  rw [h]
  rfl

theorem State.sideReport_dead_wait {n : Ix} {s : State} (h : (s.berth n).state = .deadWait) : s.sideReport n .dead =
    if (s.berth n).deadCount = .stopped then (s.withSide n .dead).modBerth n fun b => { b with deadCount := .running s.deadTime }
    else s.withSide n .dead := by
  unfold sideReport
  rw [h]
  rfl

theorem State.sideReport_dead_other {n : Ix} {s : State} (h : (s.berth n).state ∉ [.syncing, .deadWait]) :
    s.sideReport n .dead = s.withSide n .dead := by
  unfold sideReport
  cases hs : (s.berth n).state <;> simp [hs] at h ⊢ <;> rfl

theorem State.stopDeadCount_berth (n : Ix) (s : State) : (s.stopDeadCount n).berth n =
    if (s.berth n).state = .deadWait then { s.berth n with deadCount := .stopped } else s.berth n := by
  unfold stopDeadCount
  split <;> simp [berth]

theorem onlyTouches_stopDeadCount (n : Ix) (s : State) : OnlyTouches [.berth n] s (s.stopDeadCount n) := by
  unfold State.stopDeadCount
  split
  · exact onlyTouches_modBerth n _
  · exact onlyTouches_refl _ _

@[simp] theorem State.fields_stopDeadCount (n : Ix) (s : State) : (s.stopDeadCount n).inputs = s.inputs ∧
    (s.stopDeadCount n).pru = s.pru ∧ (s.stopDeadCount n).cs = s.cs ∧
    ((s.stopDeadCount n).berth n).breaker = (s.berth n).breaker := by
  unfold stopDeadCount
  split <;> simp [berth]

theorem onlyTouches_abortDead (n : Ix) (s : State) : OnlyTouches [.scanner] s (s.abortDead n) := by
  apply onlyTouches_of_fields <;> simp +contextual

/-! ### A DEAD check that is aborted -/

/-- No DEAD check of the berth is in flight (R65). -/
theorem State.abortDead_quiet {n : Ix} {s : State} (h : ∀ c, s.cs.scanner = .running c → c.berth ≠ n ∨ c.mode ≠ .dead) :
    s.abortDead n = s := by
  unfold abortDead
  split
  · rename_i c hc
    exact if_neg fun ⟨h1, h2⟩ => (h c hc).elim (fun h => h h1) fun h => h h2
  · rfl
  · rfl

theorem State.chooseCheck_faulted {s : State} (h : s.cs.scanner = .faulted) : s.chooseCheck = s := by
  simp [chooseCheck, h]

theorem State.chooseCheck_head {s : State} {n : Ix} {rest : List Ix} (h : s.cs.scanner = .idle) (hq : s.cs.queue = n :: rest) :
    s.chooseCheck = (s.modCs fun u => { u with queue := rest }).startCheck n .request := by
  simp [chooseCheck, h, hq]

/-- The state in which the choice follows an aborted DEAD check (R65). -/
def State.abortedDead (n : Ix) (s : State) : State := (s.abortRecord n).freeInstrument.requestFirst n

theorem State.abortDead_running {n : Ix} {s : State} {c : InFlight} (hc : s.cs.scanner = .running c) (hn : c.berth = n)
    (hm : c.mode = .dead) : s.abortDead n = (s.abortedDead n).chooseCheck := by
  unfold abortDead
  rw [hc]
  exact if_pos ⟨hn, hm⟩

theorem State.fields_abortedDead (n : Ix) (s : State) :
    (s.abortedDead n).cs.scanner = (if s.inputs.instrumentFault then .faulted else .idle) ∧
    (s.abortedDead n).cs.queue = n :: s.cs.queue.filter (fun x => decide (x ≠ n)) ∧
    (s.abortedDead n).check n = { s.check n with status := ((s.check n).before.getD .none).status, before := none } ∧
    (s.abortedDead n).berths = s.berths ∧ (s.abortedDead n).pru = s.pru := by
  simp [abortedDead, requestFirst, freeInstrument, abortRecord, check]
  rfl

theorem BeforeFlight.kept_status (b : BeforeFlight) : b.status.kept = b := by cases b <;> rfl

/-- A live report aborts a DEAD check of the berth in flight, which waits at a FAULTED instrument and is chosen again in its new
mode else (R59, R65). -/
theorem State.abortDead_answers {n : Ix} {s : State} {c : InFlight} (hc : s.cs.scanner = .running c) (hn : c.berth = n)
    (hm : c.mode = .dead) (hlive : (s.ship n).side = .live) :
    (s.inputs.instrumentFault = true → (s.abortDead n).cs.scanner = .faulted ∧
      (s.abortDead n).cs.queue = n :: s.cs.queue.filter (fun x => decide (x ≠ n)) ∧
      (s.abortDead n).check n = { s.check n with status := ((s.check n).before.getD .none).status, before := none }) ∧
    (s.inputs.instrumentFault = false →
      (s.abortDead n).cs.scanner = .running { berth := n, mode := .live, origin := .request, timer := 1 } ∧
      (s.abortDead n).cs.queue = s.cs.queue.filter (fun x => decide (x ≠ n)) ∧
      (s.abortDead n).check n = { s.check n with
        status := .inFlight, before := some ((s.check n).before.getD .none), mode := some .live }) := by
  obtain ⟨hscan, hqueue, hcheck, -, hpru⟩ := s.fields_abortedDead n
  rw [abortDead_running hc hn hm]
  refine ⟨fun hf => ?_, fun hf => ?_⟩
  · rw [hf, if_pos rfl] at hscan
    rw [chooseCheck_faulted hscan]
    exact ⟨hscan, hqueue, hcheck⟩
  · rw [hf, if_neg Bool.false_ne_true] at hscan
    rw [chooseCheck_head hscan hqueue]
    have hmode : ((s.abortedDead n).modCs fun u => { u with queue := s.cs.queue.filter fun x => decide (x ≠ n) }).checkMode n =
        .live := by
      unfold checkMode ship
      unfold ship at hlive
      rw [pru_modCs, hpru, if_neg fun h => h.2 hlive]
    refine ⟨?_, rfl, ?_⟩
    · rw [scanner_startCheck, hmode]
      rfl
    · rw [check_startCheck, if_pos rfl, hmode]
      have hsame : ((s.abortedDead n).modCs fun u => { u with queue := s.cs.queue.filter fun x => decide (x ≠ n) }).check n =
          (s.abortedDead n).check n := rfl
      rw [hsame, hcheck, BeforeFlight.kept_status]

end Sys2Proof.Machine

namespace Sys2Proof.Machine

/-- A report is taken in at the outlet, whatever it changes. -/
theorem outlet_reported {s t : State} {n : Ix} {v : Nat}
    (h : t.inputs = (s.modOutlet n fun o => { o with shipVoltage := v }).inputs) : (t.outlet n).shipVoltage = v := by
  unfold State.outlet
  rw [h]
  simp

theorem onlyTouches_syncToDead (n : Ix) (s : State) : OnlyTouches [.berth n, .reference] s (s.syncToDead n) := by
  apply onlyTouches_of_fields <;> simp +contextual [State.syncToDead, State.enterDeadWait]

/-- The ship side becomes dead in SYNCING (R12, R50). -/
theorem syncToDead_answers {s : State} {n : Ix} (hs : (s.ship n).side = .dead) : ((s.syncToDead n).ship n).side = .dead ∧
    ((s.syncToDead n).berth n).state = .deadWait ∧ ((s.syncToDead n).berth n).syncLimit = none ∧
    ((s.syncToDead n).berth n).openTransitionLimit = some s.openTransitionTime ∧
    ((s.syncToDead n).berth n).deadCount = .running s.deadTime ∧ ((s.syncToDead n).ship n).window = .inactive ∧
    (s.syncToDead n).holdsClaim n = false := by
  obtain ⟨u, hu⟩ : ∃ u, u = (s.modBerth n fun b => { b with syncLimit := none }).leaveSyncing n false := ⟨_, rfl⟩
  have ht : s.syncToDead n = u.enterDeadWait n := by rw [hu]; rfl
  have hside : (u.ship n).side = .dead := by rw [hu, State.side_leaveSyncing]; exact hs
  have hub : u.berths.get n = { s.berths.get n with syncLimit := none } := by rw [hu]; simp
  have htab : u.table = s.table := by rw [hu]; simp
  have hout : OutOfClaims n (u.enterDeadWait n) := (hu ▸ State.outOfClaims_leaveSyncing n false _).of_pru rfl
  rw [ht]
  refine ⟨hside, ?_, ?_, ?_, ?_, hout.window, hout.holdsClaim⟩
  · simp [State.enterDeadWait, State.berth]
  · simp [State.enterDeadWait, State.berth, hub]
  · simp [State.enterDeadWait, State.berth, State.openTransitionTime, State.param, htab]
  · simp [State.enterDeadWait, State.berth, State.deadTime, State.param, htab, hside]

/-- SHIP_SIDE_REPORT (R12, R13, R35, R50, R65). -/
theorem shipSide_answers {s : State} {n : Ix} {voltage : Nat} (h : s.powered = true) (hp : (s.berth n).plug = .present) :
    (voltage < 100 → (s.ship n).side ≠ .dead →
      ∃ t : State, exec (.shipSideReport n voltage) s = .next t.settle ∧ (t.ship n).side = .dead ∧
        (t.outlet n).shipVoltage = voltage ∧
        ((s.berth n).state = .syncing → (t.berth n).state = .deadWait ∧ (t.berth n).syncLimit = none ∧
          (t.berth n).openTransitionLimit = some s.openTransitionTime ∧ (t.berth n).deadCount = .running s.deadTime ∧
          (t.ship n).window = .inactive ∧ t.holdsClaim n = false) ∧
        ((s.berth n).state = .deadWait → (s.berth n).deadCount = .stopped →
          t.berth n = { s.berth n with deadCount := .running s.deadTime }) ∧
        ((s.berth n).state ∉ [.syncing, .deadWait] → t.berth n = s.berth n) ∧
        OnlyTouches [.inputs, .berth n, .reference] s t) ∧
    (800 ≤ voltage → (s.ship n).side ≠ .live →
      ∃ t : State, exec (.shipSideReport n voltage) s = .next t.settle ∧ (t.ship n).side = .live ∧
        (t.outlet n).shipVoltage = voltage ∧
        ((s.berth n).state = .deadWait → t.berth n = { s.berth n with deadCount := .stopped }) ∧
        ((s.berth n).state ≠ .deadWait → t.berth n = s.berth n) ∧
        ((∀ c, s.cs.scanner = .running c → c.berth ≠ n ∨ c.mode ≠ .dead) → t.cs = s.cs) ∧
        (∀ c, s.cs.scanner = .running c → c.berth = n → c.mode = .dead →
          (s.inputs.instrumentFault = true → t.cs.scanner = .faulted ∧
            t.cs.queue = n :: s.cs.queue.filter (fun x => decide (x ≠ n)) ∧
            t.check n = { s.check n with status := ((s.check n).before.getD .none).status, before := none }) ∧
          (s.inputs.instrumentFault = false →
            t.cs.scanner = .running { berth := n, mode := .live, origin := .request, timer := 1 } ∧
            t.cs.queue = s.cs.queue.filter (fun x => decide (x ≠ n)) ∧
            t.check n = { s.check n with
              status := .inFlight, before := some ((s.check n).before.getD .none), mode := some .live })) ∧
        OnlyTouches [.inputs, .berth n, .reference, .scanner] s t) ∧
    (100 ≤ voltage → voltage < 800 → (s.ship n).side ≠ .between →
      ∃ t : State, exec (.shipSideReport n voltage) s = .next t.settle ∧ (t.ship n).side = .between ∧
        (t.outlet n).shipVoltage = voltage ∧
        ((s.berth n).state = .deadWait → t.berth n = { s.berth n with deadCount := .stopped }) ∧
        ((s.berth n).state ≠ .deadWait → t.berth n = s.berth n) ∧
        OnlyTouches [.inputs, .berth n, .reference] s t) ∧
    (sideOf voltage = (s.ship n).side →
      ∃ t : State, exec (.shipSideReport n voltage) s = .next t.settle ∧ (t.outlet n).shipVoltage = voltage ∧
        OnlyTouches [.inputs] s t) := by
  obtain ⟨x, hx⟩ : ∃ x, x = s.modOutlet n fun o => { o with shipVoltage := voltage } := ⟨_, rfl⟩
  have hxn : x.berth n = s.berth n := by rw [hx]; rfl
  have hin : OnlyTouches [.inputs] s x := hx ▸ onlyTouches_modOutlet s n _
  have report : ∀ {t}, s.shipVoltage n voltage = t → exec (.shipSideReport n voltage) s = .next t.settle := fun ht =>
    event_next_eq (f := State.shipVoltage n voltage) h ht
  have sided : ∀ {side t}, sideOf voltage = side → (s.ship n).side ≠ side → x.sideReport n side = t →
      exec (.shipSideReport n voltage) s = .next t.settle := fun hs hne ht =>
    report (by rw [State.shipVoltage_report hp (by rw [hs]; exact Ne.symm hne), hs, ← hx, ht])
  have reported : ∀ {t : State}, t.inputs = x.inputs → (t.outlet n).shipVoltage = voltage := fun ht =>
    outlet_reported (by rw [ht, hx])
  refine ⟨fun hv hne => ?_, fun hv hne => ?_, fun hv hv' hne => ?_, fun hs => ?_⟩
  · have hdead := sided (sideOf_dead.mpr hv) hne rfl
    have hside : ((x.withSide n .dead).ship n).side = .dead := by simp [State.ship_withSide]
    by_cases hsync : (s.berth n).state = .syncing
    · rw [State.sideReport_dead_syncing (by rw [hxn]; exact hsync)] at hdead
      obtain ⟨h1, h2, h3, h4, h5, h6, h7⟩ := syncToDead_answers hside
      have htab : (x.withSide n .dead).table = s.table := by rw [hx]; simp
      rw [show (x.withSide n .dead).openTransitionTime = s.openTransitionTime by
        unfold State.openTransitionTime State.param; rw [htab]] at h4
      rw [show (x.withSide n .dead).deadTime = s.deadTime by unfold State.deadTime State.param; rw [htab]] at h5
      refine ⟨_, hdead, h1, reported (by simp [State.syncToDead, State.enterDeadWait]), fun _ => ⟨h2, h3, h4, h5, h6, h7⟩,
        fun h' => ?_, fun h' => absurd (by simp [hsync]) h', ?_⟩
      · rw [hsync] at h'; cases h'
      · exact onlyTouches_trans (onlyTouches_mono hin (by simp)) (onlyTouches_trans
          (onlyTouches_mono (onlyTouches_withSide n .dead x) (by simp)) (onlyTouches_mono (onlyTouches_syncToDead n _) (by simp)))
    · by_cases hwait : (s.berth n).state = .deadWait
      · rw [State.sideReport_dead_wait (by rw [hxn]; exact hwait), hxn] at hdead
        by_cases hc : (s.berth n).deadCount = .stopped
        · rw [if_pos hc] at hdead
          refine ⟨_, hdead, hside, reported (by simp), fun h' => absurd h' hsync, fun _ _ => ?_,
            fun h' => absurd (by simp [hwait]) h', ?_⟩
          · rw [hx]
            simp [State.berth, State.deadTime, State.param]
          · exact onlyTouches_trans (onlyTouches_mono hin (by simp)) (onlyTouches_trans
              (onlyTouches_mono (onlyTouches_withSide n .dead x) (by simp)) (onlyTouches_mono (onlyTouches_modBerth n _) (by simp)))
        · rw [if_neg hc] at hdead
          exact ⟨_, hdead, hside, reported (by simp), fun h' => absurd h' hsync, fun _ h' => absurd h' hc,
            fun h' => absurd (by simp [hwait]) h', onlyTouches_trans (onlyTouches_mono hin (by simp))
              (onlyTouches_mono (onlyTouches_withSide n .dead x) (by simp))⟩
      · rw [State.sideReport_dead_other (by rw [hxn]; simp [hsync, hwait])] at hdead
        exact ⟨_, hdead, hside, reported (by simp), fun h' => absurd h' hsync, fun h' => absurd h' hwait,
          fun _ => hxn, onlyTouches_trans (onlyTouches_mono hin (by simp))
            (onlyTouches_mono (onlyTouches_withSide n .dead x) (by simp))⟩
  · have hlive := sided (sideOf_live.mpr hv) hne rfl
    rw [State.sideReport_live] at hlive
    obtain ⟨y, hy⟩ : ∃ y, y = (x.withSide n .live).stopDeadCount n := ⟨_, rfl⟩
    rw [← hy] at hlive
    have hwn : (x.withSide n .live).berth n = s.berth n := hxn
    have hyn : y.berth n = if (s.berth n).state = .deadWait then { s.berth n with deadCount := .stopped } else s.berth n := by
      rw [hy, State.stopDeadCount_berth, hwn]
    have hyp : y.pru = (x.withSide n .live).pru := by rw [hy]; simp
    have hycs : y.cs = s.cs := by rw [hy, hx]; simp
    have hyin : y.inputs = x.inputs := by rw [hy]; simp
    have hside : (y.ship n).side = .live := by
      unfold State.ship
      rw [hyp]
      exact congrArg ShipPhase.side (by simpa using State.ship_withSide n n .live x)
    have hab : (y.abortDead n).berth n = y.berth n := by simp [State.berth]
    refine ⟨_, hlive, ?_, reported (by simp [hyin]), fun hw => ?_, fun hw => ?_, fun hq => ?_, fun c hc hn hm => ?_, ?_⟩
    · rw [← hside]
      simp [State.ship]
    · rw [hab, hyn, if_pos hw]
    · rw [hab, hyn, if_neg hw]
    · rw [State.abortDead_quiet (by rw [hycs]; exact hq), hycs]
    · have hans := State.abortDead_answers (s := y) (n := n) (c := c) (by rw [hycs]; exact hc) hn hm hside
      have hfault : y.inputs.instrumentFault = s.inputs.instrumentFault := by rw [hyin, hx]; rfl
      unfold State.check at hans ⊢
      rwa [hfault, hycs] at hans
    · refine onlyTouches_trans (onlyTouches_mono hin (by simp)) (onlyTouches_trans
        (onlyTouches_mono (onlyTouches_withSide n .live x) (by simp)) (onlyTouches_trans (t := y)
          (onlyTouches_mono (hy ▸ onlyTouches_stopDeadCount n _) (by simp)) (onlyTouches_mono (onlyTouches_abortDead n y) (by simp))))
  · have hbet := sided (sideOf_between hv hv') hne rfl
    rw [State.sideReport_between] at hbet
    have hwn : (x.withSide n .between).berth n = s.berth n := hxn
    refine ⟨_, hbet, ?_, reported (by simp), fun hw => ?_, fun hw => ?_, ?_⟩
    · unfold State.ship
      rw [(State.fields_stopDeadCount n _).2.1]
      exact congrArg ShipPhase.side (by simpa using State.ship_withSide n n .between x)
    · rw [State.stopDeadCount_berth, hwn, if_pos hw]
    · rw [State.stopDeadCount_berth, hwn, if_neg hw]
    · exact onlyTouches_trans (onlyTouches_mono hin (by simp)) (onlyTouches_trans
        (onlyTouches_mono (onlyTouches_withSide n .between x) (by simp))
        (onlyTouches_mono (onlyTouches_stopDeadCount n _) (by simp)))
  · exact ⟨x, report (by rw [State.shipVoltage_quiet (.inr hs), hx]), reported rfl, hin⟩

end Sys2Proof.Machine

namespace Sys2Proof.Machine

/-! ### Measurements of a sync window -/

/-- The measurements taken in, before the ship-side voltage (R47). -/
def State.measured (n : Ix) (m : Measurement) (busAFrequency : Nat) (s : State) : State :=
  ((s.modInputs fun i => { i with busAFrequency }).modOutlet n fun o =>
    { o with shipFrequency := m.shipFrequency, phase := m.phase, busVoltage := m.busVoltage }).modShip n fun p =>
    { p with difference := 10 * m.phase }

theorem State.measure_eq (n : Ix) (m : Measurement) (f : Nat) (s : State) :
    s.measure n m f = (s.measured n m f).shipVoltage n m.shipVoltage := rfl

theorem onlyTouches_measured (n : Ix) (m : Measurement) (f : Nat) (s : State) :
    OnlyTouches [.inputs, .reference] s (s.measured n m f) := by
  apply onlyTouches_of_fields <;> simp +contextual [State.measured]

theorem State.ship_measured (n k : Ix) (m : Measurement) (f : Nat) (s : State) : (s.measured n m f).ship k =
    if k = n then { s.ship n with difference := 10 * m.phase } else s.ship k := by
  simp [measured, ship, Six.get_set, eq_comm]

theorem State.outlet_measured (n : Ix) (m : Measurement) (f : Nat) (s : State) : (s.measured n m f).outlet n =
    { s.outlet n with shipFrequency := m.shipFrequency, phase := m.phase, busVoltage := m.busVoltage } := by
  simp [measured, outlet]

theorem absDiff_le {a b k : Nat} : absDiff a b ≤ k ↔ a ≤ b + k ∧ b ≤ a + k := by
  unfold absDiff
  omega

/-- What a SYNCING berth does next as its window is met or ceases to be (R48). -/
theorem State.berthNext_syncing {s : State} {n : Ix} (hst : (s.berth n).state = .syncing) :
    ((s.ship n).window = .outside → s.windowMet n = true → s.berthNext n = some (s.setWindow n .settling (some s.settleTime))) ∧
    ((s.ship n).window ∈ [.settling, .held] → s.windowMet n = false → s.berthNext n = some (s.setWindow n .outside none)) := by
  have hlost : s.busLost n = false := by simp [busLost, isLive, hst, BerthState.isLive]
  have hdue : s.selectorDue n = false := by simp [selectorDue, hst]
  refine ⟨fun hw hm => ?_, fun hw hm => ?_⟩
  · simp [berthNext, hlost, hdue, windowEntered, hw, hm]
  · have hleft : s.windowLeft n = true := by
      simp only [List.mem_cons, List.not_mem_nil, or_false] at hw
      rcases hw with hw | hw <;> simp [windowLeft, hw, hm]
    simp [berthNext, hlost, hdue, windowEntered, hm, hleft]

/-- The window of a berth by its bus (R47). -/
theorem State.windowMet_iff {t : State} {n : Ix} {m : Measurement} {f : Nat} {met : Prop}
    (ho : t.outlet n = { t.outlet n with
      shipVoltage := m.shipVoltage, shipFrequency := m.shipFrequency, phase := m.phase, busVoltage := m.busVoltage })
    (hd : (t.ship n).difference = 10 * m.phase)
    (hmet : met ↔ (t.ship n).side = .live ∧ m.shipFrequency ≤ f + t.frequencyLimit ∧ f ≤ m.shipFrequency + t.frequencyLimit ∧
      m.shipVoltage ≤ m.busVoltage + t.voltageLimit ∧ m.busVoltage ≤ m.shipVoltage + t.voltageLimit ∧
      -(t.phaseLimit : Int) ≤ m.phase ∧ m.phase ≤ t.phaseLimit) :
    ((t.berth n).bus = .a → f = t.inputs.busAFrequency → (t.windowMet n = true ↔ t.pru.busAPresent = true ∧ met)) ∧
    ((t.berth n).bus = .b → f = t.pru.frequency → (t.windowMet n = true ↔ (∃ k, (t.converter k).state = .online) ∧ met)) ∧
    ((t.berth n).bus = .none → t.windowMet n = false) := by
  have hphase : (10 * m.phase).natAbs ≤ 10 * t.phaseLimit ↔ -(t.phaseLimit : Int) ≤ m.phase ∧ m.phase ≤ t.phaseLimit := by
    omega
  have honline : 0 < t.online ↔ ∃ k, (t.converter k).state = .online := by
    unfold online
    rw [countSix_pos]
    simp
  have h1 : (t.outlet n).shipVoltage = m.shipVoltage := by rw [ho]
  have h2 : (t.outlet n).shipFrequency = m.shipFrequency := by rw [ho]
  have h3 : (t.outlet n).busVoltage = m.busVoltage := by rw [ho]
  refine ⟨fun hb hf => ?_, fun hb hf => ?_, fun hb => ?_⟩
  · unfold windowMet
    simp only [hb, h1, h2, h3, hd, Bool.and_eq_true, decide_eq_true_eq, absDiff_le, hphase, hmet, hf]
    tauto
  · unfold windowMet
    simp only [hb, h1, h2, h3, hd, Bool.and_eq_true, decide_eq_true_eq, absDiff_le, hphase, hmet, hf, honline]
    tauto
  · simp [windowMet, hb]

/-- WINDOW_MET_CHANGE whose voltage crosses no threshold (R35, R47, R48). -/
theorem windowMetChange_quiet {s : State} {n : Ix} {m : Measurement} {busAFrequency : Nat} (h : s.powered = true)
    (hq : (s.berth n).plug = .absent ∨ sideOf m.shipVoltage = (s.ship n).side) :
    ∃ t : State, exec (.windowMetChange n m busAFrequency) s = .next t.settle ∧ t.inputs.busAFrequency = busAFrequency ∧
      t.outlet n = { s.outlet n with
        shipVoltage := m.shipVoltage, shipFrequency := m.shipFrequency, phase := m.phase, busVoltage := m.busVoltage } ∧
      t.ship n = { s.ship n with difference := 10 * m.phase } ∧ (∀ k, k ≠ n → t.ship k = s.ship k) ∧
      t.pru = { s.pru with ships := t.pru.ships } ∧
      OnlyTouches [.inputs, .reference] s t ∧
      ((s.berth n).state = .syncing → (s.berth n).moving = false → (s.ship n).window = .outside →
        t.windowMet n = true → t.berthNext n = some (t.setWindow n .settling (some s.settleTime))) ∧
      ((s.berth n).state = .syncing → (s.berth n).moving = false → (s.ship n).window ∈ [.settling, .held] →
        t.windowMet n = false → t.berthNext n = some (t.setWindow n .outside none)) ∧
      (∀ f met, (met ↔ (s.ship n).side = .live ∧
          m.shipFrequency ≤ f + s.frequencyLimit ∧ f ≤ m.shipFrequency + s.frequencyLimit ∧
          m.shipVoltage ≤ m.busVoltage + s.voltageLimit ∧ m.busVoltage ≤ m.shipVoltage + s.voltageLimit ∧
          -(s.phaseLimit : Int) ≤ m.phase ∧ m.phase ≤ s.phaseLimit) →
        ((s.berth n).bus = .a → f = busAFrequency → (t.windowMet n = true ↔ s.pru.busAPresent = true ∧ met)) ∧
        ((s.berth n).bus = .b → f = s.pru.frequency → (t.windowMet n = true ↔
          (∃ k, (s.converter k).state = .online) ∧ met)) ∧
        ((s.berth n).bus = .none → t.windowMet n = false)) := by
  obtain ⟨u, hu⟩ : ∃ u, u = s.measured n m busAFrequency := ⟨_, rfl⟩
  obtain ⟨t, ht⟩ : ∃ t, t = u.modOutlet n fun o => { o with shipVoltage := m.shipVoltage } := ⟨_, rfl⟩
  have hmeas : s.measure n m busAFrequency = t := by
    rw [State.measure_eq, ht, hu]
    refine State.shipVoltage_quiet (hq.imp id fun hs => ?_)
    rw [State.ship_measured, if_pos rfl]
    exact hs
  have hexec : exec (.windowMetChange n m busAFrequency) s = .next t.settle :=
    event_next_eq (f := State.measure n m busAFrequency) h hmeas
  have hout : t.outlet n = { s.outlet n with
      shipVoltage := m.shipVoltage, shipFrequency := m.shipFrequency, phase := m.phase, busVoltage := m.busVoltage } := by
    rw [ht, State.outlet_modOutlet, if_pos rfl, hu, State.outlet_measured]
  have hship : ∀ k, t.ship k = if k = n then { s.ship n with difference := 10 * m.phase } else s.ship k := fun k => by
    rw [← State.ship_measured, ← hu, ht]
    rfl
  have hshipn : t.ship n = { s.ship n with difference := 10 * m.phase } := by rw [hship, if_pos rfl]
  have hbn : t.berth n = s.berth n := by rw [ht, hu]; rfl
  have hframe : OnlyTouches [.inputs, .reference] s t := onlyTouches_trans (hu ▸ onlyTouches_measured n m busAFrequency s)
    (onlyTouches_mono (ht ▸ onlyTouches_modOutlet u n _) (by simp))
  have htab : t.table = s.table := by rw [ht, hu]; rfl
  have hfreq : t.inputs.busAFrequency = busAFrequency := by rw [ht, hu]; rfl
  have hpru : t.pru = { s.pru with ships := t.pru.ships } := by rw [ht, hu]; rfl
  have hcp : t.cp = s.cp := by rw [ht, hu]; rfl
  have hsettle : t.settleTime = s.settleTime := by unfold State.settleTime State.param; rw [htab]
  refine ⟨t, hexec, hfreq, hout, hshipn, fun k hk => by rw [hship, if_neg hk], hpru, hframe, fun hst _ hw hm => ?_,
    fun hst _ hw hm => ?_, fun f met hmet => ?_⟩
  · have := (State.berthNext_syncing (s := t) (n := n) (by rw [hbn]; exact hst)).1 (by rw [hshipn]; exact hw) hm
    rwa [hsettle] at this
  · exact (State.berthNext_syncing (s := t) (n := n) (by rw [hbn]; exact hst)).2 (by rw [hshipn]; exact hw) hm
  · have hwin := State.windowMet_iff (t := t) (n := n) (m := m) (f := f) (met := met) (by rw [hout]) (by rw [hshipn]) (by
      rw [hmet, hshipn]
      unfold State.frequencyLimit State.voltageLimit State.phaseLimit State.param
      rw [htab])
    rw [hbn, hfreq, hpru] at hwin
    unfold State.converter at hwin ⊢
    rwa [hcp] at hwin

/-- WINDOW_MET_CHANGE is its measurements and then a ship-side report (R35). -/
theorem windowMetChange_reports {s : State} {n : Ix} {m : Measurement} {busAFrequency : Nat} (h : s.powered = true) :
    ∃ u : State, exec (.windowMetChange n m busAFrequency) s = exec (.shipSideReport n m.shipVoltage) u ∧
      u.outlet n = { s.outlet n with shipFrequency := m.shipFrequency, phase := m.phase, busVoltage := m.busVoltage } ∧
      u.ship n = { s.ship n with difference := 10 * m.phase } ∧ u.inputs.busAFrequency = busAFrequency ∧
      OnlyTouches [.inputs, .reference] s u := by
  refine ⟨s.measured n m busAFrequency, ?_, State.outlet_measured n m _ s, ?_, rfl, onlyTouches_measured n m _ s⟩
  · have hu : (s.measured n m busAFrequency).powered = true := h
    have h1 : exec (.windowMetChange n m busAFrequency) s = _ := event_next (f := State.measure n m busAFrequency) h
    have h2 : exec (.shipSideReport n m.shipVoltage) (s.measured n m busAFrequency) = _ :=
      event_next (f := State.shipVoltage n m.shipVoltage) hu
    rw [h1, h2, State.measure_eq]
  · rw [State.ship_measured, if_pos rfl]

/-- Settles O53. -/
theorem shipSideActs : Obligations.ShipSideActs :=
  ⟨fun _ _ _ h hp => shipSide_answers h hp,
    fun _ _ _ _ h => ⟨fun hq => windowMetChange_quiet h hq, windowMetChange_reports h⟩⟩

end Sys2Proof.Machine

namespace Sys2Proof.Machine

/-! ### The plug comes (R24) -/

/-- PLUG_PRESENT before the choice of a check (R24, R35, R52, R56, R173). -/
def State.plugged (n : Ix) (voltage : Nat) (s : State) : State :=
  let t := (s.modOutlet n fun o => { o with plug := .present, shipVoltage := voltage }).modBerth n fun b =>
    { b with plug := .present, state := if b.state = .vacant then .plugged else b.state }
  let t := (t.openPort n).modShip n fun p => { p with side := sideOf voltage }
  let t := if (t.berth n).breaker = .opened then t.startPermitDeadTime n else t
  t.setUpCheck n

theorem State.plugIn_eq {n : Ix} {v : Nat} {s : State} (h : (s.berth n).plug = .absent) :
    s.plugIn n v = (s.plugged n v).chooseCheck := by
  simp [plugIn, plugged, h]

theorem State.berths_plugged (n : Ix) (v : Nat) (s : State) : (s.plugged n v).berths = s.berths.set n { s.berths.get n with
    plug := .present, state := if (s.berths.get n).state = .vacant then .plugged else (s.berths.get n).state
    permitDeadTime := if (s.berths.get n).breaker = .opened ∧ (s.berths.get n).permit = false then some s.deadTime
      else (s.berths.get n).permitDeadTime } := by
  unfold plugged
  simp only
  split
  · rename_i hb
    have hb' : (s.berths.get n).breaker = .opened := by simpa [berth, openPort] using hb
    simp [setUpCheck, openPort, hb']
    rfl
  · rename_i hb
    have hb' : (s.berths.get n).breaker ≠ .opened := by simpa [berth, openPort] using hb
    simp [setUpCheck, openPort, hb']
    rfl

theorem State.fields_plugged (n : Ix) (v : Nat) (s : State) :
    (s.plugged n v).powered = s.powered ∧ (s.plugged n v).now = s.now ∧ (s.plugged n v).table = s.table ∧
    (s.plugged n v).link = s.link.set (.v n) (State.freshPort true) ∧
    (s.plugged n v).oe = { s.oe with ports := s.oe.ports.set (.v n) { s.oe.ports.get (.v n) with
      queue := [], rolling := 0, timer := none } } ∧
    (s.plugged n v).pru.ships = s.pru.ships.set n { s.pru.ships.get n with side := sideOf v } ∧
    (s.plugged n v).cp = s.cp ∧ (s.plugged n v).gi = s.gi ∧ (s.plugged n v).ge = s.ge ∧
    (s.plugged n v).pending = s.pending ∧ (s.plugged n v).check n = State.freshCheck := by
  unfold plugged
  simp only
  split <;> simp [setUpCheck, openPort, check]

/-- A fresh record stays fresh or is taken into flight by the choice (R61). -/
theorem State.check_chooseCheck {n : Ix} {s : State} (h : s.check n = freshCheck) :
    s.chooseCheck.check n = freshCheck ∨ (s.chooseCheck.check n).status = .inFlight := by
  rcases s.chooseCheck_cases with e | ⟨-, m, o, e, -⟩ <;> rw [e]
  · exact .inl h
  · rw [check_startCheck]
    split
    · exact .inr rfl
    · exact .inl h

/-- PLUG_PRESENT (R24, R35, R52, R56, R173, R180). -/
theorem plugPresent_answers {s : State} {n : Ix} {voltage : Nat} (h : s.powered = true) (hp : (s.berth n).plug = .absent) :
    ∃ t : State, exec (.plugPresent n voltage) s = .next t.settle ∧
      t.berth n = { s.berth n with
        plug := .present, state := if (s.berth n).state = .vacant then .plugged else (s.berth n).state
        permitDeadTime := if (s.berth n).breaker = .opened ∧ (s.berth n).permit = false then some s.deadTime
          else (s.berth n).permitDeadTime } ∧
      t.port (.v n) = { isOpen := true, receive := .hunt, transmit := [], notices := State.freshNotices } ∧
      t.orders (.v n) = { queue := [], rolling := 0, accepted := (s.orders (.v n)).accepted, timer := none } ∧
      (t.ship n).side = (if voltage < 100 then .dead else if voltage < 800 then .between else .live) ∧
      (t.check n = State.freshCheck ∨ (t.check n).status = .inFlight) ∧
      OnlyTouches [.inputs, .link (.v n), .orders (.v n), .berth n, .reference, .scanner] s t := by
  obtain ⟨u, hu⟩ : ∃ u, u = s.plugged n voltage := ⟨_, rfl⟩
  have hexec : exec (.plugPresent n voltage) s = .next u.chooseCheck.settle :=
    event_next_eq (f := State.plugIn n voltage) h (by rw [State.plugIn_eq hp, hu])
  have hub := hu ▸ State.berths_plugged n voltage s
  obtain ⟨h1, h2, h3, hlink, hoe, hships, h4, h5, h6, h7, hcheck⟩ := hu ▸ State.fields_plugged n voltage s
  refine ⟨_, hexec, ?_, ?_, ?_, ?_, State.check_chooseCheck hcheck, ?_⟩
  · simp only [State.berth, State.fields_chooseCheck, hub, Six.get_set_same]
    rfl
  · simp [State.port, hlink]
  · simp [State.orders, hoe]
  · simp [State.ship, hships]
    rfl
  · apply onlyTouches_of_fields <;> simp +contextual [h1, h2, h3, hlink, hoe, hub, h4, h5, h6, h7]

end Sys2Proof.Machine

namespace Sys2Proof.Machine

/-! ### What the close of the start-up round leaves -/

theorem Notices.get_set_ne {c c' : NoticeClass} (x : Notices) (a : NoticeSlot) (h : c' ≠ c) : (x.set c a).get c' = x.get c' := by
  cases c <;> cases c' <;> first | rfl | exact absurd rfl h

/-- What HELD notices leave of a port: whether it is open, all of a closed one, and the other classes. -/
structure SameButHeld (s t : State) (p : Port) : Prop where
  isOpen : (t.link.get p).isOpen = (s.link.get p).isOpen
  closed : (s.link.get p).isOpen = false → t.link.get p = s.link.get p
  notices : ∀ c, c ≠ .held → (t.link.get p).notices.get c = (s.link.get p).notices.get c

theorem SameButHeld.of_link {s t : State} {p : Port} (h : t.link = s.link) : SameButHeld s t p := by
  refine ⟨by rw [h], fun _ => by rw [h], fun _ _ => by rw [h]⟩

theorem SameButHeld.notify {s t : State} {p : Port} (h : SameButHeld s t p) (q : Port) (b : Option Ix) (k v : Nat) :
    SameButHeld s (t.notify q .held b k v) p := by
  by_cases hq : p = q
  · subst hq
    have hl : (t.notify p .held b k v).link.get p =
        if (t.link.get p).isOpen then (t.link.get p).posted .held ⟨b, some k, v, t.ge.period⟩ else t.link.get p := by
      simp [State.notify, State.post]
    refine ⟨(State.isOpen_notify t p p .held b k v).trans h.isOpen, fun hc => ?_, fun c hc => ?_⟩
    · rw [hl, h.closed hc, hc]
      rfl
    · rw [hl]
      split
      · rw [LinkPort.posted]
        exact (Notices.get_set_ne _ _ hc).trans (h.notices c hc)
      · exact h.notices c hc
  · have hl := State.link_notify_ne t .held b k v hq
    exact ⟨by rw [hl, h.isOpen], fun hc => by rw [hl, h.closed hc], fun c hc => by rw [hl, h.notices c hc]⟩

theorem SameButHeld.trans {s t u : State} {p : Port} (h : SameButHeld s t p) (h' : SameButHeld t u p) : SameButHeld s u p :=
  ⟨h'.isOpen.trans h.isOpen, fun hc => (h'.closed (h.isOpen.trans hc)).trans (h.closed hc),
    fun c hc => (h'.notices c hc).trans (h.notices c hc)⟩

/-- What the berth that leaves the round, and a close of the round with it, may change: the round in the scanner, the running order
of port T and HELD with its notices (R69, R166). -/
structure RoundStep (s t : State) : Prop where
  powered : t.powered = s.powered
  now : t.now = s.now
  table : t.table = s.table
  berths : t.berths = s.berths
  pru : t.pru = s.pru
  cp : t.cp = s.cp
  gi : t.gi = s.gi
  ge : t.ge = s.ge
  pending : t.pending = s.pending
  scanner : t.cs.scanner = s.cs.scanner
  queue : t.cs.queue = s.cs.queue
  records : t.cs.records = s.cs.records
  roundList : t.cs.roundList = s.cs.roundList
  flags : t.oe.flags = s.oe.flags
  ended : KeepsEnded s t
  orders : ∀ p, p ≠ .t → t.orders p = s.orders p
  link : ∀ p, SameButHeld s t p

theorem RoundStep.refl (s : State) : RoundStep s s :=
  ⟨rfl, rfl, rfl, rfl, rfl, rfl, rfl, rfl, rfl, rfl, rfl, rfl, rfl, rfl, fun _ _ h _ => h, fun _ _ => rfl, fun _ => .of_link rfl⟩

theorem RoundStep.trans {s t u : State} (h : RoundStep s t) (h' : RoundStep t u) : RoundStep s u :=
  ⟨h'.powered.trans h.powered, h'.now.trans h.now, h'.table.trans h.table, h'.berths.trans h.berths, h'.pru.trans h.pru,
    h'.cp.trans h.cp, h'.gi.trans h.gi, h'.ge.trans h.ge, h'.pending.trans h.pending, h'.scanner.trans h.scanner,
    h'.queue.trans h.queue, h'.records.trans h.records, h'.roundList.trans h.roundList, h'.flags.trans h.flags,
    h.ended.trans h'.ended, fun p hp => (h'.orders p hp).trans (h.orders p hp), fun p => (h.link p).trans (h'.link p)⟩

theorem RoundStep.endRunning (s : State) : RoundStep s (s.endRunning .t .done .none) := by
  refine ⟨?_, ?_, ?_, ?_, ?_, ?_, ?_, ?_, ?_, ?_, ?_, ?_, ?_, ?_, State.keepsEnded_endRunning s _ _ _,
    fun p hp => State.orders_endRunning_ne _ _ hp, fun p => .of_link ?_⟩ <;> simp

theorem RoundStep.notify {s t : State} (h : RoundStep s t) (p : Port) : RoundStep s (t.notify p .held none 1 0) := by
  refine h.trans ⟨?_, ?_, ?_, ?_, ?_, ?_, ?_, ?_, ?_, ?_, ?_, ?_, ?_, ?_, State.keepsEnded_of_ports (by simp), fun p hp => ?_,
    fun q => (SameButHeld.of_link rfl).notify p none 1 0⟩
  case refine_15 => simp [State.orders]
  all_goals simp

theorem RoundStep.releasePart (s : State) : RoundStep s s.releasePart := by
  have hheld : RoundStep s (s.modOe fun oe => { oe with held := false }) :=
    ⟨rfl, rfl, rfl, rfl, rfl, rfl, rfl, rfl, rfl, rfl, rfl, rfl, rfl, rfl, State.keepsEnded_of_ports rfl, fun _ _ => rfl,
      fun _ => .of_link rfl⟩
  exact keep_forEach (P := RoundStep s) (fun p _ ht => ht.notify p) _ hheld

/-- A close of the round (R69, R166). -/
theorem RoundStep.closeRound (s : State) : RoundStep s s.closeRound := by
  have hclosed : RoundStep s (s.modCs fun u => { u with roundClosed := true }) :=
    ⟨rfl, rfl, rfl, rfl, rfl, rfl, rfl, rfl, rfl, rfl, rfl, rfl, rfl, rfl, fun _ _ h _ => h, fun _ _ => rfl, fun _ => .of_link rfl⟩
  unfold State.closeRound
  simp only
  split
  · exact (hclosed.trans (.endRunning _)).trans (.releasePart _)
  · exact hclosed

/-- A berth leaves the round list, and the round may close (R69). -/
theorem State.leaveRound_step (n : Ix) (s : State) :
    RoundStep (s.modCs fun u => { u with roundList := u.roundList.filter fun x => decide (x ≠ n) }) (s.leaveRound n) := by
  unfold leaveRound
  simp only
  split
  · exact .closeRound _
  · exact .refl _

end Sys2Proof.Machine

namespace Sys2Proof.Machine

/-! ### The plug goes (R25) -/

/-- PLUG_ABSENT before what it does to the berth (R25, R35, R149). -/
def State.unplugged (n : Ix) (s : State) : State :=
  (((s.modOutlet n fun o => { o with plug := .absent }).modBerth n fun b => { b with plug := .absent }).closePort n).withSide n
    .between

/-- What follows the effect on the berth: the permit, the check record and the round (R51, R66, R69). -/
def State.lossEnd (n : Ix) (s : State) : State := ((s.withdrawPermit n).clearCheck n).leaveRound n

theorem State.plugOut_eq {n : Ix} {s : State} (h : (s.berth n).plug = .present) :
    s.plugOut n = ((s.unplugged n).loseBerth n).lossEnd n := by
  simp only [plugOut, h]
  rfl

/-- A port whose queue is empty keeps it so, with its rolling count (R149). -/
def PortEmpty (p : Port) (k : Nat) (s : State) : Prop := (s.orders p).queue = [] ∧ (s.orders p).rolling = k

theorem PortEmpty.of_orders {p : Port} {k : Nat} {s t : State} (h : PortEmpty p k s) (ho : t.orders p = s.orders p) :
    PortEmpty p k t := by
  unfold PortEmpty
  rwa [ho]

theorem PortEmpty.of_ports {p : Port} {k : Nat} {s t : State} (h : PortEmpty p k s) (ho : t.oe.ports = s.oe.ports) :
    PortEmpty p k t := h.of_orders (by unfold State.orders; rw [ho])

theorem PortEmpty.endOrder {p : Port} {k : Nat} {s : State} (h : PortEmpty p k s) (r : OrderRef) (st : Status) :
    PortEmpty p k (s.endOrder r st) := by
  by_cases hp : p = r.port
  · subst hp
    obtain ⟨hq, hr⟩ := h
    exact ⟨by simp [State.endOrder, State.orders, modChain] at hq ⊢; exact hq, by simpa [State.endOrder, State.orders] using hr⟩
  · exact h.of_orders (by simp [State.endOrder, State.orders, hp])

theorem PortEmpty.endRunning {p q : Port} {k : Nat} {s : State} (h : PortEmpty p k s) (v : Verdict) (c : Code) :
    PortEmpty p k (s.endRunning q v c) := by
  unfold State.endRunning
  split
  · exact h
  · exact h.endOrder _ _

theorem PortEmpty.flagEvent {p : Port} {k : Nat} {s : State} (h : PortEmpty p k s) (n : Ix) (b : Bool) :
    PortEmpty p k (s.flagEvent n b) := by
  have h' : PortEmpty p k (s.setFlag n b (s.flag n b).after) := h.of_ports (by simp)
  unfold State.flagEvent
  simp only
  split
  · exact h'.endRunning _ _
  · exact h'
  · exact h'

theorem PortEmpty.postSource {p : Port} {k : Nat} {s : State} (h : PortEmpty p k s) (n : Ix) (src : FlagSource) :
    PortEmpty p k (s.postSource n src) := by
  unfold State.postSource
  simp only
  split <;> split
  · exact (h.flagEvent n false).flagEvent n true
  · exact h.flagEvent n false
  · exact h.flagEvent n true
  · exact h

theorem PortEmpty.endConsenting {p : Port} {k : Nat} {s : State} (h : PortEmpty p k s) (n : Ix) (v : Verdict) (c : Code) (d : Nat) :
    PortEmpty p k (s.endConsenting n v c d) := by
  unfold State.endConsenting
  split
  · exact h
  · exact (h.endOrder _ _).of_ports rfl

/-- A notice leaves a closed port as it is (R176, R179). -/
theorem State.link_notify_closed {s : State} {q : Port} (p : Port) (c : NoticeClass) (b : Option Ix) (k v : Nat)
    (h : (s.link.get q).isOpen = false) : (s.notify p c b k v).link.get q = s.link.get q := by
  by_cases hq : q = p
  · subst hq
    simp [notify, post, h]
  · exact link_notify_ne s c b k v hq

theorem State.link_notifyBoth_closed {s : State} {q : Port} (n : Ix) (c : NoticeClass) (k v : Nat)
    (h : (s.link.get q).isOpen = false) : (s.notifyBoth n c k v).link.get q = s.link.get q := by
  have h1 := s.link_notify_closed .t c (some n) k v h
  unfold notifyBoth
  rw [link_notify_closed _ _ _ _ _ (by rw [h1]; exact h), h1]

namespace State

@[simp] theorem side_leaveOpen (n m : Ix) (f : Breaker) (s : State) : ((s.leaveOpen n f).ship m).side = (s.ship m).side := by
  unfold leaveOpen
  rw [side_followBusB]
  simp [ship]

@[simp] theorem side_commandOpen (n m : Ix) (s : State) : ((s.commandOpen n).ship m).side = (s.ship m).side := by
  unfold commandOpen
  split
  · rfl
  · split
    · rfl
    · rw [side_leaveOpen]; rfl
  all_goals rw [side_leaveOpen]; rfl

theorem side_of_pru {s t : State} (h : t.pru = s.pru) (m : Ix) : (t.ship m).side = (s.ship m).side := by
  unfold ship
  rw [h]

theorem side_withdrawPermit (n m : Ix) (s : State) : ((s.withdrawPermit n).ship m).side = (s.ship m).side := rfl

theorem side_departLive (n m : Ix) (s : State) : ((s.departLive n).ship m).side = (s.ship m).side :=
  side_of_pru (by simp) m

@[simp] theorem side_tripTo (n m : Ix) (c : TripCause) (v : Nat) (d : BerthState) (p : Option Purpose) (s : State) :
    ((s.tripTo n c v d p).ship m).side = (s.ship m).side := by
  have hb : ((s.tripBefore n c d p).ship m).side = (s.ship m).side := by
    unfold tripBefore
    simp only
    split
    · rw [side_departLive, side_withdrawPermit, side_leaveSyncing]
      rfl
    · rw [side_departLive, side_withdrawPermit, side_leaveSyncing, side_commandOpen]
      rfl
  rw [tripTo_eq, ← hb]
  exact side_of_pru (by simp) m

@[simp] theorem side_abandon (n m : Ix) (d : BerthState) (s : State) : ((s.abandon n d).ship m).side = (s.ship m).side := by
  unfold abandon
  rw [side_of_pru (fields_endAdmission _ n).2.2.2.2.2.2.2.1, side_leaveSyncing]
  rfl

end State

/-- What the loss of the plug does to the berth, told of the parts that every state of the berth leaves alike. -/
structure LossStep (n : Ix) (s t : State) : Prop where
  powered : t.powered = s.powered
  now : t.now = s.now
  table : t.table = s.table
  cp : t.cp = s.cp
  gi : t.gi = s.gi
  pending : t.pending = s.pending
  plug : (t.berth n).plug = (s.berth n).plug
  others : ∀ m, m ≠ n → t.berth m = s.berth m
  side : (t.ship n).side = (s.ship n).side
  link : (s.link.get (.v n)).isOpen = false → t.link.get (.v n) = s.link.get (.v n)
  empty : ∀ k, PortEmpty (.v n) k s → PortEmpty (.v n) k t

theorem LossStep.refl (n : Ix) (s : State) : LossStep n s s :=
  ⟨rfl, rfl, rfl, rfl, rfl, rfl, rfl, fun _ _ => rfl, rfl, fun _ => rfl, fun _ h => h⟩

theorem LossStep.trans {n : Ix} {s t u : State} (h : LossStep n s t) (h' : LossStep n t u) : LossStep n s u :=
  ⟨h'.powered.trans h.powered, h'.now.trans h.now, h'.table.trans h.table, h'.cp.trans h.cp, h'.gi.trans h.gi,
    h'.pending.trans h.pending, h'.plug.trans h.plug, fun m hm => (h'.others m hm).trans (h.others m hm), h'.side.trans h.side,
    fun hc => (h'.link (by rw [h.link hc]; exact hc)).trans (h.link hc), fun k hk => h'.empty k (h.empty k hk)⟩

theorem State.plug_commandOpen (n : Ix) (s : State) : ((s.commandOpen n).berths.get n).plug = (s.berths.get n).plug := by
  obtain ⟨br, limit, dead, hb⟩ := s.commandOpen_berths n
  rw [hb, Six.get_set_same]

theorem State.plug_tripTo (n : Ix) (c : TripCause) (v : Nat) (d : BerthState) (p : Option Purpose) (s : State) :
    ((s.tripTo n c v d p).berth n).plug = (s.berth n).plug := by
  rw [tripTo_eq]
  unfold tripBefore
  simp only
  split <;> simp [berth, withdrawPermit, Berth.stopTimers, plug_commandOpen]

theorem LossStep.tripTo (n : Ix) (c : TripCause) (v : Nat) (d : BerthState) (p : Option Purpose) (s : State) :
    LossStep n s (s.tripTo n c v d p) := by
  refine ⟨?_, ?_, ?_, ?_, ?_, ?_, State.plug_tripTo _ _ _ _ _ _, fun m hm => State.berths_tripTo_ne s c v d p hm,
    State.side_tripTo _ _ _ _ _ _ _, fun hc => ?_, fun k hk => ?_⟩
  case refine_7 =>
    have hl : ((s.tripBefore n c d p).failConsenting n c.reason).link = s.link := by
      unfold State.tripBefore
      simp only
      split <;> simp [State.withdrawPermit]
    rw [State.tripTo_eq, (State.fields_postSource _ n .tripped).2.2.2.2.1,
      State.link_notifyBoth_closed _ _ _ _ (by rw [hl]; exact hc), hl]
  case refine_8 =>
    rw [State.tripTo_eq]
    have hk' : PortEmpty (.v n) k (s.tripBefore n c d p) := hk.of_ports (by simp)
    exact ((hk'.endConsenting n .failed c.reason 0).of_ports (by simp [State.failConsenting])).postSource n .tripped
  all_goals simp

theorem LossStep.trip (n : Ix) (c : TripCause) (s : State) : LossStep n s (s.trip n c) := by
  unfold State.trip
  split
  · exact .refl _ _
  · exact .tripTo _ _ _ _ _ _
  · exact .tripTo _ _ _ _ _ _

theorem LossStep.clearParts (n : Ix) (s : State) : LossStep n s (s.clearParts n) := by
  refine ⟨?_, ?_, ?_, ?_, ?_, ?_, ?_, fun m hm => ?_, State.side_of_pru (by simp) n, fun _ => ?_, fun k hk => hk.of_ports ?_⟩
  case refine_8 => simp [State.berth, hm]
  all_goals simp [State.berth]

theorem LossStep.enterVacant (n : Ix) (s : State) : LossStep n s (s.enterVacant n) := by
  refine ⟨?_, ?_, ?_, ?_, ?_, ?_, ?_, fun m hm => ?_, State.side_of_pru (by simp) n, fun _ => ?_, fun k hk => hk.of_ports ?_⟩
  case refine_8 => simp [State.berth, State.berths_enterVacant, hm]
  all_goals simp [State.berth, State.berths_enterVacant]

theorem LossStep.failWaiting (n : Ix) (c : Code) (d : BerthState) (s : State) : LossStep n s (s.failWaiting n c d) := by
  refine ⟨?_, ?_, ?_, ?_, ?_, ?_, ?_, fun m hm => ?_, ?_, fun _ => ?_, fun k hk => ?_⟩
  case refine_8 => simp [State.berth, hm]
  case refine_9 =>
    unfold State.failWaiting
    rw [State.side_abandon]
    exact State.side_of_pru (by simp) n
  case refine_11 => exact (hk.endConsenting n .failed c 0).of_ports (by simp [State.failConsenting])
  all_goals simp [State.berth, Berth.stopTimers]

/-- The loss of the plug in every state of the berth (R25). -/
theorem LossStep.loseBerth (n : Ix) (s : State) : LossStep n s (s.loseBerth n) := by
  unfold State.loseBerth
  split
  all_goals first
    | exact .trip n .pilotLost s
    | exact (LossStep.failWaiting n .pilotLost .vacant s).trans (.enterVacant n _)
    | exact .enterVacant n s
    | exact .clearParts n s
    | exact .refl n s

end Sys2Proof.Machine

namespace Sys2Proof.Machine

/-- What is left behind the effect on the berth (R51, R66, R69). -/
structure LossEnded (n : Ix) (s t : State) : Prop where
  powered : t.powered = s.powered
  now : t.now = s.now
  table : t.table = s.table
  berths : t.berths = s.berths.set n { s.berths.get n with permit := false, permitDeadTime := none }
  pru : t.pru = s.pru
  cp : t.cp = s.cp
  gi : t.gi = s.gi
  ge : t.ge = s.ge
  pending : t.pending = s.pending
  check : t.check n = State.freshCheck
  queue : n ∉ t.cs.queue
  roundList : n ∉ t.cs.roundList
  flags : t.oe.flags = s.oe.flags
  ended : KeepsEnded s t
  orders : ∀ p, p ≠ .t → t.orders p = s.orders p
  link : ∀ p, SameButHeld s t p

theorem State.lossEnded (n : Ix) {s : State} (hp : (s.berth n).plug = .absent) : LossEnded n s (s.lossEnd n) := by
  obtain ⟨z, hz⟩ : ∃ z, z = (s.withdrawPermit n).clearCheck n := ⟨_, rfl⟩
  obtain ⟨y, hy⟩ : ∃ y, y = z.modCs fun u => { u with roundList := u.roundList.filter fun x => decide (x ≠ n) } := ⟨_, rfl⟩
  have hclear : ScannerCleared n z := hz ▸ scannerCleared_clearCheck n _
  have hzf : OnlyCs (s.withdrawPermit n) z := hz ▸ fields_clearCheck _ n
  obtain ⟨h1, h2, h3, -, h5, h6, h7, h8, h9, h10, h11, h12⟩ := hzf
  have hzb : z.berths = s.berths.set n { s.berths.get n with permit := false, permitDeadTime := none } := by
    rw [h7]; simp [withdrawPermit]
  obtain ⟨hq, hfresh, -⟩ := hclear.of_absent (by simpa [berth, hzb] using hp)
  have ht : RoundStep y (s.lossEnd n) := by
    rw [hy, hz]
    exact leaveRound_step n _
  have hyz : y.oe = z.oe ∧ y.link = z.link := by rw [hy]; exact ⟨rfl, rfl⟩
  have hyo : y.oe = s.oe := hyz.1.trans h6
  have hyl : y.link = s.link := hyz.2.trans h5
  refine ⟨ht.powered.trans ?_, ht.now.trans ?_, ht.table.trans ?_, ht.berths.trans ?_, ht.pru.trans ?_, ht.cp.trans ?_,
    ht.gi.trans ?_, ht.ge.trans ?_, ht.pending.trans ?_, ?_, ?_, ?_, ht.flags.trans (by rw [hyo]),
    (keepsEnded_of_ports (by rw [hyo])).trans ht.ended, fun p hp => (ht.orders p hp).trans (by unfold orders; rw [hyo]),
    fun p => (SameButHeld.of_link hyl).trans (ht.link p)⟩
  case refine_10 =>
    unfold check
    rw [ht.records, hy]
    exact hfresh
  case refine_11 =>
    rw [ht.queue, hy]
    exact hq
  case refine_12 =>
    rw [ht.roundList, hy]
    simp
  case refine_4 => rw [hy]; exact hzb
  all_goals rw [hy]
  · exact h1
  · exact h2
  · exact h3
  · exact h8
  · exact h9
  · exact h10
  · exact h11
  · exact h12

@[simp] theorem State.fields_closePort (n : Ix) (s : State) :
    (s.closePort n).powered = s.powered ∧ (s.closePort n).now = s.now ∧ (s.closePort n).table = s.table ∧
    (s.closePort n).inputs = s.inputs ∧ (s.closePort n).berths = s.berths ∧ (s.closePort n).pru = s.pru ∧
    (s.closePort n).cs = s.cs ∧ (s.closePort n).cp = s.cp ∧ (s.closePort n).gi = s.gi ∧ (s.closePort n).ge = s.ge ∧
    (s.closePort n).pending = s.pending ∧
    (s.closePort n).link = s.link.set (.v n) { s.link.get (.v n) with isOpen := false, receive := .hunt, transmit := [] } ∧
    (s.closePort n).oe.ports = s.oe.ports.set (.v n) { s.oe.ports.get (.v n) with queue := [], timer := none } := by
  simp [closePort]

/-- The waiters of port Vn leave the flags (R149, R152). -/
theorem State.flag_closePort (n m : Ix) (b : Bool) (s : State) : (s.closePort n).flag m b = { s.flag m b with
    waiters := (s.flag m b).waiters.filter fun w => decide (w.port ≠ .v n) } := by
  cases b <;> simp [closePort, dropWaiter, flag, FlagPair.both, FlagPair.get, SyncFlag.dropWaiter]

/-- What the loss of the plug leaves before it acts on the berth (R25, R35, R149). -/
theorem State.fields_unplugged (n : Ix) (s : State) :
    (s.unplugged n).powered = s.powered ∧ (s.unplugged n).now = s.now ∧ (s.unplugged n).table = s.table ∧
    (s.unplugged n).berths = s.berths.set n { s.berths.get n with plug := .absent } ∧ (s.unplugged n).cp = s.cp ∧
    (s.unplugged n).gi = s.gi ∧ (s.unplugged n).ge = s.ge ∧ (s.unplugged n).pending = s.pending ∧
    (s.unplugged n).link = (s.closePort n).link ∧ (s.unplugged n).oe = (s.closePort n).oe ∧
    ((s.unplugged n).ship n).side = .between := by
  refine ⟨rfl, rfl, rfl, by simp [unplugged], rfl, rfl, rfl, rfl, rfl, rfl, ?_⟩
  simp [unplugged, ship_withSide]

theorem portEmpty_closePort {n : Ix} {s : State} {k : Nat} (hk : k = (s.orders (.v n)).rolling) :
    PortEmpty (.v n) k (s.closePort n) := by
  subst hk
  exact ⟨by simp [State.orders], by simp [State.orders]⟩

theorem Noticed.afterRound {s y t : State} {p : Port} {c : NoticeClass} {n : Option Ix} {k v : Nat} (h : Noticed s y p c n k v)
    (ht : SameButHeld y t p) (hc : c ≠ .held) : Noticed s t p c n k v := fun hopen => by
  unfold State.port at hopen
  rw [ht.isOpen] at hopen
  exact (ht.notices c hc).trans (h hopen)

/-- Facts of a PLUG_ABSENT that hold whatever state the berth is in (R25, R35, R51, R66, R69, R149). -/
theorem plugAbsent_common {s y t : State} {n : Ix} (hy : LossStep n (s.unplugged n) y) (ht : LossEnded n y t) :
    (t.berth n).plug = .absent ∧ (t.berth n).permit = false ∧ (t.berth n).permitDeadTime = none ∧
    (t.port (.v n)).isOpen = false ∧ (t.port (.v n)).transmit = [] ∧
    (t.orders (.v n)).queue = [] ∧ (t.orders (.v n)).rolling = (s.orders (.v n)).rolling ∧
    (t.ship n).side = .between ∧ t.check n = State.freshCheck ∧ n ∉ t.cs.queue ∧ n ∉ t.cs.roundList ∧
    (∀ m, m ≠ n → t.berth m = s.berth m) ∧ Untouched [.power, .time, .waiting, .table, .pool, .grid] s t := by
  obtain ⟨h1, h2, h3, hb, h4, h5, -, h6, hlink, hoe, hside⟩ := s.fields_unplugged n
  have hport : (s.unplugged n).link.get (.v n) = { s.link.get (.v n) with isOpen := false, receive := .hunt, transmit := [] } := by
    rw [hlink]; simp
  have hclosed : ((s.unplugged n).link.get (.v n)).isOpen = false := by rw [hport]
  have hyp := hy.link hclosed
  have htp : t.port (.v n) = { s.link.get (.v n) with isOpen := false, receive := .hunt, transmit := [] } := by
    rw [State.port, (ht.link (.v n)).closed (by rw [hyp]; exact hclosed), hyp, hport]
  have hempty : PortEmpty (.v n) (s.orders (.v n)).rolling t :=
    (hy.empty _ ((portEmpty_closePort rfl).of_ports (by rw [hoe]))).of_orders (ht.orders _ (by simp))
  have htb : t.berth n = { y.berth n with permit := false, permitDeadTime := none } := by
    simp [State.berth, ht.berths]
  refine ⟨?_, by rw [htb], by rw [htb], by rw [htp], by rw [htp], hempty.1, hempty.2, ?_, ht.check, ht.queue, ht.roundList,
    fun m hm => ?_, ?_⟩
  · rw [htb]
    refine hy.plug.trans ?_
    simp [State.berth, hb]
  · exact (State.side_of_pru ht.pru n).trans (hy.side.trans hside)
  · have : t.berth m = y.berth m := by simp [State.berth, ht.berths, hm]
    rw [this, hy.others m hm]
    simp [State.berth, hb, hm]
  · simp only [untouched_cons, untouched_nil, Part.same, and_true]
    exact ⟨ht.powered.trans (hy.powered.trans h1), ht.now.trans (hy.now.trans h2), ht.pending.trans (hy.pending.trans h6),
      ht.table.trans (hy.table.trans h3), ht.cp.trans (hy.cp.trans h4), ht.gi.trans (hy.gi.trans h5)⟩

end Sys2Proof.Machine

namespace Sys2Proof.Machine

/-- What a trip by the loss of the plug leaves (R22, R25). -/
structure TrippedByLoss (s : State) (n : Ix) (why : TripCause) (d : BerthState) (p : Option Purpose) (t : State) : Prop where
  state : (t.berth n).state = d
  purpose : (t.berth n).purpose = p
  cause : (t.berth n).tripCause = some why
  breaker : (t.berth n).breaker = .openSent
  permit : (t.berth n).permit = false
  motionLimit : (t.berth n).motionLimit = if (s.berth n).breaker = .openSent then (s.berth n).motionLimit else some 300
  consenting : (t.berth n).consenting = none
  notAdmitted : t.isAdmitted n = false
  active : t.ge.active.recs.get n = State.noGrant
  staged : t.ge.staged.recs.get n = State.noGrant
  noticed : Noticed s t .t .trip (some n) why.index 0
  reached : SourceReached n .tripped (s.closePort n) t

theorem trippedByLoss {s t : State} {n : Ix} {why : TripCause} {d : BerthState} {p : Option Purpose}
    (hbr : (s.berth n).breaker ≠ .opened) (ht : LossEnded n ((s.unplugged n).tripTo n why 0 d p) t) :
    TrippedByLoss s n why d p t := by
  obtain ⟨x, hx⟩ : ∃ x, x = s.unplugged n := ⟨_, rfl⟩
  obtain ⟨-, hnow, htab, hxb, -, -, hge, -, hlink, hoe, -⟩ := s.fields_unplugged n
  rw [← hx] at ht hnow htab hxb hge hlink hoe
  have hxn : x.berths.get n = { s.berth n with plug := .absent } := by rw [hxb]; simp [State.berth]
  have hb : t.berth n = { (x.tripTo n why 0 d p).berths.get n with permit := false, permitDeadTime := none } := by
    simp [State.berth, ht.berths]
  rw [x.berths_tripTo why 0 d p (by rw [hxn]; exact hbr), hxn] at hb
  obtain ⟨hactive, hstaged⟩ := x.noGrant_tripTo n why 0 d p
  refine ⟨by simp [hb], by simp [hb], by simp [hb], by simp [hb], by simp [hb], by simp [hb], by simp [hb], ?_,
    by rw [ht.ge]; exact hactive, by rw [ht.ge]; exact hstaged, ?_, ?_⟩
  · have := x.isAdmitted_tripTo n why 0 d p
    unfold State.isAdmitted State.grantBerth at this ⊢
    rwa [ht.ge]
  · have h := x.noticed_tripTo n why 0 d p (q := .t) (.inl rfl)
    unfold Noticed State.port at h
    have hl : x.link.get .t = s.link.get .t := by rw [hlink]; simp
    rw [hl, hge] at h
    exact Noticed.afterRound h (ht.link .t) (by decide)
  · refine FlagsReached.after ?_ ht.flags ht.ended
    refine sourceReached_of_waiters (u := x) (by rw [hoe]) (by simp [htab]) (by simp [hnow]) (fun m c hc => ?_)
      (fun _ _ _ _ => by unfold State.orders; rw [hoe]) (x.sourceReached_tripTo n why 0 d p)
    by_cases hm : m = n
    · subst hm
      rw [State.berth, hxn] at hc
      simpa [State.berth] using hc
    · rw [State.berth, hxb, Six.get_set_ne _ _ hm] at hc
      simpa [State.berth] using hc

/-- A trip PILOT_LOST to TRIPPED (R22, R25). At port Vn, which has closed, it gives no notice. -/
theorem TrippedByLoss.tripped {s t : State} {n : Ix} (h : TrippedByLoss s n .pilotLost .tripped none t)
    (hv : (t.port (.v n)).isOpen = false) : Tripped s n .pilotLost t := by
  refine ⟨h.state, h.cause, h.breaker, h.permit, h.notAdmitted, h.active, h.staged, fun p hp => ?_, fun hne => absurd rfl hne⟩
  rcases hp with rfl | rfl
  · exact h.noticed
  · intro hopen
    rw [hv] at hopen
    cases hopen

/-- The effect on a berth that is closing, live or opening, and not opening by a trip (R25). -/
theorem loseBerth_trips {s x : State} {n : Ix} (hx : x.berths.get n = { s.berth n with plug := .absent })
    (hst : (s.berth n).state = .closing ∨ s.isLive n = true ∨ ((s.berth n).state = .opening ∧ (s.berth n).purpose ≠ some .trip)) :
    x.loseBerth n = x.tripTo n .pilotLost 0 .tripped none := by
  have hlose : x.loseBerth n = x.trip n .pilotLost := by
    unfold State.loseBerth State.berth
    rw [hx]
    unfold State.isLive at hst
    cases hs : (s.berth n).state <;> simp [hs, BerthState.isLive] at hst <;> rfl
  rw [hlose]
  refine State.trip_eq x ?_ ?_
  · rw [hx]
    intro ht
    unfold State.isLive at hst
    simp only at ht
    simp [ht, BerthState.isLive] at hst
  · rw [hx]
    rcases hst with hst | hst | ⟨-, hp⟩
    · intro ho
      rw [show (s.berth n).state = _ from ho] at hst
      cases hst
    · intro ho
      unfold State.isLive at hst
      rw [show (s.berth n).state = _ from ho] at hst
      cases hst
    · exact fun _ => hp

/-- The effect on a berth that opens by a trip: its cause is repeated (R25; log entry 12). -/
theorem loseBerth_repeats {s x : State} {n : Ix} (hx : x.berths.get n = { s.berth n with plug := .absent })
    (hst : (s.berth n).state = .opening) (hp : (s.berth n).purpose = some .trip) :
    x.loseBerth n = x.tripTo n ((s.berth n).tripCause.getD .pilotLost) 0 .opening (some .trip) := by
  have hlose : x.loseBerth n = x.trip n .pilotLost := by
    unfold State.loseBerth State.berth
    rw [hx, hst]
  rw [hlose]
  unfold State.trip State.berth
  rw [hx, hst, hp]
  rfl

/-- The effect on a berth that is plugged, waiting or locked out (R25). -/
theorem loseBerth_clears {s x y t : State} {n : Ix} (hx : x.berths.get n = { s.berth n with plug := .absent })
    (htab : x.table = s.table) (hy : y = x.loseBerth n) (ht : LossEnded n y t) :
    ((s.berth n).state = .plugged ∨ (s.berth n).state.isWaiting = true →
      (t.berth n).state = .vacant ∧ (t.berth n).tripCause = none) ∧
    ((s.berth n).state = .plugged ∨ (s.berth n).state.isWaiting = true ∨ (s.berth n).state = .lockedOut →
      (t.berth n).declaration = none ∧ (t.berth n).authorization = none ∧ (t.berth n).forcedOpen = false ∧
        (t.berth n).rating = s.storedRating n ∧ (t.grantBerth n).charge = State.emptyCharge) ∧
    ((s.berth n).state ∈ [.lockedOut, .tripped] → (t.berth n).state = (s.berth n).state) := by
  have hb : t.berth n = { y.berths.get n with permit := false, permitDeadTime := none } := by
    simp [State.berth, ht.berths]
  have hrating : ∀ z : State, z.table = s.table → z.storedRating n = s.storedRating n := fun z hz => by
    unfold State.storedRating State.param
    rw [hz]
  have hge : t.grantBerth n = y.grantBerth n := by unfold State.grantBerth; rw [ht.ge]
  have vacated : ∀ z : State, z.table = s.table → y = z.enterVacant n →
      ((t.berth n).state = .vacant ∧ (t.berth n).tripCause = none) ∧
      (t.berth n).declaration = none ∧ (t.berth n).authorization = none ∧ (t.berth n).forcedOpen = false ∧
        (t.berth n).rating = s.storedRating n ∧ (t.grantBerth n).charge = State.emptyCharge := by
    intro z hz hyz
    rw [hb, hge, hyz, State.berths_enterVacant, ← hrating z hz]
    simp [State.grantBerth, State.ge_enterVacant]
  have cleared : y = x.clearParts n → (t.berth n).state = (s.berth n).state ∧
      (t.berth n).declaration = none ∧ (t.berth n).authorization = none ∧ (t.berth n).forcedOpen = false ∧
        (t.berth n).rating = s.storedRating n ∧ (t.grantBerth n).charge = State.emptyCharge := by
    intro hyx
    rw [hb, hge, hyx, ← hrating x htab]
    simp [State.grantBerth, hx]
  have kept : y = x → (t.berth n).state = (s.berth n).state := by
    intro hyx
    rw [hb, hyx, hx]
  have hfail : ((x.failWaiting n .pilotLost .vacant)).table = s.table := by simp [htab]
  unfold State.loseBerth State.berth at hy
  rw [hx] at hy
  unfold State.berth at *
  cases hs : (s.berths.get n).state <;> simp only [hs] at hy vacated cleared kept ⊢
  case plugged => exact ⟨fun _ => (vacated x htab hy).1, fun _ => (vacated x htab hy).2, by simp⟩
  case admitting | syncing | deadWait =>
    exact ⟨fun _ => (vacated _ hfail hy).1, fun _ => (vacated _ hfail hy).2, by simp⟩
  case lockedOut => exact ⟨by simp [BerthState.isWaiting], fun _ => (cleared hy).2, fun _ => (cleared hy).1⟩
  case tripped => exact ⟨by simp [BerthState.isWaiting], by simp [BerthState.isWaiting], fun _ => kept hy⟩
  all_goals exact ⟨by simp [BerthState.isWaiting], by simp [BerthState.isWaiting], by simp⟩

/-- PLUG_ABSENT at a plug that is present (R25). -/
theorem plugAbsent_answers {s : State} {n : Ix} (h : s.powered = true) (hp : (s.berth n).plug = .present) :
    ∃ t : State, exec (.plugAbsent n) s = .next t.settle ∧
      (t.berth n).plug = .absent ∧ (t.berth n).permit = false ∧ (t.berth n).permitDeadTime = none ∧
      (t.port (.v n)).isOpen = false ∧ (t.port (.v n)).transmit = [] ∧
      (t.orders (.v n)).queue = [] ∧ (t.orders (.v n)).rolling = (s.orders (.v n)).rolling ∧
      (t.ship n).side = .between ∧ t.check n = State.freshCheck ∧ n ∉ t.cs.queue ∧ n ∉ t.cs.roundList ∧
      ((s.berth n).state = .plugged ∨ (s.berth n).state.isWaiting = true →
        (t.berth n).state = .vacant ∧ (t.berth n).tripCause = none) ∧
      ((s.berth n).state = .plugged ∨ (s.berth n).state.isWaiting = true ∨ (s.berth n).state = .lockedOut →
        (t.berth n).declaration = none ∧ (t.berth n).authorization = none ∧ (t.berth n).forcedOpen = false ∧
          (t.berth n).rating = s.storedRating n ∧ (t.grantBerth n).charge = State.emptyCharge) ∧
      ((s.berth n).state ∈ [.lockedOut, .tripped] → (t.berth n).state = (s.berth n).state) ∧
      ((s.berth n).state = .closing ∨ s.isLive n = true →
        (s.berth n).breaker = .closed ∨ (s.berth n).breaker = .closeSent →
        Tripped s n .pilotLost t ∧ SourceReached n .tripped (s.closePort n) t ∧ (t.berth n).motionLimit = some 300 ∧
          (t.berth n).consenting = none) ∧
      ((s.berth n).state = .opening → (s.berth n).breaker = .openSent →
        ((s.berth n).purpose ≠ some .trip → Tripped s n .pilotLost t) ∧
        (∀ why, (s.berth n).purpose = some .trip → (s.berth n).tripCause = some why →
          (t.berth n).state = .opening ∧ (t.berth n).purpose = some .trip ∧ (t.berth n).tripCause = some why ∧
          (t.berth n).breaker = .openSent ∧ t.ge.active.recs.get n = State.noGrant ∧
          t.ge.staged.recs.get n = State.noGrant ∧ Noticed s t .t .trip (some n) why.index 0) ∧
        SourceReached n .tripped (s.closePort n) t ∧ (t.berth n).motionLimit = (s.berth n).motionLimit ∧
        (t.berth n).consenting = none) ∧
      (∀ m second, (s.closePort n).flag m second = { s.flag m second with
        waiters := (s.flag m second).waiters.filter fun w => decide (w.port ≠ .v n) }) ∧
      (∀ m, m ≠ n → t.berth m = s.berth m) ∧ Untouched [.power, .time, .waiting, .table, .pool, .grid] s t := by
  have hexec : exec (.plugAbsent n) s = _ := event_next_eq (f := State.plugOut n) h (State.plugOut_eq hp)
  obtain ⟨-, -, htab, hxb, -⟩ := s.fields_unplugged n
  have hx : (s.unplugged n).berths.get n = { s.berth n with plug := .absent } := by rw [hxb]; simp [State.berth]
  have hstep := LossStep.loseBerth n (s.unplugged n)
  obtain ⟨y, hy⟩ : ∃ y, y = (s.unplugged n).loseBerth n := ⟨_, rfl⟩
  rw [← hy] at hexec hstep
  have hended : LossEnded n y (y.lossEnd n) := State.lossEnded n (by rw [hstep.plug, State.berth, hx])
  obtain ⟨t, ht⟩ : ∃ t, t = y.lossEnd n := ⟨_, rfl⟩
  rw [← ht] at hexec hended
  obtain ⟨h1, h2, h3, hv, h4, h5, h6, h7, h8, h9, h10, hothers, hframe⟩ := plugAbsent_common hstep hended
  obtain ⟨hvacant, hclear, hkept⟩ := loseBerth_clears hx htab hy hended
  refine ⟨_, hexec, h1, h2, h3, hv, h4, h5, h6, h7, h8, h9, h10, hvacant, hclear, hkept, fun hst hbr => ?_, fun hst hbr => ?_,
    fun m second => s.flag_closePort n m second, hothers, hframe⟩
  · have hlost := trippedByLoss (p := none) (by rcases hbr with hb | hb <;> rw [hb] <;> decide)
      (hy.trans (loseBerth_trips hx (hst.imp_right .inl)) ▸ hended)
    refine ⟨hlost.tripped hv, hlost.reached, ?_, hlost.consenting⟩
    rw [hlost.motionLimit]
    rcases hbr with hb | hb <;> rw [hb] <;> rfl
  · have hne : (s.berth n).breaker ≠ .opened := by rw [hbr]; decide
    by_cases hpur : (s.berth n).purpose = some .trip
    · have hlost := trippedByLoss hne (hy.trans (loseBerth_repeats hx hst hpur) ▸ hended)
      refine ⟨fun hno => absurd hpur hno, fun why _ hc => ?_, hlost.reached, ?_, hlost.consenting⟩
      · rw [hc] at hlost
        exact ⟨hlost.state, hlost.purpose, hlost.cause, hlost.breaker, hlost.active, hlost.staged, hlost.noticed⟩
      · rw [hlost.motionLimit]
        exact if_pos hbr
    · have hlost := trippedByLoss (p := none) hne (hy.trans (loseBerth_trips hx (.inr (.inr ⟨hst, hpur⟩))) ▸ hended)
      refine ⟨fun _ => hlost.tripped hv, fun _ hp' => absurd hp' hpur, hlost.reached, ?_, hlost.consenting⟩
      rw [hlost.motionLimit]
      exact if_pos hbr

/-- Settles O47. -/
theorem plugEvents : Obligations.PlugEvents :=
  ⟨fun _ _ _ h hp => plugPresent_answers h hp, fun _ _ h hp => plugAbsent_answers h hp⟩

end Sys2Proof.Machine

namespace Sys2Proof.Machine

/-! ### PANEL_RESET at the berths (R31) -/

/-- What PANEL_RESET makes of a berth's record `b`. -/
structure PanelRecord (b c : Berth) : Prop where
  waiting : b.state.isWaiting = true → c.state = .plugged
  closing : b.state = .closing → c.state = .closing ∧ c.adoptOnClose = true ∧ c.motionLimit = b.motionLimit
  opens : b.state ∈ [.parallel, .returnWait, .returnParallel] → c.state = .opening ∧ c.purpose = some .panel ∧ c.permit = false ∧
    (b.breaker = .closed → c.breaker = .openSent ∧ c.motionLimit = some 300)
  adopted : b.state ∈ [.onShore, .adopted] → c.state = .adopted ∧ c.declarationAwaited = true ∧ c.authorizationAwaited = true
  kept : b.state ∈ [.opening, .tripped, .lockedOut, .vacant, .plugged] → c = b
  declaration : c.declaration = b.declaration
  authorization : c.authorization = b.authorization
  rating : c.rating = b.rating
  tripCause : c.tripCause = b.tripCause
  stuck : c.stuck = b.stuck
  forcedOpen : c.forcedOpen = b.forcedOpen
  plug : c.plug = b.plug
  bus : c.bus = b.bus
  moving : c.moving = b.moving

namespace State

/-- The record of a berth that opens, whatever its breaker does (R18, R26, R31). -/
theorem record_enterOpening (n : Ix) (p : Purpose) (s : State) : ∃ br limit, (s.enterOpening n p).berth n =
    { (s.berth n).stopTimers with
      state := .opening, purpose := some p, approach := none, adoptOnClose := false, returnForced := false, openPower := 0
      breaker := br, motionLimit := limit, permit := false, permitDeadTime := none } := by
  obtain ⟨u, hu⟩ : ∃ u, u = s.modBerth n fun b =>
      { b.stopTimers with state := .opening, purpose := some p, approach := none, adoptOnClose := false, returnForced := false
                          openPower := 0 } := ⟨_, rfl⟩
  obtain ⟨br, limit, dead, hb⟩ := u.commandOpen_berths n
  have ht : (s.enterOpening n p).berths = (u.openCommand n).berths := by
    rw [hu]
    exact (fields_departLive _ _).2.2.2.2.2.2.1
  have hun : u.berths.get n = { (s.berth n).stopTimers with
      state := .opening, purpose := some p, approach := none, adoptOnClose := false, returnForced := false, openPower := 0 } := by
    rw [hu]
    simp [berth]
  exact ⟨br, limit, by rw [berth, ht, openCommand, withdrawPermit, berths_modBerth, Six.get_set_same, hb, Six.get_set_same, hun]⟩

theorem berth_enterOpening_ne {n m : Ix} (p : Purpose) (s : State) (h : m ≠ n) : (s.enterOpening n p).berth m = s.berth m := by
  have ht : ∀ u : State, ((u.openCommand n).departLive n).berths = (u.openCommand n).berths := fun u =>
    (fields_departLive _ _).2.2.2.2.2.2.1
  unfold enterOpening berth
  rw [ht, berths_openCommand_ne h]
  simp [h]

theorem berths_enterAdopted (n : Ix) (s : State) : (s.enterAdopted n).berths = s.berths.set n { s.berths.get n with
    state := .adopted, declarationAwaited := true, authorizationAwaited := true, adoptOnClose := false } := by
  simp [enterAdopted]

theorem panelBerth_record (n : Ix) (s : State) : PanelRecord (s.berth n) ((s.panelBerth n).berth n) := by
  unfold panelBerth
  cases hs : (s.berth n).state
  case admitting | syncing | deadWait =>
    have hb : (s.abandon n .plugged).berth n = { (s.berth n).stopTimers with state := .plugged } := by simp [berth]
    simp only [hb]
    constructor <;> simp [hs, BerthState.isWaiting, Berth.stopTimers]
  case closing =>
    have hb : (s.modBerth n fun b => { b with adoptOnClose := true }).berth n = { s.berth n with adoptOnClose := true } := by
      simp [berth]
    simp only [hb]
    constructor <;> simp [hs, BerthState.isWaiting]
  case parallel | returnWait | returnParallel =>
    obtain ⟨br, limit, hb⟩ := s.record_enterOpening n .panel
    have hclosed : (s.berth n).breaker = .closed → br = .openSent ∧ limit = some 300 := fun hbr => by
      have hb' := s.berths_enterOpening .panel (n := n) (.inl hbr)
      have : (s.enterOpening n .panel).berth n = _ := congrArg (Six.get · n) hb'
      rw [hb] at this
      simp only [Six.get_set_same] at this
      exact ⟨congrArg Berth.breaker this, congrArg Berth.motionLimit this⟩
    simp only [hb]
    constructor <;> simp [hs, BerthState.isWaiting, Berth.stopTimers]
    exact hclosed
  case onShore | adopted =>
    have hb : (s.enterAdopted n).berth n = { s.berth n with
        state := .adopted, declarationAwaited := true, authorizationAwaited := true, adoptOnClose := false } := by
      simp [berth, berths_enterAdopted]
    simp only [hb]
    constructor <;> simp [hs, BerthState.isWaiting]
  case opening | tripped | lockedOut | vacant | plugged =>
    constructor <;> simp [hs, BerthState.isWaiting]

theorem panelBerth_waiting {n : Ix} {s : State} (h : (s.berth n).state.isWaiting = true) :
    (s.panelBerth n).isAdmitted n = false := by
  unfold panelBerth
  cases hs : (s.berth n).state <;> simp [hs, BerthState.isWaiting] at h <;> simp [isAdmitted, grantBerth]

theorem isAdmitted_adoptGrants_ne {n m : Ix} (s : State) (h : m ≠ n) : (s.adoptGrants n).isAdmitted m = s.isAdmitted m := by
  obtain ⟨k, hk⟩ : ∃ k, k = mkGrant (s.berth n).rating 0 0 (s.berth n).bus := ⟨_, rfl⟩
  unfold adoptGrants
  rw [← hk]
  simp [isAdmitted, grantBerth, putBoth, h]

theorem panelBerth_others {n m : Ix} (s : State) (h : m ≠ n) : (s.panelBerth n).berth m = s.berth m ∧
    (s.panelBerth n).isAdmitted m = s.isAdmitted m := by
  unfold panelBerth
  cases (s.berth n).state
  case parallel | returnWait | returnParallel =>
    exact ⟨s.berth_enterOpening_ne .panel h, by simp [isAdmitted, grantBerth, h]⟩
  case onShore | adopted =>
    refine ⟨by simp [berth, berths_enterAdopted, h], ?_⟩
    rw [enterAdopted, isAdmitted_adoptGrants_ne _ h]
    rfl
  all_goals exact ⟨by simp [berth, h], by simp [isAdmitted, grantBerth, h]⟩

/-- A step per berth over a list that names berth `n` once acts on `n` as it stood. -/
theorem forEach_panelBerth {n : Ix} {l : List Ix} (hl : l.Nodup) (hn : n ∈ l) (s : State) :
    ∃ u : State, u.berth n = s.berth n ∧ (s.forEach l panelBerth).berth n = (u.panelBerth n).berth n ∧
      (s.forEach l panelBerth).isAdmitted n = (u.panelBerth n).isAdmitted n := by
  induction l generalizing s with
  | nil => exact absurd hn List.not_mem_nil
  | cons m l ih =>
    show ∃ u : State, u.berth n = s.berth n ∧ ((s.panelBerth m).forEach l panelBerth).berth n = _ ∧ _
    obtain ⟨hm, hl'⟩ := List.nodup_cons.mp hl
    by_cases hmn : n = m
    · subst hmn
      have hrest := keep_forEach_mem (f := panelBerth) (l := l) (s := s.panelBerth n)
        (P := fun t => t.berth n = (s.panelBerth n).berth n ∧ t.isAdmitted n = (s.panelBerth n).isAdmitted n)
        (fun m' hm' t ht => by
          obtain ⟨h1, h2⟩ := t.panelBerth_others (n := m') (m := n) (fun e => hm (e ▸ hm'))
          exact ⟨h1.trans ht.1, h2.trans ht.2⟩) ⟨rfl, rfl⟩
      exact ⟨s, rfl, hrest⟩
    · obtain ⟨u, hu, h1, h2⟩ := ih hl' ((List.mem_cons.mp hn).resolve_left hmn) (s.panelBerth m)
      exact ⟨u, hu.trans (s.panelBerth_others hmn).1, h1, h2⟩

@[simp] theorem berths_resetReference (s : State) : s.resetReference.berths = s.berths := rfl

/-- The berths in turn at PANEL_RESET (R31). -/
theorem panelBlocks_berth (n : Ix) (s : State) : PanelRecord (s.berth n) (s.panelBlocks.berth n) ∧
    ((s.berth n).state.isWaiting = true → s.panelBlocks.isAdmitted n = false) := by
  obtain ⟨v, hv⟩ : ∃ v, v = ((s.modGe fun g => { g with queue := [] }).modCp fun u => { u with stopCount := 0 }).resetReference.resetScanner :=
    ⟨_, rfl⟩
  have hvb : v.berth n = s.berth n := by
    rw [hv]
    simp [berth]
  have hall : s.panelBlocks = v.forEach Ix.all panelBerth := by rw [hv]; rfl
  obtain ⟨u, hu, h1, h2⟩ := forEach_panelBerth (n := n) (l := Ix.all) (by decide) (by cases n <;> decide) v
  rw [hall, h1, h2, ← hvb, ← hu]
  exact ⟨u.panelBerth_record n, panelBerth_waiting⟩

/-- The berths lose their consenting orders at PANEL_RESET (R31). -/
theorem berth_panelOrders (n : Ix) (s : State) :
    (s.forEach Ix.all fun m u => u.modBerth m fun b => { b with consenting := none, returnForced := false }).berth n =
      { s.berth n with consenting := none, returnForced := false } := by
  cases n <;> rfl

@[simp] theorem berths_endPort (c : Code) (p : Port) (s : State) : (s.endPort c p).berths = s.berths := by
  have : ∀ l : List Chain, (s.forEach l fun ch t => t.passCompletion p (ch.cancelRest c)).berths = s.berths := fun l =>
    keep_forEach (f := fun ch t => t.passCompletion p (ch.cancelRest c)) (P := fun t => t.berths = s.berths)
      (fun _ _ ht => ht) l rfl
  exact this _

/-- PANEL_RESET at one berth (R31, R167). -/
theorem takePanelReset_berth (n : Ix) (r : OrderRef) (s : State) : ∃ b, b = { s.berth n with consenting := none, returnForced := false } ∧
    PanelRecord b ((s.takePanelReset r).1.berth n) ∧
    ((s.berth n).state.isWaiting = true → (s.takePanelReset r).1.isAdmitted n = false) := by
  have hports : ∀ (l : List Port) (u : State), (l.foldl (fun u p => u.endPort .reset p) u).berths = u.berths := fun l => by
    induction l with
    | nil => exact fun _ => rfl
    | cons p l ih => exact fun u => (ih _).trans (u.berths_endPort .reset p)
  refine ⟨_, rfl, ?_⟩
  unfold takePanelReset
  simp only
  obtain ⟨v, hv⟩ : ∃ v : State, v = { s with
      link := s.link.map fun lp =>
        { lp with notices := lp.notices.mapAll fun _ x => { x with flag := false, latest := none } } } := ⟨_, rfl⟩
  have hvb : v.berths = s.berths := by rw [hv]
  rw [← hv]
  obtain ⟨e, he⟩ : ∃ e, e = v.endOrder r (doneWith s.otherChains (countSix fun n => (s.berth n).state.panelOpens)) := ⟨_, rfl⟩
  have heb : e.berths = s.berths := by rw [he, ← hvb]; rfl
  rw [← he]
  obtain ⟨u, hu⟩ : ∃ u : State, u = (Port.t :: Ix.all.map Port.v).foldl (fun u p => u.endPort .reset p) e := ⟨_, rfl⟩
  have hb : u.berth n = s.berth n := by rw [berth, hu, hports, heb, berth]
  rw [← hu, ← hb]
  have h := panelBlocks_berth n ((u.modOe fun oe => { oe with flags := .ofFn fun _ => ⟨.clear, .clear⟩, held := true }).forEach
    Ix.all fun m u => u.modBerth m fun b => { b with consenting := none, returnForced := false })
  rw [berth_panelOrders] at h
  exact h

end State

theorem State.finishTake_none {r : OrderRef} {x : Take} (h : x.2 = none) : State.finishTake r x = x.1 := by
  obtain ⟨t, st⟩ := x
  subst h
  rfl

theorem State.takePanelReset_runs (r : OrderRef) (s : State) : (s.takePanelReset r).2 = none := by
  unfold takePanelReset
  rfl

/-- Settles O32. -/
theorem panelResetBerths : Obligations.PanelResetBerths := by
  intro s stop n h
  obtain ⟨w, hw⟩ : ∃ w, w = s.withRunning .t ⟨.panelReset, stop, 0⟩ := ⟨_, rfl⟩
  have hexec : exec (.panelReset .t stop) s = .next (w.takePanelReset (s.nextRef .t)).1.settle := by
    rw [exec_takes (o := ⟨.panelReset, stop, 0⟩) rfl h rfl, ← hw, ← State.finishTake_none (w.takePanelReset_runs (s.nextRef .t))]
    rfl
  have hwb : w.berth n = s.berth n := by rw [hw, State.berth_withRunning]
  obtain ⟨b, hb, hrec, hadm⟩ := w.takePanelReset_berth n (s.nextRef .t)
  rw [hwb] at hb hadm
  rw [hb] at hrec
  exact ⟨_, hexec, fun hst => ⟨hrec.waiting hst, hadm hst⟩, hrec.closing, hrec.opens, hrec.adopted, hrec.kept, hrec.declaration,
    hrec.authorization, hrec.rating, hrec.tripCause, hrec.stuck, hrec.forcedOpen, hrec.plug, hrec.bus, hrec.moving⟩

end Sys2Proof.Machine

namespace Sys2Proof.Machine

/-! ### CANCEL (R146, R147) -/

namespace State

/-- An intact frame at an open port with room for its answer (R173, R175). -/
theorem handling_ready {s : State} {p : Port} (act : State → State) (hopen : (s.port p).isOpen = true)
    (hroom : s.answersWaiting p < 8) : s.handling p act = act (s.setReceive p .hunt) := by
  unfold handling
  rw [if_pos hopen]
  exact if_neg (Nat.not_le_of_lt hroom)

theorem onlyTouches_setReceive (s : State) (p : Port) (r : Receive) : OnlyTouches [.link p] s (s.setReceive p r) :=
  onlyTouches_modPort p _

/-- A frame that is answered with one frame at once (R175, R176). -/
theorem port_answer {s : State} {p : Port} (f : TxFrame) (hopen : (s.port p).isOpen = true) :
    ((s.setReceive p .hunt).send p f).port p = { s.port p with receive := .hunt, transmit := (s.port p).transmit ++ [f] } := by
  unfold port at hopen
  simp [port, send, setReceive, hopen]

theorem onlyTouches_answer (s : State) (p : Port) (f : TxFrame) : OnlyTouches [.link p] s ((s.setReceive p .hunt).send p f) :=
  onlyTouches_trans (s.onlyTouches_setReceive p .hunt) (onlyTouches_send p f)

theorem handleCancel_badFrame {s : State} {p : Port} {payload : List Byte} (h : payload.length ≠ 2) :
    s.handleCancel p payload = s.send p (.reject 2 .badFrame) := by
  unfold handleCancel
  split
  · exact absurd rfl h
  · rfl

theorem handleCancel_notPermitted {s : State} {p : Port} {port count : Byte} (h : port.toNat ≠ p.code) :
    s.handleCancel p [port, count] = s.send p (.reject 2 .notPermitted) := if_pos h

/-- The chain that a CANCEL of a port's own tags acts on (R146; log entry 37). -/
theorem handleCancel_unknown {s : State} {p : Port} {port count : Byte} (hp : port.toNat = p.code)
    (h : ∀ c ∈ (s.orders p).queue, c.count ≠ count.toNat) :
    s.handleCancel p [port, count] = s.send p (.reject 2 .unknownTag) := by
  have hfind : (s.orders p).queue.find? (fun c => decide (c.count = count.toNat)) = none := by
    rw [List.find?_eq_none]
    intro c hc
    simpa using h c hc
  unfold handleCancel
  simp only [if_neg (not_not_intro hp), hfind]
  split
  · rfl
  · rename_i head rest hq
    rw [if_neg (h head (by rw [hq]; exact List.mem_cons_self))]

theorem handleCancel_head {s : State} {p : Port} {port count : Byte} {head : Chain} {rest : List Chain}
    (hp : port.toNat = p.code) (hq : (s.orders p).queue = head :: rest) (hc : head.count = count.toNat) :
    s.handleCancel p [port, count] = s.cancelHead p := by
  unfold handleCancel
  simp only [if_neg (not_not_intro hp), hq, if_pos hc]

theorem handleCancel_queued {s : State} {p : Port} {port count : Byte} {head c : Chain} {before after : List Chain}
    (hp : port.toNat = p.code) (hq : (s.orders p).queue = head :: before ++ c :: after) (hc : c.count = count.toNat)
    (hno : ∀ x ∈ head :: before, x.count ≠ count.toNat) : s.handleCancel p [port, count] = s.cancelQueued p c := by
  have hfind : (head :: before ++ c :: after).find? (fun c => decide (c.count = count.toNat)) = some c := by
    rw [List.find?_append, List.find?_eq_none.mpr (by simpa using hno)]
    simp [hc]
  have hhead : head.count ≠ count.toNat := hno head List.mem_cons_self
  unfold handleCancel
  simp only [if_neg (not_not_intro hp), hq, hfind]
  exact if_neg hhead

/-- A queued chain that is cancelled leaves the queue with its completion sent (R147). -/
theorem orders_cancelQueued {s : State} {p : Port} {c : Chain} {front after : List Chain}
    (hq : (s.orders p).queue = front ++ c :: after) (hno : ∀ x ∈ front, x.count ≠ c.count) :
    (s.cancelQueued p c).orders p = { s.orders p with queue := front ++ after } := by
  have herase : (front ++ c :: after).eraseP (fun x => decide (x.count = c.count)) = front ++ after := by
    rw [List.eraseP_append_right _ (by simpa using hno)]
    simp
  unfold orders at hq
  simp [cancelQueued, passCompletion, orders, hq, herase]

theorem onlyTouches_cancelQueued (s : State) (p : Port) (c : Chain) :
    OnlyTouches [.link p, .orders p] s (s.cancelQueued p c) := by
  apply onlyTouches_of_fields <;> simp +contextual [cancelQueued, passCompletion, send]

/-- The chains of a port when its head chain has been cancelled (R147). -/
theorem orders_cancelOrders {s : State} {p : Port} {head : Chain} {rest : List Chain} (hq : (s.orders p).queue = head :: rest) :
    (s.cancelOrders p).orders p = { s.orders p with queue := head.cancelRest .cancelled :: rest, timer := none } := by
  unfold orders at hq
  simp [cancelOrders, orders, hq]

theorem onlyTouches_cancelOrders (s : State) (p : Port) : OnlyTouches [.orders p] s (s.cancelOrders p) := by
  apply onlyTouches_of_fields <;> simp +contextual [cancelOrders]

/-- The running order of a head chain ends CANCELLED with it (R141, R147). -/
theorem slot_cancelOrders {s : State} {p : Port} {r : OrderRef} {o : OrderRec} {k : Nat}
    (h : s.running? p = some (r, { record := o, status := .running k })) :
    (s.cancelOrders p).slot? r = some { record := o, status := .ended (cancelledBy .cancelled) } := by
  obtain ⟨hp, hs, -⟩ := running_slot h
  unfold running? at h
  split at h
  · cases h
  rename_i c rest hq
  split at h
  case h_2 => cases h
  rename_i pos hpos
  obtain ⟨sl, hsl, hr⟩ := Option.map_eq_some_iff.mp h
  obtain ⟨rfl, rfl⟩ := Prod.mk.inj hr
  have hcancel : (c.cancelRest .cancelled).slot? pos = some { record := o, status := .ended (cancelledBy .cancelled) } := by
    unfold Chain.slot? at hsl ⊢
    split at hsl
    · cases hsl
    · rename_i h0
      rw [if_neg h0]
      simp [Chain.cancelRest, hsl, Slot.close, Slot.isEnded]
  have hser : (c.cancelRest .cancelled).serial = c.serial := rfl
  simp [slot?, chain?, orders_cancelOrders hq, hcancel, hser]

/-- The abort of a running order leaves the chains and the Link Unit (R148). -/
theorem ports_abortOrder (p : Port) (x : Order) (s : State) :
    (s.abortOrder p x).oe.ports = s.oe.ports ∧ (s.abortOrder p x).link = s.link := by
  have hberth : ∀ n, (s.abortBerth n).oe.ports = s.oe.ports ∧ (s.abortBerth n).link = s.link := fun n => by
    unfold abortBerth
    simp only
    split <;> simp [backFromReturn, withdrawPermit]
  unfold abortOrder
  split
  · exact hberth _
  · exact hberth _
  · simp
  · exact ⟨rfl, rfl⟩

end State

/-- A CANCEL of the head chain: what each kind of its running order leaves alike (R147). -/
theorem cancelHead_answers {s : State} {p : Port} {port count : Byte} {head : Chain} {rest : List Chain} {r : OrderRef}
    {o : OrderRec} {k : Nat} (h : s.powered = true) (hopen : (s.port p).isOpen = true) (hroom : s.answersWaiting p < 8)
    (hp : port.toNat = p.code) (hq : (s.orders p).queue = head :: rest) (hc : head.count = count.toNat)
    (hrun : s.running? p = some (r, { record := o, status := .running k })) :
    ∃ u : State, u.berths = s.berths ∧ (∀ m second, u.flag m second = s.flag m second) ∧ OnlyTouches [.link p, .orders p] s u ∧
      exec (.cancel p [port, count]) s = .next (u.abortOrder p o.order).settle ∧
      (u.abortOrder p o.order).slot? r =
        some { record := o, status := .ended { verdict := .cancelled, code := .cancelled, d1 := 0, d2 := 0 } } ∧
      (u.abortOrder p o.order).orders p = { s.orders p with queue := head.cancelRest .cancelled :: rest, timer := none } ∧
      (u.abortOrder p o.order).port p = { s.port p with receive := .hunt } := by
  obtain ⟨x, hx⟩ : ∃ x, x = s.setReceive p .hunt := ⟨_, rfl⟩
  have hxo : x.orders p = s.orders p := by rw [hx]; rfl
  have hxr : x.running? p = some (r, { record := o, status := .running k }) := by
    rw [State.running_of_orders hxo]
    exact hrun
  have hhead : x.cancelHead p = (x.cancelOrders p).abortOrder p o.order := by
    unfold State.cancelHead
    simp only [hxr]
  have heff : s.handling p (State.handleCancel p [port, count]) = (x.cancelOrders p).abortOrder p o.order := by
    rw [State.handling_ready _ hopen hroom, ← hx, State.handleCancel_head hp (hxo ▸ hq) hc, hhead]
  obtain ⟨hports, hlink⟩ := (x.cancelOrders p).ports_abortOrder p o.order
  refine ⟨x.cancelOrders p, by rw [hx]; rfl, fun m second => by rw [hx]; rfl, ?_, event_next_eq h heff, ?_, ?_, ?_⟩
  · exact onlyTouches_trans (onlyTouches_mono (hx ▸ s.onlyTouches_setReceive p .hunt) (by simp))
      (onlyTouches_mono (x.onlyTouches_cancelOrders p) (by simp))
  · exact (State.slot_of_ports hports r).trans (State.slot_cancelOrders hxr)
  · have ho : ((x.cancelOrders p).abortOrder p o.order).orders p = (x.cancelOrders p).orders p := by
      unfold State.orders; rw [hports]
    rw [ho, State.orders_cancelOrders (hxo ▸ hq), hxo]
  · have hl : ((x.cancelOrders p).abortOrder p o.order).port p = x.port p := by
      unfold State.port; rw [hlink]; rfl
    rw [hl, hx]
    simp [State.port, State.setReceive]

/-- A CANCEL whose effect is one answer, a queued chain or a head chain in which no order runs (R146, R147). -/
theorem cancel_answers {s : State} {p : Port} {payload : List Byte} (h : s.powered = true) (hopen : (s.port p).isOpen = true)
    (hroom : s.answersWaiting p < 8) :
    (payload.length ≠ 2 →
      ∃ t : State, exec (.cancel p payload) s = .next t.settle ∧ t.port p = { s.port p with
        receive := .hunt, transmit := (s.port p).transmit ++ [.reject 2 .badFrame] } ∧ OnlyTouches [.link p] s t) ∧
    (∀ port count : Byte, payload = [port, count] →
      (port.toNat ≠ p.code →
        ∃ t : State, exec (.cancel p payload) s = .next t.settle ∧ t.port p = { s.port p with
          receive := .hunt, transmit := (s.port p).transmit ++ [.reject 2 .notPermitted] } ∧ OnlyTouches [.link p] s t) ∧
      (port.toNat = p.code → (∀ c ∈ (s.orders p).queue, c.count ≠ count.toNat) →
        ∃ t : State, exec (.cancel p payload) s = .next t.settle ∧ t.port p = { s.port p with
          receive := .hunt, transmit := (s.port p).transmit ++ [.reject 2 .unknownTag] } ∧ OnlyTouches [.link p] s t) ∧
      (∀ head before c after, port.toNat = p.code → (s.orders p).queue = head :: before ++ c :: after →
        c.count = count.toNat → (∀ x ∈ head :: before, x.count ≠ count.toNat) →
        ∃ t : State, exec (.cancel p payload) s = .next t.settle ∧
          t.orders p = { s.orders p with queue := head :: before ++ after } ∧
          t.port p = { s.port p with
            receive := .hunt
            transmit := (s.port p).transmit ++
              [.completion c.count ((c.cancelRest .cancelled).orders.map Slot.statusRecord)] } ∧
          OnlyTouches [.link p, .orders p] s t) ∧
      (∀ head rest, port.toNat = p.code → (s.orders p).queue = head :: rest → head.count = count.toNat →
        s.running? p = none →
        ∃ t : State, exec (.cancel p payload) s = .next t.settle ∧
          t.orders p = { s.orders p with queue := head.cancelRest .cancelled :: rest, timer := none } ∧
          OnlyTouches [.link p, .orders p] s t)) := by
  obtain ⟨x, hx⟩ : ∃ x, x = s.setReceive p .hunt := ⟨_, rfl⟩
  have hxo : x.orders p = s.orders p := by rw [hx]; rfl
  have hxs : OnlyTouches [.link p, .orders p] s x := onlyTouches_mono (hx ▸ s.onlyTouches_setReceive p .hunt) (by simp)
  have hexec : ∀ {t : State}, x.handleCancel p payload = t → exec (.cancel p payload) s = .next t.settle := fun ht =>
    event_next_eq (f := State.handling p (State.handleCancel p payload)) h
      ((State.handling_ready _ hopen hroom).trans (by rw [← hx, ht]))
  have answered : ∀ f : TxFrame, x.handleCancel p payload = x.send p f →
      ∃ t : State, exec (.cancel p payload) s = .next t.settle ∧ t.port p = { s.port p with
        receive := .hunt, transmit := (s.port p).transmit ++ [f] } ∧ OnlyTouches [.link p] s t := fun f hf =>
    ⟨_, hexec hf, hx ▸ State.port_answer f hopen, hx ▸ s.onlyTouches_answer p f⟩
  refine ⟨fun hlen => answered _ (State.handleCancel_badFrame hlen), ?_⟩
  rintro port count rfl
  refine ⟨fun hp => answered _ (State.handleCancel_notPermitted hp),
    fun hp hno => answered _ (State.handleCancel_unknown hp (hxo ▸ hno)), fun head before c after hp hq hc hno => ?_,
    fun head rest hp hq hc hrun => ?_⟩
  · have hport : (x.cancelQueued p c).port p = (x.send p (.completion c.count ((c.cancelRest .cancelled).orders.map
        Slot.statusRecord))).port p := rfl
    refine ⟨_, hexec (State.handleCancel_queued hp (hxo ▸ hq) hc hno), ?_, ?_, onlyTouches_trans hxs (x.onlyTouches_cancelQueued p c)⟩
    · rw [State.orders_cancelQueued (hxo ▸ hq) (hc ▸ hno), hxo]
    · rw [hport, hx]
      exact State.port_answer _ hopen
  · have hhead : x.cancelHead p = x.cancelOrders p := by
      unfold State.cancelHead
      simp only [State.running_of_orders hxo, hrun]
    refine ⟨_, hexec ((State.handleCancel_head hp (hxo ▸ hq) hc).trans hhead), ?_,
      onlyTouches_trans hxs (onlyTouches_mono (x.onlyTouches_cancelOrders p) (by simp))⟩
    rw [State.orders_cancelOrders (hxo ▸ hq), hxo]

end Sys2Proof.Machine

namespace Sys2Proof.Machine

namespace State

/-- The abort of a CONNECT or DISCONNECT whose berth waits to close (R29, R148). -/
theorem abortBerth_waiting {n : Ix} {s : State} (h : (s.berth n).state.isWaiting = true) : s.abortBerth n =
    (s.modBerth n fun b => { b with consenting := none, returnForced := false }).abandon n .plugged := by
  unfold abortBerth
  simp only
  cases hs : (s.berth n).state <;> simp [hs, BerthState.isWaiting] at h <;> rfl

theorem abortBerth_returnWait {n : Ix} {s : State} (h : (s.berth n).state = .returnWait) : s.abortBerth n =
    (s.modBerth n fun b => { b with consenting := none, returnForced := false }).backFromReturn n := by
  unfold abortBerth
  rw [h]

theorem abortBerth_other {n : Ix} {s : State} (h : (s.berth n).state.isWaiting = false) (h' : (s.berth n).state ≠ .returnWait) :
    s.abortBerth n = s.modBerth n fun b => { b with consenting := none, returnForced := false } := by
  unfold abortBerth
  simp only
  cases hs : (s.berth n).state <;> simp [hs, BerthState.isWaiting] at h h' <;> rfl

/-- A berth that does not wait to close loses no more than its consenting order and its return (R29, R148). -/
theorem onlyTouches_abortBerth {n : Ix} {s : State} (h : (s.berth n).state.isWaiting = false) :
    OnlyTouches [.berth n] s (s.abortBerth n) := by
  by_cases h' : (s.berth n).state = .returnWait
  · rw [abortBerth_returnWait h']
    apply onlyTouches_of_fields <;> simp +contextual [backFromReturn, withdrawPermit]
  · rw [abortBerth_other h h']
    exact onlyTouches_modBerth n _

theorem onlyTouches_abortBerth_waiting {n : Ix} {s : State} (h : (s.berth n).state.isWaiting = true) :
    OnlyTouches [.berth n, .reference, .grants] s (s.abortBerth n) := by
  rw [abortBerth_waiting h]
  apply onlyTouches_of_fields <;> simp +contextual

/-- The waiters of a port leave the flags (R148, R152). -/
theorem flag_dropWaiter (p : Port) (m : Ix) (second : Bool) (s : State) : (s.dropWaiter p).flag m second =
    { s.flag m second with waiters := (s.flag m second).waiters.filter fun w => decide (w.port ≠ p) } := by
  cases second <;> simp [dropWaiter, flag, FlagPair.both, FlagPair.get, SyncFlag.dropWaiter]

theorem onlyTouches_dropWaiter (p : Port) (s : State) : OnlyTouches [.flags] s (s.dropWaiter p) := by
  apply onlyTouches_of_fields <;> simp +contextual

end State

theorem byteOf_code (p : Port) : (byteOf p.code).toNat = p.code := by
  cases p with
  | t => rfl
  | v n => cases n <;> rfl

/-- The abort of a CONNECT or DISCONNECT, from a state `u` in which the head chain of port Vn has been cancelled (R29, R148). -/
theorem abortBerth_answers {s u : State} {n : Ix} (hb : u.berths = s.berths)
    (hu : OnlyTouches [.link (.v n), .orders (.v n)] s u) :
    ((s.berth n).state.isWaiting = true →
      (u.abortBerth n).berth n = { (s.berth n).stopTimers with state := .plugged, consenting := none, returnForced := false } ∧
      ((u.abortBerth n).ship n).window = .inactive ∧ (u.abortBerth n).pru.holder.map ClaimRequest.berth ≠ some n ∧
      (u.abortBerth n).isAdmitted n = false ∧ (∀ e ∈ (u.abortBerth n).ge.queue, e.berth ≠ n) ∧
      (u.abortBerth n).ge.active.recs.get n = State.noGrant ∧ (u.abortBerth n).ge.staged.recs.get n = State.noGrant ∧
      OnlyTouches [.link (.v n), .orders (.v n), .berth n, .reference, .grants] s (u.abortBerth n)) ∧
    ((s.berth n).state = .returnWait → (u.abortBerth n).berth n = { s.berth n with
      state := if (s.berth n).markerSet then .adopted else .onShore
      returnLimit := none, permit := false, permitDeadTime := none, consenting := none, returnForced := false }) ∧
    ((s.berth n).state.isWaiting = false → (s.berth n).state ≠ .returnWait →
      (u.abortBerth n).berth n = { s.berth n with consenting := none, returnForced := false }) ∧
    ((s.berth n).state.isWaiting = false → OnlyTouches [.link (.v n), .orders (.v n), .berth n] s (u.abortBerth n)) := by
  have hbn : u.berth n = s.berth n := by unfold State.berth; rw [hb]
  rw [← hbn]
  refine ⟨fun hst => ?_, fun hst => ?_, fun hst hst' => ?_, fun hst => ?_⟩
  · have hframe : OnlyTouches [.link (.v n), .orders (.v n), .berth n, .reference, .grants] s (u.abortBerth n) :=
      onlyTouches_trans (onlyTouches_mono hu (by simp)) (onlyTouches_mono (u.onlyTouches_abortBerth_waiting hst) (by simp))
    rw [State.abortBerth_waiting hst] at hframe ⊢
    have hout := (u.modBerth n fun b => { b with consenting := none, returnForced := false }).outOfClaims_abandon n .plugged
    refine ⟨by simp [State.berth, Berth.stopTimers], hout.window, fun hholder => ?_, by simp [State.isAdmitted, State.grantBerth],
      by simp, by simp [GrantSet.put], by simp [GrantSet.put], hframe⟩
    obtain ⟨r, hr, hrn⟩ := Option.map_eq_some_iff.mp hholder
    exact hout.holder r hr hrn
  · rw [State.abortBerth_returnWait hst]
    simp [State.berth, State.backFromReturn, State.withdrawPermit, Berth.markerSet]
  · rw [State.abortBerth_other hst hst']
    simp [State.berth]
  · exact onlyTouches_trans (onlyTouches_mono hu (by simp)) (onlyTouches_mono (State.onlyTouches_abortBerth hst) (by simp))

/-- Settles O41. -/
theorem cancelAnswers : Obligations.CancelAnswers := by
  refine ⟨fun s p payload h hopen hroom => cancel_answers h hopen hroom,
    fun s n count head rest r o k h hopen hroom hq hc hrun => ?_, fun s p count head rest r o k h hopen hroom hq hc hrun hkind => ?_⟩
  · obtain ⟨u, hb, -, hu, hexec, hslot, horders, hport⟩ :=
      cancelHead_answers (port := byteOf n.toNat) h hopen hroom (byteOf_code (.v n)) hq hc hrun
    refine ⟨_, hexec, hslot, horders, hport, fun hx => ?_, fun f l hx => ?_⟩
    · have habort : u.abortOrder (.v n) o.order = u.abortBerth n := by
        rcases hx with ⟨_, hx⟩ | ⟨_, hx⟩ <;> rw [hx] <;> rfl
      rw [habort]
      exact abortBerth_answers hb hu
    · have habort : u.abortOrder (.v n) o.order = u.dropWaiter (.v n) := by rw [hx]; rfl
      rw [habort]
      refine ⟨fun m second w hw => ?_, onlyTouches_trans (onlyTouches_mono hu (by simp))
        (onlyTouches_mono (u.onlyTouches_dropWaiter _) (by simp))⟩
      rw [State.flag_dropWaiter] at hw
      simpa using (List.mem_filter.mp hw).2
  · obtain ⟨u, -, hflag, hu, hexec, hslot, horders, -⟩ :=
      cancelHead_answers (port := byteOf p.code) h hopen hroom (byteOf_code p) hq hc hrun
    have hquiet : (∃ d, o.order = .delay d) ∨ o.order = .release → u.abortOrder p o.order = u := by
      rintro (⟨_, hx⟩ | hx) <;> rw [hx] <;> rfl
    have hwait : ∀ f l, o.order = .waitFlag f l → u.abortOrder p o.order = u.dropWaiter p := by
      rintro f l hx
      rw [hx]
      rfl
    refine ⟨_, hexec, hslot, horders, fun f l hx m second => ?_, fun hx => (hquiet hx).symm ▸ hu, ?_⟩
    · rw [hwait f l hx, State.flag_dropWaiter, hflag]
    · have hall := onlyTouches_mono (m := [.link p, .orders p, .flags]) hu (by simp)
      rcases hkind with hx | hx | ⟨f, l, hx⟩
      · rw [hquiet (.inl hx)]
        exact hall
      · rw [hquiet (.inr hx)]
        exact hall
      · rw [hwait f l hx]
        exact onlyTouches_trans hall (onlyTouches_mono (u.onlyTouches_dropWaiter p) (by simp))

end Sys2Proof.Machine

namespace Sys2Proof.Machine

/-! ### POWER_ON -/

namespace State

/-- The state in which a part that has been supplied begins (R185). -/
def poweredOn (inputs : Inputs) (s : State) : State := s.powerOnBlocks (checkedTable s.table) inputs

variable (s : State) (inputs : Inputs)

/-- An entry out of its range takes its default (R182). -/
theorem param_poweredOn {i : Nat} (h : i < 64) : (s.poweredOn inputs).param i =
    if entryOk i (s.param i) then s.param i else entryDefault i := by
  show (checkedTable s.table).getD i 0 = _
  rw [List.getD_eq_getElem?_getD]
  simp [checkedTable, h, param]

theorem orders_poweredOn (p : Port) : (s.poweredOn inputs).orders p = { queue := [], rolling := 0, accepted := 0, timer := none } :=
  freshOrders_get p

theorem flag_poweredOn (n : Ix) (second : Bool) : (s.poweredOn inputs).flag n second = { isSet := false, waiters := [] } := by
  cases n <;> cases second <;> rfl

theorem port_poweredOn (n : Ix) : (s.poweredOn inputs).port (.v n) =
    freshPort (decide ((inputs.outlet.get n).plug = .present)) := by
  cases n <;> rfl

theorem ship_poweredOn (n : Ix) : (s.poweredOn inputs).ship n =
    { side := if (inputs.outlet.get n).plug = .present then sideOf (inputs.outlet.get n).shipVoltage else .between
      window := .inactive, settle := none, difference := 10 * (inputs.outlet.get n).phase } := by
  cases n <;> simp [poweredOn, powerOnBlocks, ship, modPru]

theorem check_poweredOn (n : Ix) : (s.poweredOn inputs).check n = freshCheck := by
  cases n <;> rfl

theorem converter_poweredOn (m : Ix) : (s.poweredOn inputs).converter m = derivedModule (inputs.modules.get m) := by
  cases m <;> rfl

theorem berth_poweredOn (n : Ix) : (s.poweredOn inputs).berth n = derivedBerth ((s.poweredOn inputs).storedRating n)
    (s.poweredOn inputs).deadTime (inputs.outlet.get n) := by
  cases n <;> rfl

/-- The grant record of a berth: its rating where it is ADOPTED (R102). -/
theorem active_poweredOn (n : Ix) : (s.poweredOn inputs).ge.active.recs.get n =
    if ((s.poweredOn inputs).berth n).state = .adopted then
      mkGrant ((s.poweredOn inputs).berth n).rating 0 0 ((s.poweredOn inputs).berth n).bus
    else noGrant := by
  cases n <;> rfl

theorem staged_poweredOn (n : Ix) : (s.poweredOn inputs).ge.staged.recs.get n = noGrant := by
  cases n <;> rfl

theorem grantBerth_poweredOn (n : Ix) : (s.poweredOn inputs).grantBerth n = { freshGrantBerth with
    adoptionUnread := decide (((s.poweredOn inputs).berth n).state = .adopted)
    firm := ((s.poweredOn inputs).ge.active.recs.get n).firm } := by
  cases n <;> rfl

theorem busBInUse_poweredOn : (s.poweredOn inputs).pru.busBInUse = true ↔
    ∃ n, ((s.poweredOn inputs).berth n).bus = .b ∧ ((s.poweredOn inputs).berth n).breaker ≠ .opened := by
  have h : (s.poweredOn inputs).pru.busBInUse = (s.poweredOn inputs).busBUsed := rfl
  rw [h, busBUsed, decide_eq_true_eq, countSix_pos]
  simp

theorem roundClosed_poweredOn : (s.poweredOn inputs).cs.roundClosed = true ↔ ∀ n, (inputs.outlet.get n).plug = .absent := by
  have h : (s.poweredOn inputs).cs.roundClosed =
      (Ix.all.filter fun n => decide ((inputs.outlet.get n).plug = .present)).isEmpty := rfl
  have habsent : ∀ n, (inputs.outlet.get n).plug ≠ .present ↔ (inputs.outlet.get n).plug = .absent := fun n => by
    cases (inputs.outlet.get n).plug <;> simp
  rw [h, List.isEmpty_iff, List.filter_eq_nil_iff]
  simp only [decide_eq_true_eq, ← habsent]
  exact ⟨fun hn n => hn n (by cases n <;> decide), fun hn n _ => hn n⟩

end State

/-- The record of a module derived from its inputs (R86). -/
theorem derivedModule_eq (i : ModuleInputs) : derivedModule i =
    { seconds := 0, outPending := false, startLimit := none, stopTimer := none
      cause := if i.fault then some .tripped else none
      state := if i.fault then .faulted else if i.ready then .online else .off } ∧
    ((derivedModule i).state.runCommand = true ↔ i.fault = false ∧ i.ready = true) := by
  unfold derivedModule
  cases i.fault <;> cases i.ready <;> decide

/-- The record of a berth derived from its inputs (R30, R52). -/
theorem derivedBerth_answers {o : OutletInputs} {rating td : Nat} {b : Berth} (hb : b = derivedBerth rating td o) :
    (o.plug = .absent → o.breaker = .opened → b.state = .vacant ∧ b.breaker = .opened ∧ b.tripCause = none) ∧
    (o.plug = .present → o.breaker = .opened → b.state = .plugged ∧ b.breaker = .opened ∧ b.tripCause = none) ∧
    (o.plug = .present → o.breaker = .closed → o.selector ≠ .none →
      b.state = .adopted ∧ b.breaker = .closed ∧ b.tripCause = none) ∧
    (o.plug = .present → o.breaker = .closed → o.selector = .none →
      b.state = .tripped ∧ b.breaker = .openSent ∧ b.tripCause = some .closeFail) ∧
    (o.plug = .absent → o.breaker = .closed → b.state = .tripped ∧ b.breaker = .openSent ∧ b.tripCause = some .pilotLost) ∧
    (o.breaker = .inTravel → b.state = .tripped ∧ b.breaker = .openSent ∧ b.tripCause = some .closeFail) := by
  have hst : (b.state, b.breaker, b.tripCause) = OutletInputs.derived o := by rw [hb]; rfl
  unfold OutletInputs.derived at hst
  refine ⟨fun hp hbr => ?_, fun hp hbr => ?_, fun hp hbr hsel => ?_, fun hp hbr hsel => ?_, fun hp hbr => ?_, fun hbr => ?_⟩
  case refine_3 =>
    rw [hp, hbr] at hst
    cases hs : o.selector <;> simp [hs] at hst hsel <;> exact hst
  case refine_6 =>
    rw [hbr] at hst
    cases hp : o.plug <;> simp [hp] at hst <;> exact hst
  all_goals simpa [*] using hst

/-- The firm grant and the firm figure of a berth at power-on (R30, R102). -/
theorem State.firm_poweredOn (s : State) (inputs : Inputs) (n : Ix) :
    ((s.poweredOn inputs).grantBerth n).firm = (if ((s.poweredOn inputs).berth n).state = .adopted then
      ((s.poweredOn inputs).berth n).rating else 0) ∧
    (((s.poweredOn inputs).berth n).state = .adopted →
      ((s.poweredOn inputs).ge.active.recs.get n).firm = ((s.poweredOn inputs).berth n).rating ∧
      ((s.poweredOn inputs).ge.active.recs.get n).flexible = 0) := by
  rw [grantBerth_poweredOn, active_poweredOn]
  refine ⟨?_, fun h => ?_⟩
  · split <;> rfl
  · rw [if_pos h]
    exact ⟨rfl, rfl⟩

/-- Settles O9. -/
theorem powerOnValues : Obligations.PowerOnValues := by
  refine ⟨fun s inputs => ?_, fun s inputs n => ?_⟩
  · refine ⟨s.poweredOn inputs, rfl, rfl, rfl, rfl, rfl, fun i hi => s.param_poweredOn inputs hi, rfl, s.orders_poweredOn inputs,
      s.flag_poweredOn inputs, rfl, s.port_poweredOn inputs, rfl, rfl, rfl, rfl, rfl, rfl, s.busBInUse_poweredOn inputs,
      fun n => ?_, rfl, rfl, rfl, rfl, s.roundClosed_poweredOn inputs, fun m => ?_, rfl, rfl, rfl, rfl, rfl, rfl, rfl, rfl, rfl, rfl,
      rfl, rfl, s.staged_poweredOn inputs, rfl, rfl, rfl, fun n => ?_⟩
    · rw [s.ship_poweredOn inputs n]
      exact ⟨rfl, rfl, s.check_poweredOn inputs n, rfl⟩
    · unfold State.runCommand
      rw [s.converter_poweredOn inputs m]
      exact derivedModule_eq _
    · unfold State.isAdmitted
      rw [s.grantBerth_poweredOn inputs n]
      exact ⟨rfl, rfl, rfl, rfl, rfl, rfl⟩
  · refine ⟨s.poweredOn inputs, rfl, fun o b ho hb => ?_⟩
    subst ho
    have hbd := hb.trans (s.berth_poweredOn inputs n)
    obtain ⟨h1, h2, h3, h4, h5, h6⟩ := derivedBerth_answers hbd
    obtain ⟨hfirm, hgrant⟩ := s.firm_poweredOn inputs n
    rw [← hb] at hfirm hgrant
    refine ⟨h1, h2, h3, h4, h5, h6, ?_, ?_, ?_, ?_, ?_, ?_, ?_, ?_, ?_, ?_, ?_, ?_, ?_, ?_, ?_, ?_, ?_, ?_, ?_, ?_, ?_, ?_, ?_,
      hfirm, hgrant⟩
    all_goals
      rw [hbd]
      rfl

end Sys2Proof.Machine

namespace Sys2Proof.Machine

/-! ### What the berths do by themselves leaves the orders of a port that none of them names -/

/-- No flag and no berth names an order of a port. -/
structure NotNamed (p : Port) (s : State) : Prop where
  noWait : ∀ n second, ∀ w ∈ (s.flag n second).waiters, w.port ≠ p
  noConsent : ∀ n r, (s.berth n).consenting = some r → r.port ≠ p

/-- The blocks that no step of a berth touches, and the orders of a port that no flag and no berth names. -/
structure Aside (p : Port) (s t : State) : Prop where
  powered : t.powered = s.powered
  now : t.now = s.now
  table : t.table = s.table
  inputs : t.inputs = s.inputs
  held : t.oe.held = s.oe.held
  cp : t.cp = s.cp
  gi : t.gi = s.gi
  pending : t.pending = s.pending
  orders : NotNamed p s → t.orders p = s.orders p
  notNamed : NotNamed p s → NotNamed p t

namespace Aside

variable {p : Port} {s t u : State}

theorem refl (p : Port) (s : State) : Aside p s s :=
  ⟨rfl, rfl, rfl, rfl, rfl, rfl, rfl, rfl, fun _ => rfl, id⟩

theorem trans (h : Aside p s t) (h' : Aside p t u) : Aside p s u :=
  ⟨h'.powered.trans h.powered, h'.now.trans h.now, h'.table.trans h.table, h'.inputs.trans h.inputs, h'.held.trans h.held,
    h'.cp.trans h.cp, h'.gi.trans h.gi, h'.pending.trans h.pending, fun hn => (h'.orders (h.notNamed hn)).trans (h.orders hn),
    fun hn => h'.notNamed (h.notNamed hn)⟩

/-- A step that leaves the Order Engine and gives no berth a consenting order. -/
theorem of_oe (h1 : t.powered = s.powered) (h2 : t.now = s.now) (h3 : t.table = s.table) (h4 : t.inputs = s.inputs)
    (h5 : t.oe = s.oe) (h6 : t.cp = s.cp) (h7 : t.gi = s.gi) (h8 : t.pending = s.pending)
    (hc : ∀ m, (t.berth m).consenting = (s.berth m).consenting) : Aside p s t :=
  ⟨h1, h2, h3, h4, by rw [h5], h6, h7, h8, fun _ => by unfold State.orders; rw [h5], fun hn =>
    ⟨fun n b w hw => hn.noWait n b w (by
      rwa [State.flag_of_flags (s := s) (t := t) (by rw [h5])] at hw), fun n r hr => hn.noConsent n r (by rw [← hc]; exact hr)⟩⟩

/-- A step of one berth record besides. -/
theorem of_set {n : Ix} {b : Berth} (h1 : t.powered = s.powered) (h2 : t.now = s.now) (h3 : t.table = s.table)
    (h4 : t.inputs = s.inputs) (h5 : t.oe = s.oe) (h6 : t.cp = s.cp) (h7 : t.gi = s.gi) (h8 : t.pending = s.pending)
    (hb : t.berths = s.berths.set n b) (hc : b.consenting = (s.berth n).consenting) : Aside p s t := by
  refine of_oe h1 h2 h3 h4 h5 h6 h7 h8 fun m => ?_
  by_cases hm : m = n
  · subst hm
    rw [State.berth, hb, Six.get_set_same, hc]
  · simp [State.berth, hb, hm]

theorem endConsenting (n : Ix) (v : Verdict) (c : Code) (d : Nat) (s : State) : Aside p s (s.endConsenting n v c d) := by
  refine ⟨?_, ?_, ?_, ?_, ?_, ?_, ?_, ?_, fun hn => State.orders_endConsenting v c d (hn.noConsent n), fun hn =>
    ⟨fun m b w hw => hn.noWait m b w (by
      rwa [State.flag_of_flags (s := s) (by simp)] at hw), fun m r hr => hn.noConsent m r ?_⟩⟩
  case refine_9 =>
    by_cases hm : m = n
    · subst hm
      simp [State.berth] at hr
    · simpa [State.berth, hm] using hr
  all_goals simp

theorem postSource (n : Ix) (src : FlagSource) (s : State) : Aside p s (s.postSource n src) := by
  refine ⟨?_, ?_, ?_, ?_, ?_, ?_, ?_, ?_, fun hn => State.orders_postSource_ne src (hn.noWait n), fun hn =>
    ⟨fun m b w hw => ?_, fun m r hr => hn.noConsent m r (by simpa [State.berth] using hr)⟩⟩
  case refine_9 =>
    rw [State.flag_postSource] at hw
    split at hw
    · refine hn.noWait n b w ?_
      unfold SyncFlag.after at hw
      split at hw
      · exact hw
      · split at hw
        · exact hw
        · rename_i hf
          rw [hf]
          exact List.mem_cons_of_mem _ hw
    · exact hn.noWait m b w hw
  all_goals simp

theorem tripTo (n : Ix) (c : TripCause) (v : Nat) (d : BerthState) (q : Option Purpose) (s : State) :
    Aside p s (s.tripTo n c v d q) := by
  have hbefore : Aside p s (s.tripBefore n c d q) := by
    obtain ⟨hoe, hnow⟩ := State.oe_tripBefore n c d q s
    refine of_oe ?_ hnow ?_ ?_ hoe ?_ ?_ ?_ fun m => ?_
    case refine_7 =>
      by_cases hm : m = n
      · subst hm
        exact State.consenting_tripBefore m c d q s
      · unfold State.tripBefore State.berth
        simp only
        split <;> simp [State.withdrawPermit, hm, State.berths_commandOpen_ne]
    all_goals
      unfold State.tripBefore
      simp only
      split <;> simp [State.withdrawPermit]
  rw [State.tripTo_eq]
  have hnotify : ∀ u : State, Aside p u (u.notifyBoth n .trip c.index v) := fun u =>
    of_oe (by simp) (by simp) (by simp) (by simp) (by simp) (by simp) (by simp) (by simp) fun m => by simp [State.berth]
  exact ((hbefore.trans (endConsenting n _ _ _ _)).trans (hnotify _)).trans (postSource n _ _)

theorem trip (n : Ix) (c : TripCause) (s : State) : Aside p s (s.trip n c) := by
  unfold State.trip
  split
  · exact refl p s
  · exact tripTo _ _ _ _ _ _
  · exact tripTo _ _ _ _ _ _

theorem selectorCommand (n : Ix) (s : State) : Aside p s (s.selectorCommand n) :=
  of_set rfl rfl rfl rfl rfl rfl rfl rfl (State.berths_modBerth s n _) rfl

theorem setWindow (n : Ix) (w : Window) (x : Option Nat) (s : State) : Aside p s (s.setWindow n w x) :=
  of_oe rfl rfl rfl rfl rfl rfl rfl rfl fun _ => rfl

theorem enterSyncing (n : Ix) (s : State) : Aside p s (s.enterSyncing n) := by
  unfold State.enterSyncing
  simp only
  split <;>
    exact of_set (b := { s.berth n with state := .syncing, syncLimit := some s.syncTime }) (by simp) (by simp) (by simp)
      (by simp) (by simp) (by simp) (by simp) (by simp) (by simp [State.berth]) rfl

theorem enterDeadWait (n : Ix) (s : State) : Aside p s (s.enterDeadWait n) :=
  of_set rfl rfl rfl rfl rfl rfl rfl rfl (State.berths_modBerth s n _) rfl

theorem leaveAdmitting (n : Ix) (s : State) : Aside p s (s.leaveAdmitting n) := by
  unfold State.leaveAdmitting
  split
  · split
    · exact enterSyncing n s
    · exact enterDeadWait n s
  · exact enterDeadWait n s

theorem closeCommand (n : Ix) (a : Approach) (s : State) : Aside p s (s.closeCommand n a) := by
  refine of_set ?_ ?_ ?_ ?_ ?_ ?_ ?_ ?_ (State.berths_closeCommand n a s) rfl
  all_goals
    unfold State.closeCommand
    simp only
    split <;> simp [State.withdrawPermit]

theorem openFromReturn (n : Ix) (f : Bool) (s : State) : Aside p s (s.openFromReturn n f) := by
  refine of_oe (by simp) (by simp) (by simp) (by simp) (by simp) (by simp) (by simp) (by simp) fun m => ?_
  have ht : (s.openFromReturn n f).berths = (State.commandOpen n (s.modBerth n fun b =>
      { b with state := .opening, purpose := some .ret, parallelLimit := none, returnForced := f
               openPower := (s.outlet n).meterNow })).berths := (State.fields_departLive _ _).2.2.2.2.2.2.1
  rw [State.berth, ht, ← State.berth, State.consenting_commandOpen]
  by_cases hm : m = n
  · subst hm; simp [State.berth]
  · simp [State.berth, hm]

theorem enterOnShore (n : Ix) (s : State) : Aside p s (s.enterOnShore n) :=
  have h : Aside p s (s.modBerth n fun b => { b with state := .onShore }) :=
    of_set rfl rfl rfl rfl rfl rfl rfl rfl (State.berths_modBerth s n _) rfl
  h.trans (postSource n .onShoreEntered _)

/-- What a berth does next (log entry 5). -/
theorem berthNext {n : Ix} (h : s.berthNext n = some t) : Aside p s t := by
  have hcases : t = s.trip n .busLost ∨ t = s.selectorCommand n ∨ (∃ w x, t = s.setWindow n w x) ∨ t = s.leaveAdmitting n ∨
      (∃ a, t = s.closeCommand n a) ∨ t = s.openFromReturn n false ∨ t = s.enterOnShore n := by
    unfold State.berthNext at h
    repeat' split at h
    all_goals cases h
    · exact .inl rfl
    · exact .inr (.inl rfl)
    · exact .inr (.inr (.inl ⟨_, _, rfl⟩))
    · exact .inr (.inr (.inl ⟨_, _, rfl⟩))
    · exact .inr (.inr (.inr (.inl rfl)))
    · exact .inr (.inr (.inr (.inr (.inl ⟨_, rfl⟩))))
    · exact .inr (.inr (.inr (.inr (.inl ⟨_, rfl⟩))))
    · exact .inr (.inr (.inr (.inr (.inr (.inl rfl)))))
    · exact .inr (.inr (.inr (.inr (.inr (.inr rfl)))))
  rcases hcases with rfl | rfl | ⟨w, x, rfl⟩ | rfl | ⟨a, rfl⟩ | rfl | rfl
  · exact trip n .busLost s
  · exact selectorCommand n s
  · exact setWindow n w x s
  · exact leaveAdmitting n s
  · exact closeCommand n a s
  · exact openFromReturn n false s
  · exact enterOnShore n s

theorem followUpTo (k : Nat) (s : State) : Aside p s (State.followUpTo k s) := by
  induction k generalizing s with
  | zero => exact refl p s
  | succ k ih =>
    unfold State.followUpTo
    split
    · rename_i t ht
      obtain ⟨n, -, hn⟩ := List.exists_of_findSome?_eq_some ht
      exact (berthNext hn).trans (ih t)
    · exact refl p s

theorem follow (s : State) : Aside p s s.follow := followUpTo _ s

theorem chooseCheck (s : State) : Aside p s s.chooseCheck :=
  of_oe (by simp) (by simp) (by simp) (by simp) (by simp) (by simp) (by simp) (by simp) fun m => by simp [State.berth]

theorem warnLapse (n : Ix) (s : State) : Aside p s (s.warnLapse n) := by
  unfold State.warnLapse
  split
  · exact of_oe (by simp) (by simp) (by simp) (by simp) (by simp) (by simp) (by simp) (by simp) fun m => by simp [State.berth]
  · exact refl p s

theorem lapse (n : Ix) (s : State) : Aside p s (s.lapse n) := by
  unfold State.lapse
  split
  · split
    · exact (warnLapse n s).trans (trip n _ _)
    · exact warnLapse n s
  · split
    · exact (warnLapse n s).trans (trip n _ _)
    · exact warnLapse n s
  · exact refl p s
  · exact refl p s

end Aside

end Sys2Proof.Machine

namespace Sys2Proof.Machine

/-! ### Runs of parameter writes (R163, R184) -/

/-- How many values of a run from an index lie outside the ranges of their entries. -/
def clampedIn (i : Nat) (l : List Nat) : Nat := (List.range l.length).countP fun j => !entryOk (i + j) (l.getD j 0)

theorem clampedIn_cons (i v : Nat) (l : List Nat) :
    clampedIn i (v :: l) = (if entryOk i v then 0 else 1) + clampedIn (i + 1) l := by
  have htail : ((fun j => !entryOk (i + j) ((v :: l).getD j 0)) ∘ Nat.succ) = fun j => !entryOk (i + 1 + j) (l.getD j 0) := by
    funext j
    simp [Nat.add_assoc, Nat.add_comm 1 j]
  unfold clampedIn
  rw [List.length_cons, List.range_succ_eq_map, List.countP_cons, List.countP_map, htail, Nat.add_comm]
  congr 1
  show (if (!entryOk (i + 0) ((v :: l).getD 0 0)) = true then 1 else 0) = _
  rw [Nat.add_zero, List.getD_cons_zero]
  cases entryOk i v <;> rfl

/-- The first values of a list are counted where they stand in the list. -/
theorem clampedIn_take {i k : Nat} {l : List Nat} (h : k ≤ l.length) :
    clampedIn i (l.take k) = (List.range k).countP fun j => !entryOk (i + j) (l.getD j 0) := by
  unfold clampedIn
  rw [List.length_take, Nat.min_eq_left h]
  refine List.countP_congr fun j hj => ?_
  have hjk := List.mem_range.mp hj
  simp [hjk]

namespace State

/-- A run of values is stored one after another. -/
def storeRun : Nat → List Nat → State → State
  | _, [], s => s
  | i, v :: rest, s => storeRun (i + 1) rest (s.storeEntry i v)

theorem entryBlocked_low {i : Nat} (s : State) (h : i < 40) : s.entryBlocked i = false := by
  have : berthOfEntry i = none := by simp [berthOfEntry, h]
  simp [entryBlocked, this]

theorem berthOfEntry_rating (n : Ix) : berthOfEntry (40 + 4 * n.toNat) = some n ∧ berthOfEntry (41 + 4 * n.toNat) = some n := by
  cases n <;> decide

/-- A write at an index from 12 on works out the rating of the berth whose entry it is, and does nothing else (R2). -/
theorem entryWritten_high {i : Nat} (s : State) (h : 12 ≤ i) :
    (s.entryWritten i = s ∧ ∀ n, i ≠ 40 + 4 * Ix.toNat n) ∨ ∃ n, i = 40 + 4 * Ix.toNat n ∧ s.entryWritten i = s.rerate n := by
  have h0 : ¬ (i = 0 ∨ i = 1) := by omega
  have h6 : ¬ i = 6 := by omega
  have h9 : ¬ (i = 9 ∨ i = 10 ∨ i = 11) := by omega
  unfold entryWritten
  rw [if_neg h0, if_neg h6, if_neg h9]
  by_cases hlow : i < 40
  · rw [if_pos hlow]
    exact .inl ⟨rfl, fun n => by omega⟩
  rw [if_neg hlow]
  by_cases hmod : i % 4 = 0
  · rw [if_pos hmod]
    by_cases hn : ∃ n, i = 40 + 4 * Ix.toNat n
    · obtain ⟨n, rfl⟩ := hn
      exact .inr ⟨n, rfl, by rw [(berthOfEntry_rating n).1]⟩
    · refine .inl ⟨?_, fun n hi => hn ⟨n, hi⟩⟩
      have hhigh : 63 < i := by
        by_contra hle
        refine hn ?_
        have : i = 40 ∨ i = 44 ∨ i = 48 ∨ i = 52 ∨ i = 56 ∨ i = 60 := by omega
        rcases this with rfl | rfl | rfl | rfl | rfl | rfl
        exacts [⟨.i0, rfl⟩, ⟨.i1, rfl⟩, ⟨.i2, rfl⟩, ⟨.i3, rfl⟩, ⟨.i4, rfl⟩, ⟨.i5, rfl⟩]
      have : berthOfEntry i = none := by simp [berthOfEntry, hhigh]
      rw [this]
  · rw [if_neg hmod]
    exact .inl ⟨rfl, fun n hi => hmod (by omega)⟩

theorem berths_rerate (n : Ix) (s : State) : (s.rerate n).berths = s.berths.set n { s.berth n with
    rating := (s.berth n).ratingFor (s.storedRating n) } :=
  berths_modBerth s n _

/-- A write behind the ceilings touches none of the blocks that the berths' own steps leave alone. -/
theorem entryWritten_aside {p : Port} {i : Nat} (s : State) (h : 2 ≤ i) : Aside p s (s.entryWritten i) := by
  by_cases h12 : 12 ≤ i
  · rcases s.entryWritten_high h12 with ⟨he, -⟩ | ⟨n, -, he⟩
    · rw [he]
      exact .refl p s
    · rw [he]
      exact .of_set rfl rfl rfl rfl rfl rfl rfl rfl (s.berths_rerate n) rfl
  · have h0 : ¬ (i = 0 ∨ i = 1) := by omega
    have hlow : i < 40 := by omega
    unfold entryWritten
    rw [if_neg h0, if_pos hlow]
    split
    · have hlapses : Aside p s.chooseCheck (s.chooseCheck.forEach Ix.all fun n t => t.lapse n) :=
        keep_forEach (P := Aside p s.chooseCheck) (fun n t ht => ht.trans (Aside.lapse n t)) _ (.refl p _)
      exact ((Aside.chooseCheck s).trans hlapses).trans (Aside.follow _)
    · split
      · exact Aside.follow s
      · exact .refl p s

theorem entryWritten_ceiling {i : Nat} (s : State) (h : i ≤ 1) : s.entryWritten i = s.reformCeiling := if_pos (by omega)

end State

/-- What a run of writes leaves: blocks that no entry has to do with, and the orders of a port that no flag and no berth names. -/
structure Wrote (p : Port) (s t : State) : Prop where
  powered : t.powered = s.powered
  now : t.now = s.now
  inputs : t.inputs = s.inputs
  held : t.oe.held = s.oe.held
  cp : t.cp = s.cp
  pending : t.pending = s.pending
  orders : NotNamed p s → t.orders p = s.orders p
  notNamed : NotNamed p s → NotNamed p t

theorem Wrote.refl (p : Port) (s : State) : Wrote p s s := ⟨rfl, rfl, rfl, rfl, rfl, rfl, fun _ => rfl, id⟩

theorem Wrote.trans {p : Port} {s t u : State} (h : Wrote p s t) (h' : Wrote p t u) : Wrote p s u :=
  ⟨h'.powered.trans h.powered, h'.now.trans h.now, h'.inputs.trans h.inputs, h'.held.trans h.held, h'.cp.trans h.cp,
    h'.pending.trans h.pending, fun hn => (h'.orders (h.notNamed hn)).trans (h.orders hn), fun hn => h'.notNamed (h.notNamed hn)⟩

theorem Aside.wrote {p : Port} {s t : State} (h : Aside p s t) : Wrote p s t :=
  ⟨h.powered, h.now, h.inputs, h.held, h.cp, h.pending, h.orders, h.notNamed⟩

namespace State

theorem wrote_modTable (p : Port) (f : List Nat → List Nat) (s : State) : Wrote p s (s.modTable f) :=
  ⟨rfl, rfl, rfl, rfl, rfl, rfl, fun _ => rfl, fun hn => ⟨hn.noWait, hn.noConsent⟩⟩

theorem wrote_storeEntry (p : Port) (i v : Nat) (s : State) : Wrote p s (s.storeEntry i v) := by
  unfold storeEntry
  by_cases h : 2 ≤ i
  · exact (wrote_modTable p _ s).trans (entryWritten_aside _ h).wrote
  · have hceil : ∀ u : State, Wrote p u u.reformCeiling := fun u =>
      ⟨rfl, rfl, rfl, rfl, rfl, rfl, fun _ => rfl, fun hn => ⟨hn.noWait, hn.noConsent⟩⟩
    rw [entryWritten_ceiling _ (by omega)]
    exact (wrote_modTable p _ s).trans (hceil _)

theorem table_storeEntry (i v : Nat) (s : State) : (s.storeEntry i v).table = s.table.set i (entryClamp i v) := by
  unfold storeEntry
  by_cases h : 2 ≤ i
  · exact (entryWritten_aside (p := .t) _ h).table
  · rw [entryWritten_ceiling _ (by omega)]
    rfl

theorem gi_storeEntry {i : Nat} (v : Nat) (s : State) (h : 2 ≤ i) : (s.storeEntry i v).gi = s.gi :=
  (entryWritten_aside (p := .t) (s.modTable _) h).gi

/-- The berth records behind a write from index 12 on (R2). -/
theorem berth_storeEntry {i : Nat} (v : Nat) (s : State) (h : 12 ≤ i) (n : Ix) : (s.storeEntry i v).berth n =
    if i = 40 + 4 * n.toNat then { s.berth n with
      rating := (s.berth n).ratingFor ((s.storeEntry i v).storedRating n) }
    else s.berth n := by
  have htab := s.table_storeEntry i v
  unfold storeEntry at htab ⊢
  rcases (s.modTable fun l => l.set i (entryClamp i v)).entryWritten_high h with ⟨he, hno⟩ | ⟨m, hi, he⟩
  · rw [if_neg (hno n), he]
    rfl
  · have hm : i = 40 + 4 * n.toNat ↔ n = m := by
      rw [hi]
      refine ⟨fun e => ?_, fun e => by rw [e]⟩
      exact (toNat_injective (by omega)).symm
    simp only [hm, he]
    by_cases hnm : n = m
    · subst hnm
      rw [if_pos rfl, berth, berths_rerate, Six.get_set_same]
      rfl
    · rw [if_neg hnm, berth, berths_rerate, Six.get_set_ne _ _ hnm]
      rfl

theorem entryBlocked_storeEntry {i : Nat} (v j : Nat) (s : State) (h : 12 ≤ i) :
    (s.storeEntry i v).entryBlocked j = s.entryBlocked j := by
  have hst : ∀ n, ((s.storeEntry i v).berth n).state = (s.berth n).state := fun n => by
    rw [berth_storeEntry v s h n]
    split <;> rfl
  simp only [entryBlocked, hst]

theorem onlyTouches_storeEntry {i : Nat} (v : Nat) (s : State) (h : 12 ≤ i) :
    OnlyTouches (.table :: Ix.all.map Part.berth) s (s.storeEntry i v) := by
  unfold storeEntry
  have ht : OnlyTouches (.table :: Ix.all.map Part.berth) s (s.modTable fun l => l.set i (entryClamp i v)) :=
    onlyTouches_mono (onlyTouches_modTable _) (by simp)
  rcases (s.modTable fun l => l.set i (entryClamp i v)).entryWritten_high h with ⟨he, -⟩ | ⟨m, -, he⟩ <;> rw [he]
  · exact ht
  · refine onlyTouches_trans ht (onlyTouches_mono (onlyTouches_modBerth m _) fun b hb => ?_)
    obtain rfl := List.mem_singleton.mp hb
    exact List.mem_cons_of_mem _ (List.mem_map_of_mem (by cases m <;> decide))

end State

end Sys2Proof.Machine

namespace Sys2Proof.Machine

namespace State

/-- Every entry of a run can be written: it exists, and it belongs to no berth in use (R163). -/
def Writable (i k : Nat) (s : State) : Prop := ∀ j, i ≤ j → j < i + k → j ≤ 63 ∧ (j < 40 ∨ 12 ≤ i ∧ s.entryBlocked j = false)

theorem Writable.head {i k : Nat} {s : State} (h : Writable i (k + 1) s) : ¬ 63 < i ∧ s.entryBlocked i = false := by
  obtain ⟨hi, hb⟩ := h i le_rfl (by omega)
  exact ⟨by omega, hb.elim s.entryBlocked_low And.right⟩

theorem Writable.tail {i k : Nat} {s : State} (v : Nat) (h : Writable i (k + 1) s) : Writable (i + 1) k (s.storeEntry i v) := by
  intro j hj hk
  obtain ⟨hle, hb⟩ := h j (by omega) (by omega)
  refine ⟨hle, hb.imp_right fun ⟨h12, hfree⟩ => ⟨by omega, ?_⟩⟩
  rw [entryBlocked_storeEntry v j s h12]
  exact hfree

/-- A run that can be written is stored, and what follows it is written next (R163). -/
theorem writeRun_append {l rest : List Nat} {i st cl : Nat} {s : State} (h : Writable i l.length s) :
    writeRun i (l ++ rest) st cl s =
      writeRun (i + l.length) rest (st + l.length) (cl + clampedIn i l) (storeRun i l s) := by
  induction l generalizing i st cl s with
  | nil => rfl
  | cons v l ih =>
    obtain ⟨hi, hb⟩ := h.head
    show (if 63 < i then _ else _) = _
    rw [if_neg hi, hb, if_neg Bool.false_ne_true, List.append_eq, ih (h.tail v), clampedIn_cons, storeRun, List.length_cons]
    congr 1 <;> omega

theorem writeRun_all {l : List Nat} {i : Nat} {s : State} (h : Writable i l.length s) :
    writeRun i l 0 0 s = (storeRun i l s, doneClamped (clampedIn i l) (clampedIn i l) l.length) := by
  have := writeRun_append (rest := []) (st := 0) (cl := 0) h
  rw [List.append_nil] at this
  rw [this]
  simp [writeRun]

theorem writeRun_blocked {l rest : List Nat} {i v : Nat} {s : State} (h : Writable i l.length s) (hle : i + l.length ≤ 63)
    (hb : (storeRun i l s).entryBlocked (i + l.length) = true) : writeRun i (l ++ v :: rest) 0 0 s =
      (storeRun i l s, { verdict := .failed, code := .live, d1 := i + l.length, d2 := l.length }) := by
  rw [writeRun_append h]
  simp [writeRun, hb, Nat.not_lt.mpr hle]

theorem writeRun_overrun {l rest : List Nat} {i v : Nat} {s : State} (h : Writable i l.length s) (hgt : 63 < i + l.length) :
    writeRun i (l ++ v :: rest) 0 0 s =
      (storeRun i l s, { verdict := .failed, code := .runOverrun, d1 := l.length, d2 := clampedIn i l }) := by
  rw [writeRun_append h]
  simp [writeRun, hgt]

/-! ### What a run leaves -/

theorem wrote_storeRun (p : Port) (i : Nat) (l : List Nat) (s : State) : Wrote p s (storeRun i l s) := by
  induction l generalizing i s with
  | nil => exact .refl p s
  | cons v l ih => exact (wrote_storeEntry p i v s).trans (ih _ _)

theorem param_storeEntry {i : Nat} (v j : Nat) {s : State} (hs : s.table.length = 64) (hi : i < 64) :
    (s.storeEntry i v).param j = if j = i then entryClamp i v else s.param j := by
  unfold param
  rw [table_storeEntry, List.getD_eq_getElem?_getD]
  by_cases h : j = i
  · subst h
    rw [if_pos rfl, List.getElem?_set_self (by omega)]
    rfl
  · rw [if_neg h, List.getElem?_set_ne (Ne.symm h), ← List.getD_eq_getElem?_getD]

theorem length_storeEntry (i v : Nat) (s : State) : (s.storeEntry i v).table.length = s.table.length := by
  rw [table_storeEntry, List.length_set]

/-- The entries of a run hold its values, each clamped, and every other entry its own (R184). -/
theorem param_storeRun {i : Nat} {l : List Nat} (j : Nat) {s : State} (hs : s.table.length = 64) (hi : i + l.length ≤ 64) :
    (storeRun i l s).param j = if i ≤ j ∧ j < i + l.length then entryClamp j (l.getD (j - i) 0) else s.param j := by
  induction l generalizing i s with
  | nil => rw [if_neg (by simp only [List.length_nil]; omega), storeRun]
  | cons v l ih =>
    rw [List.length_cons] at hi
    rw [storeRun, ih (by rw [length_storeEntry, hs]) (by omega), param_storeEntry v j hs (by omega), List.length_cons]
    by_cases hj : j = i
    · subst hj
      rw [if_neg (by omega), if_pos rfl, if_pos (by omega), Nat.sub_self, List.getD_cons_zero]
    · by_cases hin : i + 1 ≤ j ∧ j < i + 1 + l.length
      · have hsub : j - i = (j - (i + 1)) + 1 := by omega
        rw [if_pos hin, if_pos (by omega), hsub, List.getD_cons_succ]
      · rw [if_neg hin, if_neg hj, if_neg (by omega)]

theorem gi_storeRun {i : Nat} (l : List Nat) (s : State) (h : 2 ≤ i) : (storeRun i l s).gi = s.gi := by
  induction l generalizing i s with
  | nil => rfl
  | cons v l ih => rw [storeRun, ih _ (by omega), gi_storeEntry v s h]

/-- The ceiling in force that two entries of the table give (R93). -/
theorem gi_reformCeiling (s : State) : s.reformCeiling.gi = { s.gi with
    ceiling := if s.gi.state = .current then min (s.gi.received.getD 0) (s.param 0) else min (s.param 1) (s.param 0) } := by
  have : s.formedCeiling = if s.gi.state = .current then min (s.gi.received.getD 0) (s.param 0) else min (s.param 1) (s.param 0) := by
    unfold formedCeiling
    cases s.gi.state <;> rfl
  rw [← this]
  rfl

theorem gi_storeEntry_low {i : Nat} (v : Nat) (s : State) (h : i ≤ 1) : (s.storeEntry i v).gi = { s.gi with
    ceiling := if s.gi.state = .current then min (s.gi.received.getD 0) ((s.storeEntry i v).param 0)
      else min ((s.storeEntry i v).param 1) ((s.storeEntry i v).param 0) } := by
  unfold storeEntry
  rw [entryWritten_ceiling _ h]
  exact gi_reformCeiling (s.modTable _)

/-- A run that begins with a ceiling forms L with the values that its end leaves (R93). -/
theorem gi_storeRun_low {i : Nat} {l : List Nat} {s : State} (hs : s.table.length = 64) (hi : i ≤ 1) (hl : l ≠ [])
    (hlen : i + l.length ≤ 64) : (storeRun i l s).gi = { s.gi with
      ceiling := if s.gi.state = .current then min (s.gi.received.getD 0) ((storeRun i l s).param 0)
        else min ((storeRun i l s).param 1) ((storeRun i l s).param 0) } := by
  -- behind index 1 neither L nor the two entries change
  have behind : ∀ (l : List Nat) (u : State), u.table.length = 64 → 2 + l.length ≤ 64 → (storeRun 2 l u).gi = u.gi ∧
      (storeRun 2 l u).param 0 = u.param 0 ∧ (storeRun 2 l u).param 1 = u.param 1 := fun l u hu hlu => by
    refine ⟨gi_storeRun l u le_rfl, ?_, ?_⟩ <;> rw [param_storeRun _ hu hlu, if_neg (by omega)]
  have one : ∀ (v : Nat) (l : List Nat) (u : State), u.table.length = 64 → 2 + l.length ≤ 64 → (storeRun 1 (v :: l) u).gi =
      { u.gi with
        ceiling := if u.gi.state = .current then min (u.gi.received.getD 0) ((storeRun 1 (v :: l) u).param 0)
          else min ((storeRun 1 (v :: l) u).param 1) ((storeRun 1 (v :: l) u).param 0) } := fun v l u hu hlu => by
    obtain ⟨h1, h2, h3⟩ := behind l (u.storeEntry 1 v) (by rw [length_storeEntry, hu]) hlu
    rw [storeRun, h1, h2, h3]
    exact gi_storeEntry_low v u le_rfl
  obtain ⟨v, l, rfl⟩ : ∃ v r, l = v :: r := List.exists_cons_of_ne_nil hl
  rw [List.length_cons] at hlen
  obtain rfl | rfl : i = 0 ∨ i = 1 := by omega
  · have h0 := gi_storeEntry_low v s (i := 0) (by omega)
    cases l with
    | nil => exact h0
    | cons v' l =>
      rw [List.length_cons] at hlen
      have h1 := one v' l (s.storeEntry 0 v) (by rw [length_storeEntry, hs]) (by omega)
      rw [storeRun, h1, h0]
  · exact one v l s hs (by omega)

/-- The berth records behind a run from index 12 on (R2). -/
theorem berth_storeRun {i : Nat} {l : List Nat} {s : State} (hs : s.table.length = 64) (h12 : 12 ≤ i) (hlen : i + l.length ≤ 64)
    (n : Ix) : (storeRun i l s).berth n = if i ≤ 40 + 4 * n.toNat ∧ 40 + 4 * n.toNat < i + l.length then { s.berth n with
      rating := (s.berth n).ratingFor ((storeRun i l s).param (40 + 4 * n.toNat)) }
    else s.berth n := by
  induction l generalizing i s with
  | nil => rw [if_neg (by simp only [List.length_nil]; omega), storeRun]
  | cons v l ih =>
    rw [List.length_cons] at hlen
    have hs' : (s.storeEntry i v).table.length = 64 := by rw [length_storeEntry, hs]
    rw [storeRun, ih hs' (by omega) (by omega), List.length_cons, berth_storeEntry v s h12 n]
    by_cases hi : i = 40 + 4 * n.toNat
    · have hp : (storeRun (i + 1) l (s.storeEntry i v)).param (40 + 4 * n.toNat) = (s.storeEntry i v).storedRating n := by
        rw [param_storeRun _ hs' (by omega), if_neg (by omega)]
        rfl
      rw [if_neg (by omega), if_pos hi, if_pos (by omega), hp]
    · rw [if_neg hi]
      by_cases hin : i + 1 ≤ 40 + 4 * n.toNat ∧ 40 + 4 * n.toNat < i + 1 + l.length
      · rw [if_pos hin, if_pos (by omega)]
      · rw [if_neg hin, if_neg (by omega)]

theorem entryBlocked_storeRun {i : Nat} (l : List Nat) (j : Nat) {s : State} (h12 : 12 ≤ i) :
    (storeRun i l s).entryBlocked j = s.entryBlocked j := by
  induction l generalizing i s with
  | nil => rfl
  | cons v l ih => rw [storeRun, ih (by omega), entryBlocked_storeEntry v j s h12]

theorem onlyTouches_storeRun {i : Nat} (l : List Nat) (s : State) (h12 : 12 ≤ i) :
    OnlyTouches (.table :: Ix.all.map Part.berth) s (storeRun i l s) := by
  induction l generalizing i s with
  | nil => exact onlyTouches_refl _ s
  | cons v l ih => exact onlyTouches_trans (onlyTouches_storeEntry v s h12) (ih _ (by omega))

end State

end Sys2Proof.Machine

namespace Sys2Proof.Machine

/-! ### SET_PARAMETER -/

theorem setParameter_argOk {start count : Byte} {v1 v2 v3 v4 v5 : Word} {stop : Bool} (h1 : 1 ≤ count.toNat) (h5 : count.toNat ≤ 5)
    (hs : start.toNat ≤ 63) : (OrderRec.mk (.setParameter start count v1 v2 v3 v4 v5) stop 0).commonCheck .t = none := by
  refine commonCheck_terminal (n := .i0) rfl rfl ?_
  have e0 : ¬ count.toNat = 0 := by omega
  simp [Order.badArgument, Nat.not_lt.mpr h5, Nat.not_lt.mpr hs, e0]

theorem PortReady.notNamed {s w : State} {p : Port} {o : OrderRec} (h : PortReady s p) (hw : w = s.withRunning p o) :
    NotNamed p w := by
  subst hw
  exact ⟨fun n b x hx => h.noWait n b x hx, fun n r hr => h.noConsent n r hr⟩

/-- SET_PARAMETER ends with the record that its run gives. -/
theorem setParameter_ends {s u w : State} {stop : Bool} {start count : Byte} {v1 v2 v3 v4 v5 : Word} {vals : List Nat} {st : Status}
    (h : PortReady s .t) (hvals : vals = [v1.toNat, v2.toNat, v3.toNat, v4.toNat, v5.toNat]) (h1 : 1 ≤ count.toNat)
    (h5 : count.toNat ≤ 5) (hs : start.toNat ≤ 63)
    (hw : w = s.withRunning .t ⟨.setParameter start count v1 v2 v3 v4 v5, stop, 0⟩)
    (hrun : State.writeRun start.toNat (vals.take count.toNat) 0 0 w = (u, st)) (hu : Wrote .t w u) :
    exec (.setParameter .t stop start count v1 v2 v3 v4 v5) s = .next (u.endOrder (s.nextRef .t) st).settle ∧
      OrderEnds (.setParameter .t stop start count v1 v2 v3 v4 v5) s st (u.endOrder (s.nextRef .t) st) := by
  have htake : w.takeSetParameter start count [v1, v2, v3, v4, v5] = (u, some st) := by
    unfold State.takeSetParameter
    have hl : ([v1, v2, v3, v4, v5].take count.toNat).map BitVec.toNat = vals.take count.toNat := by
      rw [hvals, List.map_take]
      rfl
    rw [hl, hrun]
  refine order_ends (c := .setParameter .t stop start count v1 v2 v3 v4 v5) rfl h (setParameter_argOk h1 h5 hs)
    (by rw [← hw]; exact htake) ?_
  rw [hu.orders (h.notNamed hw), hw]
  exact queue_withRunning

theorem getD_take {l : List Nat} {j k : Nat} (h : j < k) : (l.take k).getD j 0 = l.getD j 0 := by
  simp [h]

section Runs

variable {s w : State} {stop : Bool} {start count : Byte} {v1 v2 v3 v4 v5 : Word} {vals : List Nat}
  (hw : w = s.withRunning .t ⟨.setParameter start count v1 v2 v3 v4 v5, stop, 0⟩)
include hw

/-- The entries that a run of `k` values can write, told of the state before the order (R163). -/
theorem writable_taken {k : Nat} (hk : k ≤ 5) (hle : start.toNat + k ≤ 64)
    (hfree : ∀ i, start.toNat ≤ i → i < start.toNat + k → s.entryBlocked i = false) : State.Writable start.toNat k w := by
  intro j hj hjk
  refine ⟨by omega, ?_⟩
  by_cases h40 : j < 40
  · exact .inl h40
  · refine .inr ⟨by omega, ?_⟩
    rw [hw]
    exact hfree j hj hjk

/-- The entries behind a run of the first `k` values (R184). -/
theorem param_taken {k : Nat} (ht : TableInv s) (hle : start.toNat + k ≤ 64)
    (hlen : (vals.take k).length = k) (j : Nat) : (State.storeRun start.toNat (vals.take k) w).param j =
      if start.toNat ≤ j ∧ j < start.toNat + k then entryClamp j (vals.getD (j - start.toNat) 0) else s.param j := by
  have hlw : w.table.length = 64 := by rw [hw]; exact ht.1
  rw [State.param_storeRun j hlw (by omega), hlen]
  have hp : w.param j = s.param j := by rw [hw]; rfl
  rw [hp]
  split
  · rw [getD_take (by omega)]
  · rfl

/-- The berth records behind a run of the first `k` values (R2). -/
theorem berth_taken {k : Nat} (ht : TableInv s) (h12 : 12 ≤ start.toNat) (hle : start.toNat + k ≤ 64)
    (hlen : (vals.take k).length = k) (n : Ix) : (State.storeRun start.toNat (vals.take k) w).berth n =
      if start.toNat ≤ 40 + 4 * n.toNat ∧ 40 + 4 * n.toNat < start.toNat + k then { s.berth n with
        rating := (s.berth n).ratingFor ((State.storeRun start.toNat (vals.take k) w).param (40 + 4 * n.toNat)) }
      else s.berth n := by
  have hlw : w.table.length = 64 := by rw [hw]; exact ht.1
  have hb : w.berth n = s.berth n := by rw [hw]; rfl
  rw [State.berth_storeRun hlw h12 (by omega), hlen, hb]

theorem onlyTouches_taken_run {l : List Nat} {st : Status} (h12 : 12 ≤ start.toNat) :
    OnlyTouches ([.link .t, .orders .t, .table] ++ Ix.all.map Part.berth) s
      ((State.storeRun start.toNat l w).endOrder (s.nextRef .t) st) := by
  refine onlyTouches_taken hw (by simp) (by simp) (onlyTouches_trans
    (onlyTouches_mono (State.onlyTouches_storeRun l w h12) fun b hb => ?_)
    (onlyTouches_mono (onlyTouches_endOrder (s.nextRef .t) st) (by simp [State.nextRef])))
  rcases List.mem_cons.mp hb with rfl | hb
  · simp
  · exact List.mem_append_right _ hb

end Runs

/-- A run none of whose entries is blocked or behind the table (R163, R184). -/
theorem setParameter_stores {s : State} {stop : Bool} {start count : Byte} {v1 v2 v3 v4 v5 : Word} {vals : List Nat} {row : Instr}
    (h : PortReady s .t) (ht : TableInv s) (hrow : row = .setParameter .t stop start count v1 v2 v3 v4 v5)
    (hvals : vals = [v1.toNat, v2.toNat, v3.toNat, v4.toNat, v5.toNat]) (h1 : 1 ≤ count.toNat) (h5 : count.toNat ≤ 5)
    (hle : start.toNat + count.toNat ≤ 64)
    (hfree : ∀ i, start.toNat ≤ i → i < start.toNat + count.toNat → s.entryBlocked i = false) :
    ∃ t : State, exec row s = .next t.settle ∧
      (∀ k, k = (List.range count.toNat).countP (fun i => !entryOk (start.toNat + i) (vals.getD i 0)) →
        OrderEnds row s (doneClamped k k count.toNat) t) ∧
      (∀ i, i < count.toNat → t.param (start.toNat + i) = entryClamp (start.toNat + i) (vals.getD i 0)) ∧
      (∀ j, j < start.toNat ∨ start.toNat + count.toNat ≤ j → t.param j = s.param j) ∧
      (start.toNat ≤ 1 → t.gi = { s.gi with
        ceiling := if s.gi.state = .current then min (s.gi.received.getD 0) (t.param 0) else min (t.param 1) (t.param 0) }) ∧
      (2 ≤ start.toNat → t.gi = s.gi) ∧
      (∀ n, start.toNat ≤ 40 + 4 * n.toNat → 40 + 4 * n.toNat < start.toNat + count.toNat → t.berth n = { s.berth n with
        rating := match (s.berth n).authorization with
          | some a => min (t.param (40 + 4 * n.toNat)) a.cap
          | none => t.param (40 + 4 * n.toNat) }) ∧
      (12 ≤ start.toNat → (∀ n, 40 + 4 * n.toNat < start.toNat ∨ start.toNat + count.toNat ≤ 40 + 4 * n.toNat →
        t.berth n = s.berth n) ∧ OnlyTouches ([.link .t, .orders .t, .table] ++ Ix.all.map Part.berth) s t) ∧
      Untouched [.power, .time, .waiting, .inputs, .held, .pool] s t := by
  subst hrow
  obtain ⟨w, hw⟩ : ∃ w, w = s.withRunning .t ⟨.setParameter start count v1 v2 v3 v4 v5, stop, 0⟩ := ⟨_, rfl⟩
  have hfive : vals.length = 5 := by rw [hvals]; rfl
  have hlen : (vals.take count.toNat).length = count.toNat := by rw [List.length_take, hfive]; omega
  have hlw : w.table.length = 64 := by rw [hw]; exact ht.1
  obtain ⟨u, hu⟩ : ∃ u, u = State.storeRun start.toNat (vals.take count.toNat) w := ⟨_, rfl⟩
  have hwrote : Wrote .t w u := hu ▸ State.wrote_storeRun .t _ _ w
  have hrun := State.writeRun_all (hlen.symm ▸ writable_taken hw h5 hle hfree :
    State.Writable start.toNat (vals.take count.toNat).length w)
  rw [← hu, hlen, clampedIn_take (by omega)] at hrun
  obtain ⟨hexec, hends⟩ := setParameter_ends h hvals h1 h5 (by omega) hw hrun hwrote
  have hparam := param_taken (vals := vals) hw ht hle hlen
  rw [← hu] at hparam
  refine ⟨_, hexec, fun k hk => hk ▸ hends, fun i hi => ?_, fun j hj => ?_, fun hlow => ?_, fun hhigh => ?_, fun n hn hn' => ?_,
    fun h12 => ⟨fun n hn => ?_, ?_⟩, ?_⟩
  · refine (hparam _).trans ?_
    rw [if_pos (by omega), Nat.add_sub_cancel_left]
  · exact (hparam j).trans (if_neg (by omega))
  · have hgi := State.gi_storeRun_low hlw hlow (l := vals.take count.toNat) (by intro e; rw [e] at hlen; simp at hlen; omega)
      (by omega)
    rw [← hu] at hgi
    have hws : w.gi = s.gi := by rw [hw]; rfl
    rw [hws] at hgi
    exact hgi
  · have hgi := State.gi_storeRun (vals.take count.toNat) w hhigh
    rw [← hu] at hgi
    refine Eq.trans hgi ?_
    rw [hw]; rfl
  · have hb := berth_taken (vals := vals) hw ht (by omega) hle hlen n
    rw [← hu, if_pos ⟨hn, hn'⟩] at hb
    exact hb
  · have hb := berth_taken (vals := vals) hw ht h12 hle hlen n
    rw [← hu, if_neg (by omega)] at hb
    exact hb
  · rw [hu]
    exact onlyTouches_taken_run hw h12
  · simp only [untouched_cons, untouched_nil, Part.same, and_true]
    refine ⟨hwrote.powered.trans ?_, hwrote.now.trans ?_, hwrote.pending.trans ?_, hwrote.inputs.trans ?_, hwrote.held.trans ?_,
      hwrote.cp.trans ?_⟩
    all_goals rw [hw]; rfl

end Sys2Proof.Machine

namespace Sys2Proof.Machine

/-- The entries of a berth can be written while the berth is in no use (R163). -/
theorem entryBlocked_berth (s : State) (n : Ix) :
    s.entryBlocked (40 + 4 * n.toNat) = s.entryBlocked (41 + 4 * n.toNat) ∧
    (s.entryBlocked (40 + 4 * n.toNat) = true ↔ (s.berth n).state ∉ [.vacant, .plugged, .tripped, .lockedOut]) := by
  obtain ⟨h0, h1⟩ := State.berthOfEntry_rating n
  unfold State.entryBlocked
  rw [h0, h1]
  refine ⟨rfl, ?_⟩
  cases hs : (s.berth n).state <;> simp [hs]

/-- A frame that lists all berths, of a change that only some of them know. -/
theorem onlyTouches_someBerths {l l' : List Part} {s t : State} (h : OnlyTouches (l ++ Ix.all.map Part.berth) s t)
    (hl : ∀ b ∈ l, b ∈ l') (hb : ∀ n, Part.berth n ∉ l' → t.berth n = s.berth n) : OnlyTouches l' s t := by
  intro b hout
  by_cases hn : ∃ n, b = .berth n
  · obtain ⟨n, rfl⟩ := hn
    exact hb n hout
  · refine h b fun hmem => ?_
    rcases List.mem_append.mp hmem with hmem | hmem
    · exact hout (hl b hmem)
    · obtain ⟨n, -, rfl⟩ := List.mem_map.mp hmem
      exact hn ⟨n, rfl⟩

/-- A run that meets a blocked entry or the end of the table splits at the value that is not stored. -/
theorem take_split {l : List Nat} {k c : Nat} (hk : k < c) (hc : c ≤ l.length) :
    ∃ v rest, l.take c = l.take k ++ v :: rest := by
  refine ⟨l[k], (l.take c).drop (k + 1), ?_⟩
  have hkc : k < (l.take c).length := by rw [List.length_take]; omega
  have htake : (l.take c).take k = l.take k := by rw [List.take_take]; congr 1; omega
  calc l.take c = (l.take c).take k ++ (l.take c).drop k := (List.take_append_drop k _).symm
    _ = l.take k ++ l[k] :: (l.take c).drop (k + 1) := by
      rw [htake, List.drop_eq_getElem_cons hkc, List.getElem_take]

section Stops

variable {s : State} {stop : Bool} {start count : Byte} {v1 v2 v3 v4 v5 : Word} {vals : List Nat} {row : Instr}

/-- A run that stops at an entry of a berth in use (R163). -/
theorem setParameter_blocked {k : Nat} (h : PortReady s .t) (ht : TableInv s)
    (hrow : row = .setParameter .t stop start count v1 v2 v3 v4 v5)
    (hvals : vals = [v1.toNat, v2.toNat, v3.toNat, v4.toNat, v5.toNat]) (h5 : count.toNat ≤ 5)
    (hk : k < count.toNat) (hle : start.toNat + k ≤ 63) (hfree : ∀ i, i < k → s.entryBlocked (start.toNat + i) = false)
    (hb : s.entryBlocked (start.toNat + k) = true) :
    ∃ t : State, exec row s = .next t.settle ∧
      OrderEnds row s { verdict := .failed, code := .live, d1 := start.toNat + k, d2 := k } t ∧
      (∀ i, i < k → t.param (start.toNat + i) = entryClamp (start.toNat + i) (vals.getD i 0)) ∧
      (∀ j, j < start.toNat ∨ start.toNat + k ≤ j → t.param j = s.param j) ∧
      (∀ n, start.toNat ≤ 40 + 4 * n.toNat → 40 + 4 * n.toNat < start.toNat + k → t.berth n = { s.berth n with
        rating := match (s.berth n).authorization with
          | some a => min (t.param (40 + 4 * n.toNat)) a.cap
          | none => t.param (40 + 4 * n.toNat) }) ∧
      (∀ n, 40 + 4 * n.toNat < start.toNat ∨ start.toNat + k ≤ 40 + 4 * n.toNat → t.berth n = s.berth n) ∧
      (k = 0 → OnlyTouches [.link .t, .orders .t] s t) ∧
      OnlyTouches ([.link .t, .orders .t, .table] ++ Ix.all.map Part.berth) s t := by
  subst hrow
  obtain ⟨w, hw⟩ : ∃ w, w = s.withRunning .t ⟨.setParameter start count v1 v2 v3 v4 v5, stop, 0⟩ := ⟨_, rfl⟩
  have h40 : 40 ≤ start.toNat + k := by
    by_contra hlt
    rw [s.entryBlocked_low (by omega)] at hb
    cases hb
  have h12 : 12 ≤ start.toNat := by omega
  have hfive : vals.length = 5 := by rw [hvals]; rfl
  have hlen : (vals.take k).length = k := by rw [List.length_take, hfive]; omega
  have hwritable : State.Writable start.toNat (vals.take k).length w := by
    rw [hlen]
    refine writable_taken hw (by omega) (by omega) fun i hi hik => ?_
    have := hfree (i - start.toNat) (by omega)
    rwa [Nat.add_sub_cancel' hi] at this
  obtain ⟨v, rest, hsplit⟩ := take_split (l := vals) hk (by omega)
  obtain ⟨u, hu⟩ : ∃ u, u = State.storeRun start.toNat (vals.take k) w := ⟨_, rfl⟩
  have hwrote : Wrote .t w u := hu ▸ State.wrote_storeRun .t _ _ w
  have hblocked : (State.storeRun start.toNat (vals.take k) w).entryBlocked (start.toNat + (vals.take k).length) = true := by
    rw [State.entryBlocked_storeRun _ _ h12, hlen, hw]
    exact hb
  have hrun := State.writeRun_blocked (v := v) (rest := rest) hwritable (by omega) hblocked
  rw [← hu, hlen, ← hsplit] at hrun
  obtain ⟨hexec, hends⟩ := setParameter_ends h hvals (by omega) h5 (by omega) hw hrun hwrote
  have hparam := param_taken (vals := vals) hw ht (by omega) hlen
  have hberth := berth_taken (vals := vals) hw ht h12 (by omega) hlen
  rw [← hu] at hparam
  simp only [← hu] at hberth
  refine ⟨_, hexec, hends, fun i hi => ?_, fun j hj => ?_, fun n hn hn' => ?_, fun n hn => ?_, fun hk0 => ?_, ?_⟩
  · refine (hparam _).trans ?_
    rw [if_pos (by omega), Nat.add_sub_cancel_left]
  · exact (hparam j).trans (if_neg (by omega))
  · exact (hberth n).trans (if_pos ⟨hn, hn'⟩)
  · exact (hberth n).trans (if_neg (by omega))
  · subst hk0
    have huw : u = w := hu
    rw [huw]
    exact onlyTouches_taken hw (by simp) (by simp)
      (onlyTouches_mono (onlyTouches_endOrder (s.nextRef .t) _) (by simp [State.nextRef]))
  · rw [hu]
    exact onlyTouches_taken_run hw h12

/-- A run that goes beyond the table (R163). -/
theorem setParameter_overruns (h : PortReady s .t) (ht : TableInv s)
    (hrow : row = .setParameter .t stop start count v1 v2 v3 v4 v5)
    (hvals : vals = [v1.toNat, v2.toNat, v3.toNat, v4.toNat, v5.toNat]) (h1 : 1 ≤ count.toNat) (h5 : count.toNat ≤ 5)
    (hs : start.toNat ≤ 63) (hgt : 64 < start.toNat + count.toNat)
    (hfree : ∀ i, start.toNat ≤ i → i ≤ 63 → s.entryBlocked i = false) :
    ∃ t : State, exec row s = .next t.settle ∧
      (∀ stored, stored = 64 - start.toNat →
        OrderEnds row s { verdict := .failed, code := .runOverrun, d1 := stored,
                          d2 := (List.range stored).countP fun i => !entryOk (start.toNat + i) (vals.getD i 0) } t ∧
        (∀ i, i < stored → t.param (start.toNat + i) = entryClamp (start.toNat + i) (vals.getD i 0))) ∧
      (∀ j, j < start.toNat → t.param j = s.param j) ∧
      (start.toNat = 60 → (t.berth .i5).rating = match (s.berth .i5).authorization with
        | some a => min (t.param 60) a.cap
        | none => t.param 60) ∧
      (start.toNat ≠ 60 → OnlyTouches [.link .t, .orders .t, .table] s t) ∧
      OnlyTouches [.link .t, .orders .t, .table, .berth .i5] s t := by
  subst hrow
  obtain ⟨w, hw⟩ : ∃ w, w = s.withRunning .t ⟨.setParameter start count v1 v2 v3 v4 v5, stop, 0⟩ := ⟨_, rfl⟩
  obtain ⟨k, hk⟩ : ∃ k, k = 64 - start.toNat := ⟨_, rfl⟩
  have hfive : vals.length = 5 := by rw [hvals]; rfl
  have hlen : (vals.take k).length = k := by rw [List.length_take, hfive]; omega
  have hwritable : State.Writable start.toNat (vals.take k).length w := by
    rw [hlen]
    exact writable_taken hw (by omega) (by omega) fun i hi hik => hfree i hi (by omega)
  obtain ⟨v, rest, hsplit⟩ := take_split (l := vals) (k := k) (c := count.toNat) (by omega) (by omega)
  obtain ⟨u, hu⟩ : ∃ u, u = State.storeRun start.toNat (vals.take k) w := ⟨_, rfl⟩
  have hwrote : Wrote .t w u := hu ▸ State.wrote_storeRun .t _ _ w
  have hrun := State.writeRun_overrun (v := v) (rest := rest) hwritable (by omega)
  rw [← hu, hlen, ← hsplit, clampedIn_take (by omega)] at hrun
  obtain ⟨hexec, hends⟩ := setParameter_ends h hvals h1 h5 hs hw hrun hwrote
  have hparam := param_taken (vals := vals) hw ht (by omega) hlen
  have hberth := berth_taken (vals := vals) hw ht (by omega) (by omega) hlen
  rw [← hu] at hparam
  simp only [← hu] at hberth
  -- no entry of the run but 60 is a stored rating
  have hkept : ∀ n, 40 + 4 * Ix.toNat n ≠ start.toNat → u.berth n = s.berth n := fun n hn => by
    have := Ix.toNat_le n
    rw [hberth n, if_neg (by omega)]
  have hframe : ∀ st, OnlyTouches ([.link .t, .orders .t, .table] ++ Ix.all.map Part.berth) s (u.endOrder (s.nextRef .t) st) :=
    fun st => hu ▸ onlyTouches_taken_run (l := vals.take k) hw (by omega)
  refine ⟨_, hexec, fun stored hst => ?_, fun j hj => ?_, fun h60 => ?_, fun h60 => ?_, ?_⟩
  · obtain rfl : stored = k := hst.trans hk.symm
    refine ⟨hends, fun i hi => (hparam _).trans ?_⟩
    rw [if_pos (by omega), Nat.add_sub_cancel_left]
  · exact (hparam j).trans (if_neg (by omega))
  · have hb := hberth .i5
    rw [if_pos (by simp only [Ix.toNat]; omega)] at hb
    exact congrArg Berth.rating hb
  · refine onlyTouches_someBerths (hframe _) (fun b hb => hb) fun n _ => hkept n ?_
    have := Ix.toNat_le n
    omega
  · refine onlyTouches_someBerths (hframe _) (by simp +contextual) fun n hn => hkept n ?_
    have hne : n ≠ .i5 := fun e => hn (by rw [e]; simp)
    have : n.toNat ≠ 5 := fun e => hne (State.toNat_injective (m := .i5) e)
    have := Ix.toNat_le n
    omega

end Stops

end Sys2Proof.Machine

namespace Sys2Proof.Machine

theorem six_ext {α : Type} {a b : Six α} (h : ∀ n, a.get n = b.get n) : a = b := by
  cases a
  cases b
  have h0 := h .i0
  have h1 := h .i1
  have h2 := h .i2
  have h3 := h .i3
  have h4 := h .i4
  have h5 := h .i5
  simp only [Six.get] at h0 h1 h2 h3 h4 h5
  rw [h0, h1, h2, h3, h4, h5]

/-- Fewer of the six satisfy a stronger test that one of them fails. -/
theorem countSix_lt {f g : Ix → Bool} {n : Ix} (hfg : ∀ m, f m = true → g m = true) (hf : f n = false) (hg : g n = true) :
    countSix f < countSix g := by
  have hle : ∀ m, (if f m then 1 else 0) ≤ if g m then 1 else 0 := fun m => by
    have := hfg m
    cases hfm : f m <;> cases hgm : g m <;> simp_all
  have hlt : (if f n then 1 else 0) < if g n then 1 else 0 := by simp [hf, hg]
  have h0 := hle .i0
  have h1 := hle .i1
  have h2 := hle .i2
  have h3 := hle .i3
  have h4 := hle .i4
  have h5 := hle .i5
  simp only [countSix, sumSix]
  cases n <;> omega

theorem countSix_le_six (f : Ix → Bool) : countSix f ≤ 6 := by
  have hle : ∀ m, (if f m then 1 else 0) ≤ 1 := fun m => by split <;> omega
  have h0 := hle .i0
  have h1 := hle .i1
  have h2 := hle .i2
  have h3 := hle .i3
  have h4 := hle .i4
  have h5 := hle .i5
  simp only [countSix, sumSix]
  omega

/-! ### Windows that a new limit moves (R47, R48) -/

namespace State

/-- The window of a berth, judged once (R48). -/
def judgedShip (s : State) (n : Ix) : ShipPhase :=
  if s.windowMet n then
    if (s.ship n).window = .outside then { s.ship n with window := .settling, settle := some s.settleTime } else s.ship n
  else if (s.ship n).window = .settling ∨ (s.ship n).window = .held then { s.ship n with window := .outside, settle := none }
  else s.ship n

/-- Every window judged once. -/
def judgeAll (s : State) : State := s.modPru fun u => { u with ships := .ofFn s.judgedShip }

/-- Nothing is due at a berth but a window that is met anew or no longer. -/
structure OnlyWindow (n : Ix) (s : State) : Prop where
  busLost : s.busLost n = false
  selector : s.selectorDue n = false
  admitting : s.admittingDone n = false
  sync : s.syncCloseDue n = false
  dead : s.deadCloseDue n = false
  opens : s.returnOpenDue n = false
  adoption : s.adoptionDone n = false

theorem onlyWindow_of_none {n : Ix} {s : State} (h : s.berthNext n = none) : OnlyWindow n s := by
  have past : ∀ {c : Bool} {a : State} {b : Option State}, (if c then some a else b) = none → c = false ∧ b = none := fun {c _ _} h => by
    cases c
    · exact ⟨rfl, h⟩
    · cases h
  unfold berthNext at h
  obtain ⟨hlost, h⟩ := past h
  obtain ⟨hsel, h⟩ := past h
  obtain ⟨-, h⟩ := past h
  obtain ⟨-, h⟩ := past h
  obtain ⟨hadm, h⟩ := past h
  obtain ⟨hsync, h⟩ := past h
  obtain ⟨hdead, h⟩ := past h
  obtain ⟨hopen, h⟩ := past h
  exact ⟨hlost, hsel, hadm, hsync, hdead, hopen, (past h).1⟩

theorem berthNext_onlyWindow {n : Ix} {s : State} (h : OnlyWindow n s) : s.berthNext n =
    if s.windowEntered n then some (s.setWindow n .settling (some s.settleTime))
    else if s.windowLeft n then some (s.setWindow n .outside none) else none := by
  simp [berthNext, h.busLost, h.selector, h.admitting, h.sync, h.dead, h.opens, h.adoption]

/-- A window is judged anew: it is met while OUTSIDE, or not met while SETTLING or HELD. -/
def unjudged (s : State) (n : Ix) : Bool := s.windowEntered n || s.windowLeft n

theorem judgedShip_eq {n : Ix} {s : State} (h : s.unjudged n = false) : s.judgedShip n = s.ship n := by
  unfold unjudged windowEntered windowLeft at h
  unfold judgedShip
  cases hm : s.windowMet n <;> cases hw : (s.ship n).window <;> simp [hm, hw] at h ⊢

/-- One step of a window is its judgement. -/
theorem berthNext_judges {n : Ix} {s t : State} (h : OnlyWindow n s) (hn : s.berthNext n = some t) :
    ∃ w x, t = s.setWindow n w x ∧ w ≠ .held ∧ s.judgedShip n = { s.ship n with window := w, settle := x } ∧
      s.unjudged n = true ∧ ((w = .settling ∧ s.windowMet n = true) ∨ (w = .outside ∧ s.windowMet n = false)) := by
  rw [berthNext_onlyWindow h] at hn
  unfold unjudged
  split at hn
  · rename_i he
    obtain ⟨hw, hm⟩ : (s.ship n).window = .outside ∧ s.windowMet n = true := by simpa [windowEntered] using he
    cases hn
    exact ⟨_, _, rfl, nofun, by simp [judgedShip, hw, hm], by simp [he], .inl ⟨rfl, hm⟩⟩
  · split at hn
    · rename_i he
      obtain ⟨hw, hm⟩ : ((s.ship n).window = .settling ∨ (s.ship n).window = .held) ∧ s.windowMet n = false := by
        simpa [windowLeft] using he
      cases hn
      exact ⟨_, _, rfl, nofun, by simp [judgedShip, hw, hm], by simp [he], .inr ⟨rfl, hm⟩⟩
    · cases hn

theorem windowMet_setWindow (n m : Ix) (w : Window) (x : Option Nat) (s : State) :
    (s.setWindow n w x).windowMet m = s.windowMet m := by
  have hd : ((s.setWindow n w x).ship m).difference = (s.ship m).difference := by
    rw [ship_setWindow]
    split
    · subst m; rfl
    · rfl
  unfold windowMet
  simp only [side_setWindow, hd]
  rfl

theorem ship_setWindow_ne {n m : Ix} (w : Window) (x : Option Nat) (s : State) (h : m ≠ n) :
    (s.setWindow n w x).ship m = s.ship m := by
  rw [ship_setWindow, if_neg h]

/-- A window that is no longer HELD leaves nothing else due. -/
theorem OnlyWindow.setWindow {n m : Ix} {s : State} {w : Window} (x : Option Nat) (h : OnlyWindow m s) (hw : w ≠ .held) :
    OnlyWindow m (s.setWindow n w x) := by
  refine ⟨h.busLost, h.selector, h.admitting, ?_, ?_, h.opens, h.adoption⟩
  · by_cases hm : m = n
    · subst hm
      have : ((s.setWindow m w x).ship m).window = w := by simp [ship_setWindow]
      unfold syncCloseDue
      rw [this]
      simp [hw]
    · have := h.sync
      unfold syncCloseDue at this ⊢
      rw [ship_setWindow_ne w x s hm]
      exact this
  · have := h.dead
    unfold deadCloseDue at this ⊢
    rw [side_setWindow]
    exact this

theorem unjudged_setWindow_ne {n m : Ix} (w : Window) (x : Option Nat) (s : State) (h : m ≠ n) :
    (s.setWindow n w x).unjudged m = s.unjudged m := by
  unfold unjudged windowEntered windowLeft
  rw [windowMet_setWindow, ship_setWindow_ne w x s h]

theorem judgedShip_setWindow_ne {n m : Ix} (w : Window) (x : Option Nat) (s : State) (h : m ≠ n) :
    (s.setWindow n w x).judgedShip m = s.judgedShip m := by
  unfold judgedShip
  rw [windowMet_setWindow, ship_setWindow_ne w x s h]
  rfl

/-- A judged window needs no second judgement. -/
theorem unjudged_setWindow_self {n : Ix} {w : Window} (x : Option Nat) {s : State}
    (h : (w = .settling ∧ s.windowMet n = true) ∨ (w = .outside ∧ s.windowMet n = false)) :
    (s.setWindow n w x).unjudged n = false := by
  have hw : ((s.setWindow n w x).ship n).window = w := by simp [ship_setWindow]
  unfold unjudged windowEntered windowLeft
  rw [windowMet_setWindow, hw]
  rcases h with ⟨rfl, hm⟩ | ⟨rfl, hm⟩ <;> simp [hm]

theorem judgeAll_eq {s : State} (h : ∀ n, s.unjudged n = false) : s.judgeAll = s := by
  have hs : Six.ofFn s.judgedShip = s.pru.ships := by
    refine six_ext fun n => ?_
    rw [Six.get_ofFn, judgedShip_eq (h n)]
    rfl
  unfold judgeAll modPru
  rw [hs]

/-- A judgement of one window is part of the judgement of all. -/
theorem judgeAll_step {n : Ix} {s : State} {w : Window} {x : Option Nat} (hj : s.judgedShip n = { s.ship n with window := w, settle := x })
    (h : (w = .settling ∧ s.windowMet n = true) ∨ (w = .outside ∧ s.windowMet n = false)) :
    (s.setWindow n w x).judgeAll = s.judgeAll := by
  have hs : Six.ofFn (s.setWindow n w x).judgedShip = Six.ofFn s.judgedShip := by
    refine six_ext fun m => ?_
    rw [Six.get_ofFn, Six.get_ofFn]
    by_cases hm : m = n
    · subst hm
      rw [judgedShip_eq (unjudged_setWindow_self x h), hj]
      simp [ship_setWindow]
    · exact judgedShip_setWindow_ne w x s hm
  unfold judgeAll
  rw [hs]
  rfl

/-- The steps of the berths judge each window once, where nothing else is due (log entry 5). -/
theorem followUpTo_windows (k : Nat) {s : State} (h : ∀ n, OnlyWindow n s) (hk : countSix s.unjudged ≤ k) :
    followUpTo k s = s.judgeAll := by
  induction k generalizing s with
  | zero =>
    have hnone : ∀ n, s.unjudged n = false := fun n => by
      by_contra hn
      have : 0 < countSix s.unjudged := countSix_pos.mpr ⟨n, by simpa using hn⟩
      omega
    exact (judgeAll_eq hnone).symm
  | succ k ih =>
    unfold followUpTo
    split
    · rename_i t ht
      obtain ⟨n, -, hn⟩ := List.exists_of_findSome?_eq_some ht
      obtain ⟨w, x, rfl, hw, hj, hu, hcase⟩ := berthNext_judges (h n) hn
      rw [ih (fun m => (h m).setWindow x hw) ?_, judgeAll_step hj hcase]
      have hlt : countSix (s.setWindow n w x).unjudged < countSix s.unjudged := by
        refine countSix_lt (n := n) (fun m hm => ?_) (unjudged_setWindow_self x hcase) hu
        by_cases hmn : m = n
        · subst hmn
          exact hu
        · rwa [unjudged_setWindow_ne w x s hmn] at hm
      omega
    · rename_i hnone
      refine (judgeAll_eq fun n => ?_).symm
      have hn : s.berthNext n = none := List.findSome?_eq_none_iff.mp hnone n (by cases n <;> decide)
      rw [berthNext_onlyWindow (h n)] at hn
      unfold unjudged
      cases he : s.windowEntered n <;> cases hl : s.windowLeft n <;> simp [he, hl] at hn ⊢

end State

end Sys2Proof.Machine

namespace Sys2Proof.Machine

namespace State

theorem windowMet_judgeAll (n : Ix) (s : State) : s.judgeAll.windowMet n = s.windowMet n := by
  have hship : s.judgeAll.ship n = s.judgedShip n := by simp [judgeAll, ship, modPru]
  have hsame : (s.judgedShip n).side = (s.ship n).side ∧ (s.judgedShip n).difference = (s.ship n).difference := by
    unfold judgedShip
    split
    · split <;> exact ⟨rfl, rfl⟩
    · split <;> exact ⟨rfl, rfl⟩
  unfold windowMet
  rw [hship, hsame.1, hsame.2]
  rfl

/-- A write of another entry than W leaves what is fresh (R57). -/
theorem fresh_of_window {s t : State} (n : Ix) (hcs : t.cs = s.cs) (hw : t.checkWindow = s.checkWindow) : t.fresh n = s.fresh n := by
  unfold fresh check
  rw [hcs, hw]

end State

/-- A table write that keeps W, seen by what is due at a berth. -/
theorem onlyWindow_written {s x : State} {n : Ix} {p : Port} {o : OrderRec} {f : List Nat → List Nat}
    (h : s.berthNext n = none) (hx : x = (s.withRunning p o).modTable f) (hwin : x.checkWindow = s.checkWindow) :
    State.OnlyWindow n x := by
  obtain ⟨hlost, hsel, hadm, hsync, hdead, hopen, hadopt⟩ := State.onlyWindow_of_none h
  have hcs : x.cs = s.cs := by rw [hx]; rfl
  have hready : x.readyToClose n = s.readyToClose n := by
    unfold State.readyToClose
    rw [State.fresh_of_window n hcs hwin, hx]
    rfl
  have hmay : x.mayClose n = s.mayClose n := by
    unfold State.mayClose
    rw [hready, hx]
    rfl
  refine ⟨?_, ?_, ?_, ?_, ?_, ?_, ?_⟩
  · rw [hx]
    exact hlost
  · rw [hx]
    exact hsel
  · unfold State.admittingDone at hadm ⊢
    rw [hready, hx]
    exact hadm
  · unfold State.syncCloseDue at hsync ⊢
    rw [hmay, hx]
    exact hsync
  · unfold State.deadCloseDue at hdead ⊢
    rw [hmay, hx]
    exact hdead
  · rw [hx]
    exact hopen
  · rw [hx]
    exact hadopt

theorem entryWritten_window {i : Nat} (s : State) (h9 : 9 ≤ i) (h11 : i ≤ 11) : s.entryWritten i = s.follow := by
  have h0 : ¬ (i = 0 ∨ i = 1) := by omega
  have h6 : ¬ i = 6 := by omega
  have h : i = 9 ∨ i = 10 ∨ i = 11 := by omega
  unfold State.entryWritten
  rw [if_neg h0, if_neg h6, if_pos h]

/-- A write of a sync window limit moves the windows it concerns (R47, R48). -/
theorem setParameter_window {s : State} {stop : Bool} {start count : Byte} {v1 v2 v3 v4 v5 : Word} {row : Instr}
    (h : PortReady s .t) (ht : TableInv s) (hrow : row = .setParameter .t stop start count v1 v2 v3 v4 v5)
    (h9 : 9 ≤ start.toNat) (h11 : start.toNat ≤ 11) (hc : count.toNat = 1) (hquiet : ∀ n, s.berthNext n = none) :
    ∃ t : State, exec row s = .next t.settle ∧ t.param start.toNat = entryClamp start.toNat v1.toNat ∧
      (∀ j, j ≠ start.toNat → t.param j = s.param j) ∧
      (∀ n, t.ship n = if t.windowMet n then
          (if (s.ship n).window = .outside then { s.ship n with window := .settling, settle := some s.settleTime } else s.ship n)
        else if (s.ship n).window = .settling ∨ (s.ship n).window = .held then
          { s.ship n with window := .outside, settle := none }
        else s.ship n) ∧
      t.pru = { s.pru with ships := t.pru.ships } ∧ OnlyTouches [.link .t, .orders .t, .table, .reference] s t := by
  subst hrow
  obtain ⟨w, hw⟩ : ∃ w, w = s.withRunning .t ⟨.setParameter start count v1 v2 v3 v4 v5, stop, 0⟩ := ⟨_, rfl⟩
  obtain ⟨x, hx⟩ : ∃ x, x = w.modTable fun l => l.set start.toNat (entryClamp start.toNat v1.toNat) := ⟨_, rfl⟩
  have hlw : w.table.length = 64 := by rw [hw]; exact ht.1
  have hxs : x = (s.withRunning .t ⟨.setParameter start count v1 v2 v3 v4 v5, stop, 0⟩).modTable fun l =>
      l.set start.toNat (entryClamp start.toNat v1.toNat) := by rw [hx, hw]
  have hother : ∀ j, j ≠ start.toNat → x.param j = s.param j := fun j hj => by
    rw [hxs]
    unfold State.param
    rw [State.table_modTable, List.getD_eq_getElem?_getD, List.getElem?_set_ne (Ne.symm hj), ← List.getD_eq_getElem?_getD]
    rfl
  -- the write is a step of the berths from `x`, and they judge their windows
  have hstore : State.storeRun start.toNat [v1.toNat] w = x.judgeAll := by
    have hwin : x.checkWindow = s.checkWindow := hother 6 (by omega)
    have hfollow : x.follow = x.judgeAll := State.followUpTo_windows _ (fun n => onlyWindow_written (hquiet n) hxs hwin)
      (Nat.le_trans (countSix_le_six _) (by decide))
    rw [← hfollow, ← entryWritten_window x h9 h11, hx]
    rfl
  have hwritable : State.Writable start.toNat [v1.toNat].length w :=
    writable_taken hw (k := 1) (by omega) (by omega) fun i hi hi1 => s.entryBlocked_low (by omega)
  have hrun := State.writeRun_all hwritable
  have hwrote := State.wrote_storeRun .t start.toNat [v1.toNat] w
  rw [hstore] at hrun hwrote
  obtain ⟨hexec, -⟩ := setParameter_ends h rfl (by omega) (by omega) (by omega) hw (by rw [hc]; exact hrun) hwrote
  have hship : ∀ n, (x.judgeAll).ship n = x.judgedShip n := fun n => by simp [State.judgeAll, State.ship, State.modPru]
  have hxship : ∀ n, x.ship n = s.ship n := fun n => by rw [hxs]; rfl
  have hsettle : x.settleTime = s.settleTime := hother 12 (by omega)
  refine ⟨_, hexec, ?_, fun j hj => hother j hj, fun n => ?_, ?_, ?_⟩
  · have hp := State.param_storeEntry (i := start.toNat) v1.toNat start.toNat hlw (by omega)
    rw [if_pos rfl] at hp
    have hpx : x.param start.toNat = (w.storeEntry start.toNat v1.toNat).param start.toNat := by
      unfold State.param
      rw [State.table_storeEntry, hx]
      rfl
    exact hpx.trans hp
  · refine (hship n).trans ?_
    unfold State.judgedShip
    rw [hxship, hsettle, ← State.windowMet_judgeAll]
    rfl
  · have hpru : x.judgeAll.pru = { s.pru with ships := x.judgeAll.pru.ships } := by
      rw [show s.pru = x.pru from by rw [hxs]; rfl]
      rfl
    exact hpru
  · refine onlyTouches_taken hw (by simp) (by simp) (onlyTouches_trans (t := x) ?_ (onlyTouches_trans (t := x.judgeAll) ?_ ?_))
    · rw [hx]
      exact onlyTouches_mono (onlyTouches_modTable _) (by simp)
    · exact onlyTouches_mono (onlyTouches_modPru _) (by simp)
    · exact onlyTouches_mono (onlyTouches_endOrder _ _) (by simp [State.nextRef])

end Sys2Proof.Machine

namespace Sys2Proof.Machine

/-! ### What a lapse does (R67) -/

/-- What the scanner may do by itself: ages and warnings stand, and it does not come to rest. -/
structure ScannerStep (s t : State) : Prop where
  age : ∀ n, (t.check n).age = (s.check n).age
  warned : ∀ n, (t.check n).lapseWarned = (s.check n).lapseWarned
  busy : s.cs.scanner ≠ .idle → t.cs.scanner ≠ .idle

theorem ScannerStep.of_cs {s t : State} (h : t.cs = s.cs) : ScannerStep s t :=
  ⟨fun n => by unfold State.check; rw [h], fun n => by unfold State.check; rw [h], fun hs => by rw [h]; exact hs⟩

theorem ScannerStep.trans {s t u : State} (h : ScannerStep s t) (h' : ScannerStep t u) : ScannerStep s u :=
  ⟨fun n => (h'.age n).trans (h.age n), fun n => (h'.warned n).trans (h.warned n), fun hs => h'.busy (h.busy hs)⟩

namespace State

theorem scannerStep_startCheck (n : Ix) (o : CheckOrigin) (s : State) : ScannerStep s (s.startCheck n o) := by
  refine ⟨fun m => ?_, fun m => ?_, fun _ => by simp⟩ <;> rw [check_startCheck] <;> split
  · subst m; rfl
  · rfl
  · subst m; rfl
  · rfl

theorem scannerStep_chooseCheck (s : State) : ScannerStep s s.chooseCheck := by
  rcases s.chooseCheck_cases with h | ⟨hidle, m, o, h, -⟩ <;> rw [h]
  · exact .of_cs rfl
  · obtain ⟨u, hu⟩ : ∃ u, u = s.modCs fun u => { u with queue := u.queue.tail } := ⟨_, rfl⟩
    have hrec : ∀ n, u.check n = s.check n := fun n => by rw [hu]; rfl
    rw [← hu]
    exact ScannerStep.trans ⟨fun n => by rw [hrec], fun n => by rw [hrec], fun hs => absurd hidle hs⟩
      (scannerStep_startCheck m o u)

/-- The choice from the request queue starts a check, unless the instrument is faulted (R61). -/
theorem chooseCheck_busy {s : State} (h : s.cs.queue ≠ []) : s.chooseCheck.cs.scanner ≠ .idle := by
  unfold chooseCheck
  split
  · rename_i c hc; rw [hc]; nofun
  · rename_i hc; rw [hc]; nofun
  · split
    · simp
    · rename_i hq
      exact absurd hq h

/-- An aborted DEAD check is the next to start (R65). -/
theorem scannerStep_abortDead (n : Ix) (s : State) : ScannerStep s (s.abortDead n) := by
  unfold abortDead
  split
  · split
    · obtain ⟨u, hu⟩ : ∃ u, u = ((s.abortRecord n).freeInstrument.requestFirst n) := ⟨_, rfl⟩
      have hrec : ∀ m, u.check m = if m = n then
          { s.check n with status := ((s.check n).before.getD .none).status, before := none } else s.check m := fun m => by
        rw [hu]
        show (s.cs.records.set n _).get m = _
        rw [Six.get_set]
        rfl
      have hbusy : u.chooseCheck.cs.scanner ≠ .idle := chooseCheck_busy (by rw [hu]; simp [requestFirst])
      have hchoose := scannerStep_chooseCheck u
      rw [← hu]
      refine ⟨fun m => (hchoose.age m).trans ?_, fun m => (hchoose.warned m).trans ?_, fun _ => hbusy⟩ <;> rw [hrec] <;> split
      · subst m; rfl
      · rfl
      · subst m; rfl
      · rfl
    · exact .of_cs rfl
  · exact .of_cs rfl
  · exact .of_cs rfl

theorem scannerStep_leaveOpen (n : Ix) (f : Breaker) (s : State) : ScannerStep s (s.leaveOpen n f) := by
  obtain ⟨u, hu⟩ : ∃ u, u = s.modBerth n fun b => { b with breaker := f, permitDeadTime := none } := ⟨_, rfl⟩
  have hafter : (s.leaveOpen n f).cs = (u.abortDead n).cs := by
    unfold leaveOpen
    rw [← hu]
    simp
  exact (ScannerStep.of_cs (by rw [hu]; rfl)).trans ((scannerStep_abortDead n u).trans (.of_cs hafter))

theorem scannerStep_commandOpen (n : Ix) (s : State) : ScannerStep s (s.commandOpen n) := by
  have motion : ScannerStep s ((s.modBerth n fun b => { b with motionLimit := some Config.openMotion }).leaveOpen n .openSent) :=
    (ScannerStep.of_cs (cs_modBerth s n _)).trans (scannerStep_leaveOpen n .openSent _)
  unfold commandOpen
  split
  · exact .of_cs rfl
  · split
    · exact .of_cs rfl
    · exact motion
  · exact motion
  · exact motion

theorem scannerStep_tripTo (n : Ix) (c : TripCause) (v : Nat) (d : BerthState) (p : Option Purpose) (s : State) :
    ScannerStep s (s.tripTo n c v d p) := by
  have hbefore : ScannerStep s (s.tripBefore n c d p) := by
    unfold tripBefore
    simp only
    split
    · exact .of_cs (by simp [withdrawPermit])
    · obtain ⟨u, hu⟩ : ∃ u, u = s.modBerth n fun b =>
          { b.stopTimers with tripCause := some c, state := d, purpose := p, approach := none, adoptOnClose := false } := ⟨_, rfl⟩
      rw [← hu]
      exact (ScannerStep.of_cs (by rw [hu]; rfl)).trans
        ((scannerStep_commandOpen n u).trans (.of_cs (by simp [withdrawPermit])))
  rw [tripTo_eq]
  exact hbefore.trans (.of_cs (by simp))

/-! ### Notices of one class -/

theorem notify_other_class {s : State} {p q : Port} {c c' : NoticeClass} {b : Option Ix} {k v : Nat} (h : c' ≠ c) :
    ((s.notify p c b k v).port q).notices.get c' = (s.port q).notices.get c' := by
  unfold port
  by_cases hq : q = p
  · subst hq
    simp only [notify, post, link_modPort, PortMap.get_set_same]
    split
    · exact Notices.get_set_ne _ _ h
    · rfl
  · rw [link_notify_ne s c b k v hq]

/-- A notice leaves what is masked. -/
theorem masked_notify {s : State} {p q : Port} {c c' : NoticeClass} {b : Option Ix} {k v : Nat} :
    (((s.notify p c b k v).port q).notices.get c').masked = ((s.port q).notices.get c').masked := by
  by_cases hc : c' = c
  · subst hc
    by_cases hq : q = p
    · subst hq
      cases hopen : (s.link.get q).isOpen
      · rw [port, link_notify_closed q c' b k v hopen, port]
      · rw [port, notices_notify s q c' b k v hopen, port]
    · rw [port, link_notify_ne s c' b k v hq, port]
  · rw [notify_other_class hc]

/-- The Link Unit behind a notice depends on itself and on the period number (R179). -/
theorem link_notify_congr {s t : State} (p : Port) (c : NoticeClass) (b : Option Ix) (k v : Nat) (hl : t.link = s.link)
    (hper : t.ge.period = s.ge.period) : (t.notify p c b k v).link = (s.notify p c b k v).link := by
  simp [notify, post, hl, hper]

theorem link_notifyBoth_congr {s t : State} (n : Ix) (c : NoticeClass) (k v : Nat) (hl : t.link = s.link)
    (hper : t.ge.period = s.ge.period) : (t.notifyBoth n c k v).link = (s.notifyBoth n c k v).link := by
  unfold notifyBoth
  exact link_notify_congr _ _ _ _ _ (link_notify_congr _ _ _ _ _ hl hper) (by simpa using hper)

/-- A trip does no more to the Link Unit than to give its notices (R22). -/
theorem link_tripTo (n : Ix) (c : TripCause) (v : Nat) (d : BerthState) (p : Option Purpose) (s : State) :
    (s.tripTo n c v d p).link = (s.notifyBoth n .trip c.index v).link := by
  have key : ∀ u : State, u.link = s.link → u.ge.period = s.ge.period →
      ((u.notifyBoth n .trip c.index v).postSource n .tripped).link = (s.notifyBoth n .trip c.index v).link := fun u hl hp => by
    rw [(fields_postSource _ n .tripped).2.2.2.2.1]
    exact link_notifyBoth_congr n .trip c.index v hl hp
  unfold tripTo
  simp only
  split <;> exact key _ (by simp [withdrawPermit]) (by simp [withdrawPermit])

end State

end Sys2Proof.Machine

namespace Sys2Proof.Machine

namespace State

/-- The record of a berth with its breaker closed or closing has lapsed (R67). -/
def Late (s : State) (n : Ix) : Prop :=
  ((s.berth n).breaker = .closed ∨ (s.berth n).breaker = .closeSent) ∧ s.checkWindow < (s.check n).age

/-- A lapse gives its warning. -/
def LapseWarns (s : State) (n : Ix) : Prop := s.Late n ∧ (s.check n).lapseWarned = false

/-- A lapse trips its berth, or repeats the trip by which the berth opens. -/
def LapseTrips (s : State) (n : Ix) : Prop := s.Late n ∧ 2 * s.checkWindow < (s.check n).age ∧ (s.berth n).state ≠ .tripped

theorem warnLapse_warns {n : Ix} {s : State} (h : s.LapseWarns n) : s.warnLapse n =
    (s.modCheck n fun c => { c with lapseWarned := true }).notifyBoth n .check 2 (s.check n).age := if_pos ⟨h.1.2, h.2⟩

theorem warnLapse_quiet {n : Ix} {s : State} (h : s.Late n) (h' : ¬ s.LapseWarns n) : s.warnLapse n = s :=
  if_neg fun hw => h' ⟨h, hw.2⟩

/-- The lapse of a berth whose record has not lapsed does nothing. -/
theorem lapse_notLate {n : Ix} {s : State} (h : ¬ s.Late n) : s.lapse n = s := by
  have warn : ((s.berth n).breaker = .closed ∨ (s.berth n).breaker = .closeSent) →
      (if 2 * s.checkWindow < (s.check n).age then (s.warnLapse n).trip n .checkLapsed else s.warnLapse n) = s := fun hb => by
    have hage : ¬ s.checkWindow < (s.check n).age := fun ha => h ⟨hb, ha⟩
    rw [if_neg (by omega)]
    exact if_neg fun hw => hage hw.1
  unfold lapse
  split
  · rename_i hb; exact warn (.inr hb)
  · rename_i hb; exact warn (.inl hb)
  · rfl
  · rfl

theorem lapse_late {n : Ix} {s : State} (h : s.Late n) : s.lapse n =
    if 2 * s.checkWindow < (s.check n).age then (s.warnLapse n).trip n .checkLapsed else s.warnLapse n := by
  unfold lapse
  rcases h.1 with hb | hb <;> rw [hb]

theorem berths_warnLapse (n : Ix) (s : State) : (s.warnLapse n).berths = s.berths := by
  unfold warnLapse
  split
  · simp
  · rfl

/-- A lapse that trips nothing is its warning. -/
theorem lapse_young {n : Ix} {s : State} (h : s.Late n) (h' : ¬ s.LapseTrips n) : s.lapse n = s.warnLapse n := by
  rw [lapse_late h]
  split
  · rename_i hage
    have hst : (s.berth n).state = .tripped := by
      by_contra hne
      exact h' ⟨h, hage, hne⟩
    have hst' : ((s.warnLapse n).berth n).state = .tripped := by
      unfold berth
      rw [berths_warnLapse]
      exact hst
    unfold trip
    rw [hst']
  · rfl

/-- A lapse that trips: to TRIPPED with CHECK_LAPSED, except where the berth opens by a trip already (R22, R67). -/
theorem lapse_old {n : Ix} {s : State} (h : s.LapseTrips n) : ∃ cause d p, s.lapse n = (s.warnLapse n).tripTo n cause 0 d p ∧
    (((s.berth n).state = .opening → (s.berth n).purpose ≠ some .trip) →
      cause = .checkLapsed ∧ d = .tripped ∧ p = none) := by
  obtain ⟨hlate, hage, hst⟩ := h
  have hb : (s.warnLapse n).berth n = s.berth n := by unfold berth; rw [berths_warnLapse]
  rw [lapse_late hlate, if_pos hage]
  by_cases hop : (s.berth n).state = .opening ∧ (s.berth n).purpose = some .trip
  · refine ⟨(s.berth n).tripCause.getD .checkLapsed, .opening, some .trip, ?_, fun hno => absurd hop.2 (hno hop.1)⟩
    unfold trip
    rw [hb, hop.1, hop.2]
  · refine ⟨_, _, _, trip_eq _ ?_ ?_, fun _ => ⟨rfl, rfl, rfl⟩⟩
    · rw [← berth, hb]
      exact hst
    · rw [← berth, hb]
      exact fun h1 h2 => hop ⟨h1, h2⟩

theorem isOpen_notifyBoth (n : Ix) (q : Port) (c : NoticeClass) (k v : Nat) (s : State) :
    ((s.notifyBoth n c k v).port q).isOpen = (s.port q).isOpen := by
  unfold notifyBoth port
  rw [isOpen_notify, isOpen_notify]

theorem masked_notifyBoth (n : Ix) (q : Port) (c c' : NoticeClass) (k v : Nat) (s : State) :
    (((s.notifyBoth n c k v).port q).notices.get c').masked = ((s.port q).notices.get c').masked := by
  unfold notifyBoth
  rw [masked_notify, masked_notify]

theorem notifyBoth_other_class {n : Ix} {q : Port} {c c' : NoticeClass} {k v : Nat} {s : State} (h : c' ≠ c) :
    ((s.notifyBoth n c k v).port q).notices.get c' = (s.port q).notices.get c' := by
  unfold notifyBoth
  rw [notify_other_class h, notify_other_class h]

end State

/-- What a lapse leaves everywhere. -/
structure Steady (s t : State) : Prop where
  aside : Aside .t s t
  period : t.ge.period = s.ge.period
  isOpen : ∀ p, (t.port p).isOpen = (s.port p).isOpen
  masked : ∀ p c, ((t.port p).notices.get c).masked = ((s.port p).notices.get c).masked
  age : ∀ n, (t.check n).age = (s.check n).age
  busy : s.cs.scanner ≠ .idle → t.cs.scanner ≠ .idle

theorem Steady.refl (s : State) : Steady s s := ⟨.refl _ _, rfl, fun _ => rfl, fun _ _ => rfl, fun _ => rfl, id⟩

theorem Steady.trans {s t u : State} (h : Steady s t) (h' : Steady t u) : Steady s u :=
  ⟨h.aside.trans h'.aside, h'.period.trans h.period, fun p => (h'.isOpen p).trans (h.isOpen p),
    fun p c => (h'.masked p c).trans (h.masked p c), fun n => (h'.age n).trans (h.age n), fun hs => h'.busy (h.busy hs)⟩

theorem Steady.window {s t : State} (h : Steady s t) : t.checkWindow = s.checkWindow := by
  unfold State.checkWindow State.param
  rw [h.aside.table]

/-- What the lapse of another berth leaves of berth `n`. -/
structure KeptFor (n : Ix) (s t : State) : Prop where
  berth : t.berth n = s.berth n
  warned : (t.check n).lapseWarned = (s.check n).lapseWarned
  port : t.port (.v n) = s.port (.v n)
  grantBerth : t.grantBerth n = s.grantBerth n
  active : t.ge.active.recs.get n = s.ge.active.recs.get n
  staged : t.ge.staged.recs.get n = s.ge.staged.recs.get n

theorem KeptFor.refl (n : Ix) (s : State) : KeptFor n s s := ⟨rfl, rfl, rfl, rfl, rfl, rfl⟩

theorem KeptFor.trans {n : Ix} {s t u : State} (h : KeptFor n s t) (h' : KeptFor n t u) : KeptFor n s u :=
  ⟨h'.berth.trans h.berth, h'.warned.trans h.warned, h'.port.trans h.port, h'.grantBerth.trans h.grantBerth,
    h'.active.trans h.active, h'.staged.trans h.staged⟩

namespace State

theorem check_warnLapse (n m : Ix) (s : State) : (s.warnLapse n).check m =
    if m = n ∧ s.checkWindow < (s.check n).age then { s.check n with lapseWarned := true } else s.check m := by
  unfold warnLapse
  split
  · rename_i h
    have hcs : ((s.modCheck n fun c => { c with lapseWarned := true }).notifyCheck n 2 (s.check n).age).check m =
        (s.cs.records.set n { s.check n with lapseWarned := true }).get m := by
      unfold check
      rw [(fields_notifyCheck _ n 2 _).2.2.2.2.2.2.2.1]
      rfl
    rw [hcs, Six.get_set]
    by_cases hm : m = n
    · rw [if_pos hm, if_pos ⟨hm, h.1⟩]
    · rw [if_neg hm, if_neg fun hc => hm hc.1]
      rfl
  · rename_i h
    split
    · rename_i hm
      obtain ⟨rfl, hage⟩ := hm
      have hw : (s.check m).lapseWarned = true := by
        cases hw : (s.check m).lapseWarned
        · exact absurd ⟨hage, hw⟩ h
        · rfl
      rw [← hw]
    · rfl

theorem steady_warnLapse (n : Ix) (s : State) : Steady s (s.warnLapse n) := by
  refine ⟨Aside.warnLapse n s, ?_, fun p => ?_, fun p c => ?_, fun m => ?_, ?_⟩
  case refine_4 =>
    rw [check_warnLapse]
    split
    · rename_i h; rw [h.1]
    · rfl
  all_goals
    unfold warnLapse
    split
  · simp
  · rfl
  · exact isOpen_notifyBoth _ _ _ _ _ _
  · rfl
  · exact masked_notifyBoth _ _ _ _ _ _ _
  · rfl
  · exact fun h => by simpa [modCheck] using h
  · exact id

theorem keptFor_warnLapse {n m : Ix} (s : State) (h : n ≠ m) : KeptFor n s (s.warnLapse m) := by
  have hge : (s.warnLapse m).ge = s.ge := by
    unfold warnLapse
    split
    · simp
    · rfl
  refine ⟨by unfold berth; rw [berths_warnLapse], ?_, ?_, by unfold grantBerth; rw [hge], by rw [hge], by rw [hge]⟩
  · rw [check_warnLapse, if_neg fun hc => h hc.1]
  · unfold warnLapse
    split
    · exact link_notifyBoth_ne _ .check 2 _ (by simp) (by simpa using h)
    · rfl

theorem steady_tripTo (n : Ix) (c : TripCause) (v : Nat) (d : BerthState) (p : Option Purpose) (s : State) :
    Steady s (s.tripTo n c v d p) := by
  have hstep := scannerStep_tripTo n c v d p s
  have hport : ∀ q, (s.tripTo n c v d p).port q = (s.notifyBoth n .trip c.index v).port q := fun q => by
    unfold port
    rw [link_tripTo]
  exact ⟨Aside.tripTo n c v d p s, by simp, fun q => by rw [hport, isOpen_notifyBoth], fun q k => by rw [hport, masked_notifyBoth],
    hstep.age, hstep.busy⟩

theorem keptFor_tripTo {n m : Ix} (c : TripCause) (v : Nat) (d : BerthState) (p : Option Purpose) (s : State) (h : n ≠ m) :
    KeptFor n s (s.tripTo m c v d p) := by
  have hge : (s.tripTo m c v d p).ge = (s.departLive m).ge := by simp
  refine ⟨berths_tripTo_ne s c v d p h, (scannerStep_tripTo m c v d p s).warned n,
    link_tripTo_ne s c v d p (by simp) (by simpa using h), ?_, ?_, ?_⟩
  · unfold grantBerth
    rw [hge]
    simp [h]
  · rw [hge]
    simp [GrantSet.put, h]
  · rw [hge]
    simp [GrantSet.put, h]

/-- The lapse of a berth does nothing, warns, or warns and trips. -/
theorem lapse_cases (n : Ix) (s : State) : s.lapse n = s ∨ s.lapse n = s.warnLapse n ∨
    ∃ c d p, s.lapse n = (s.warnLapse n).tripTo n c 0 d p := by
  by_cases hlate : s.Late n
  · by_cases hold : s.LapseTrips n
    · obtain ⟨c, d, p, he, -⟩ := lapse_old hold
      exact .inr (.inr ⟨c, d, p, he⟩)
    · exact .inr (.inl (lapse_young hlate hold))
  · exact .inl (lapse_notLate hlate)

theorem steady_lapse (n : Ix) (s : State) : Steady s (s.lapse n) := by
  rcases s.lapse_cases n with h | h | ⟨c, d, p, h⟩ <;> rw [h]
  · exact .refl s
  · exact steady_warnLapse n s
  · exact (steady_warnLapse n s).trans (steady_tripTo n c 0 d p _)

theorem keptFor_lapse {n m : Ix} (s : State) (h : n ≠ m) : KeptFor n s (s.lapse m) := by
  rcases s.lapse_cases m with e | e | ⟨c, d, p, e⟩ <;> rw [e]
  · exact .refl n s
  · exact keptFor_warnLapse s h
  · exact (keptFor_warnLapse s h).trans (keptFor_tripTo c 0 d p _ h)

end State

section Judged

variable {n : Ix} {s t : State} (hs : Steady s t) (hk : KeptFor n s t)
include hs hk

theorem late_congr : t.Late n ↔ s.Late n := by
  unfold State.Late
  rw [hk.berth, hs.window, hs.age]

theorem lapseWarns_congr : t.LapseWarns n ↔ s.LapseWarns n := by
  unfold State.LapseWarns
  rw [late_congr hs hk, hk.warned]

theorem lapseTrips_congr : t.LapseTrips n ↔ s.LapseTrips n := by
  unfold State.LapseTrips
  rw [late_congr hs hk, hk.berth, hs.window, hs.age]

end Judged

end Sys2Proof.Machine

namespace Sys2Proof.Machine

/-! ### The lapses of all berths in turn (R67; log entry 49) -/

namespace State

/-- The lapses of the berths of a list, in turn. -/
def lapses (l : List Ix) (s : State) : State := s.forEach l fun n t => t.lapse n

theorem steady_lapses (l : List Ix) (s : State) : Steady s (s.lapses l) :=
  keep_forEach (P := Steady s) (fun n t ht => ht.trans (steady_lapse n t)) l (.refl s)

theorem keptFor_lapses {n : Ix} {l : List Ix} (s : State) (h : n ∉ l) : KeptFor n s (s.lapses l) :=
  keep_forEach_mem (P := KeptFor n s) (fun _ hm t ht => ht.trans (keptFor_lapse t fun e => h (e ▸ hm))) (.refl n s)

theorem lapses_split {before after : List Ix} {n : Ix} (s : State) :
    s.lapses (before ++ n :: after) = (((s.lapses before).lapse n).lapses after) := by
  simp [lapses, forEach]

/-- A relation that holds over each lapse of which `Q` holds, where no other lapse changes `Q`, holds over all of them. -/
theorem lapses_induction {R : State → State → Prop} {Q : State → Ix → Prop} (hrefl : ∀ s, R s s)
    (htrans : ∀ s t u, R s t → R t u → R s u) (hQ : ∀ s t n, Steady s t → KeptFor n s t → Q s n → Q t n)
    (hstep : ∀ s n, Q s n → R s (s.lapse n)) {l : List Ix} (hl : l.Nodup) {s : State} (h : ∀ n ∈ l, Q s n) : R s (s.lapses l) := by
  induction l generalizing s with
  | nil => exact hrefl s
  | cons n l ih =>
    obtain ⟨hn, hl'⟩ := List.nodup_cons.mp hl
    refine htrans _ _ _ (hstep s n (h n List.mem_cons_self)) (ih hl' fun m hm => ?_)
    have hne : m ≠ n := fun e => hn (e ▸ hm)
    exact hQ s _ m (steady_lapse n s) (keptFor_lapse s hne) (h m (List.mem_cons_of_mem _ hm))

/-- The CHECK slot of port T stands while no lapse warns. -/
theorem checkNotice_lapses {l : List Ix} (hl : l.Nodup) {s : State} (h : ∀ n ∈ l, ¬ s.LapseWarns n) :
    ((s.lapses l).port .t).notices.get .check = (s.port .t).notices.get .check := by
  refine lapses_induction (R := fun s t => (t.port .t).notices.get .check = (s.port .t).notices.get .check)
    (Q := fun s n => ¬ s.LapseWarns n) (fun _ => rfl) (fun _ _ _ h h' => h'.trans h)
    (fun s t n hs hk hq => (lapseWarns_congr hs hk).not.mpr hq) (fun s n hq => ?_) hl h
  have hw : (s.warnLapse n) = s ∨ ¬ s.Late n := by
    by_cases hlate : s.Late n
    · exact .inl (warnLapse_quiet hlate hq)
    · exact .inr hlate
  rcases hw with hw | hw
  · rcases s.lapse_cases n with e | e | ⟨c, d, p, e⟩ <;> rw [e]
    · rw [hw]
    · rw [hw, port, link_tripTo]
      exact notifyBoth_other_class (by decide)
  · rw [lapse_notLate hw]

/-- What the lapses of berths too young to trip leave: all but the scanner and the CHECK notices. -/
structure OnlyWarned (s t : State) : Prop where
  oe : t.oe = s.oe
  berths : t.berths = s.berths
  now : t.now = s.now
  table : t.table = s.table
  tripNotice : ∀ p, (t.port p).notices.get .trip = (s.port p).notices.get .trip

theorem onlyWarned_warnLapse (n : Ix) (s : State) : OnlyWarned s (s.warnLapse n) := by
  unfold warnLapse
  split
  · exact ⟨by simp, by simp, by simp, by simp, fun p => notifyBoth_other_class (by decide)⟩
  · exact ⟨rfl, rfl, rfl, rfl, fun _ => rfl⟩

theorem onlyWarned_lapse {n : Ix} {s : State} (h : ¬ s.LapseTrips n) : OnlyWarned s (s.lapse n) := by
  by_cases hlate : s.Late n
  · rw [lapse_young hlate h]
    exact onlyWarned_warnLapse n s
  · rw [lapse_notLate hlate]
    exact ⟨rfl, rfl, rfl, rfl, fun _ => rfl⟩

theorem onlyWarned_lapses {l : List Ix} (hl : l.Nodup) {s : State} (h : ∀ n ∈ l, ¬ s.LapseTrips n) : OnlyWarned s (s.lapses l) :=
  lapses_induction (R := OnlyWarned) (Q := fun s n => ¬ s.LapseTrips n) (fun _ => ⟨rfl, rfl, rfl, rfl, fun _ => rfl⟩)
    (fun _ _ _ h h' => ⟨h'.oe.trans h.oe, h'.berths.trans h.berths, h'.now.trans h.now, h'.table.trans h.table,
      fun p => (h'.tripNotice p).trans (h.tripNotice p)⟩)
    (fun _ _ _ hs hk hq => (lapseTrips_congr hs hk).not.mpr hq) (fun _ _ hq => onlyWarned_lapse hq) hl h

theorem lapses_none {l : List Ix} (hl : l.Nodup) {s : State} (h : ∀ n ∈ l, ¬ s.Late n) : s.lapses l = s :=
  lapses_induction (R := fun s t => t = s) (Q := fun s n => ¬ s.Late n) (fun _ => rfl) (fun _ _ _ h h' => h'.trans h)
    (fun _ _ _ hs hk hq => (late_congr hs hk).not.mpr hq) (fun _ _ hq => lapse_notLate hq) hl h

/-! ### The lapse of one berth -/

/-- The warning of a lapse at both ports (R67, R181). -/
theorem noticed_lapse_check {n : Ix} {s : State} {p : Port} (h : s.LapseWarns n) (hp : p = .t ∨ p = .v n) :
    Noticed s (s.lapse n) p .check (some n) 2 (s.check n).age := by
  have hwarn : Noticed s (s.warnLapse n) p .check (some n) 2 (s.check n).age := by
    rw [warnLapse_warns h]
    exact noticed_notifyBoth rfl rfl hp
  by_cases hold : s.LapseTrips n
  · obtain ⟨c, d, q, e, -⟩ := lapse_old hold
    have hslot : ((s.lapse n).port p).notices.get .check = ((s.warnLapse n).port p).notices.get .check := by
      rw [e, port, link_tripTo]
      exact notifyBoth_other_class (by decide)
    intro hopen
    rw [hslot]
    refine hwarn ?_
    rw [← hopen, e, (steady_tripTo n c 0 d q _).isOpen]
  · rw [lapse_young h.1 hold]
    exact hwarn

/-- The trip of a lapse, of a berth that does not open by a trip already (R22, R67). -/
theorem lapse_due {n : Ix} {s : State} (h : s.LapseTrips n) (h' : (s.berth n).state = .opening → (s.berth n).purpose ≠ some .trip) :
    s.lapse n = (s.warnLapse n).tripTo n .checkLapsed 0 .tripped none := by
  obtain ⟨c, d, p, he, hdue⟩ := lapse_old h
  obtain ⟨rfl, rfl, rfl⟩ := hdue h'
  exact he

theorem noticed_lapse_trip {n : Ix} {s : State} {p : Port} (h : s.LapseTrips n)
    (h' : (s.berth n).state = .opening → (s.berth n).purpose ≠ some .trip) (hp : p = .t ∨ p = .v n) :
    Noticed s (s.lapse n) p .trip (some n) TripCause.checkLapsed.index 0 := by
  rw [lapse_due h h']
  intro hopen
  have := (s.warnLapse n).noticed_tripTo n .checkLapsed 0 .tripped none hp hopen
  rw [(onlyWarned_warnLapse n s).tripNotice p, (steady_warnLapse n s).period] at this
  exact this

/-- A notice given on the way, where its slot keeps its mask before and all of itself behind. -/
theorem noticed_between {s y z t : State} {p : Port} {c : NoticeClass} {n : Option Ix} {k v : Nat} (h : Noticed y z p c n k v)
    (hb : Steady s y) (ha : Steady z t) (hslot : (t.port p).notices.get c = (z.port p).notices.get c) : Noticed s t p c n k v := by
  intro hopen
  have hz := h (by rw [← ha.isOpen]; exact hopen)
  have hm := hb.masked p c
  rw [hslot, hz, hb.period]
  cases hy : (y.port p).notices.get c
  cases hs : (s.port p).notices.get c
  rw [hy, hs] at hm
  simp only at hm ⊢
  rw [hm]

end State

/-- The list of the berths around one of them. -/
theorem Ix.all_around (n : Ix) : ∃ before after, Ix.all = before ++ n :: after ∧ before.Nodup ∧ after.Nodup ∧
    n ∉ before ∧ n ∉ after ∧ ∀ m ∈ after, n.toNat < m.toNat := by
  cases n
  case i0 => exact ⟨[], [.i1, .i2, .i3, .i4, .i5], by decide⟩
  case i1 => exact ⟨[.i0], [.i2, .i3, .i4, .i5], by decide⟩
  case i2 => exact ⟨[.i0, .i1], [.i3, .i4, .i5], by decide⟩
  case i3 => exact ⟨[.i0, .i1, .i2], [.i4, .i5], by decide⟩
  case i4 => exact ⟨[.i0, .i1, .i2, .i3], [.i5], by decide⟩
  case i5 => exact ⟨[.i0, .i1, .i2, .i3, .i4], [], by decide⟩

end Sys2Proof.Machine

namespace Sys2Proof.Machine

/-- The order that the lapses of all berths meet berth `n` in: `y` before its own, `z` behind it, `u` at the end. -/
structure LapseTurn (s : State) (n : Ix) (y z u : State) : Prop where
  own : z = y.lapse n
  before : Steady s y
  beforeKept : KeptFor n s y
  after : Steady z u
  afterKept : KeptFor n z u
  beforeYoung : (∀ m, s.LapseTrips m → m = n) → State.OnlyWarned s y
  afterYoung : (∀ m, s.LapseTrips m → m.toNat ≤ n.toNat) → State.OnlyWarned z u
  afterQuiet : (∀ m, s.LapseWarns m → m.toNat ≤ n.toNat) →
    (u.port .t).notices.get .check = (z.port .t).notices.get .check

theorem lapseTurn (s : State) (n : Ix) : ∃ y z, LapseTurn s n y z (s.lapses Ix.all) := by
  obtain ⟨before, after, hall, hb, ha, hnb, hna, hlt⟩ := Ix.all_around n
  have hmn : ∀ m ∈ after, m ≠ n := fun m hm e => hna (e ▸ hm)
  have hsteady := (State.steady_lapses before s).trans (State.steady_lapse n _)
  have hkept : ∀ m ∈ after, KeptFor m s ((s.lapses before).lapse n) := fun m hm => by
    have hmb : m ∉ before := by
      have hnodup : (before ++ n :: after).Nodup := by rw [← hall]; decide
      exact fun h => (List.nodup_append.mp hnodup).2.2 m h m (List.mem_cons_of_mem _ hm) rfl
    exact (State.keptFor_lapses s hmb).trans (State.keptFor_lapse _ (hmn m hm))
  refine ⟨s.lapses before, (s.lapses before).lapse n, rfl, State.steady_lapses before s, State.keptFor_lapses s hnb, ?_, ?_, ?_, ?_, ?_⟩
  · rw [hall, State.lapses_split]
    exact State.steady_lapses after _
  · rw [hall, State.lapses_split]
    exact State.keptFor_lapses _ hna
  · intro hone
    exact State.onlyWarned_lapses hb fun m hm htrip => hnb (hone m htrip ▸ hm)
  · intro hmax
    rw [hall, State.lapses_split]
    refine State.onlyWarned_lapses ha fun m hm htrip => ?_
    have := hmax m ((lapseTrips_congr hsteady (hkept m hm)).mp htrip)
    have := hlt m hm
    omega
  · intro hmax
    rw [hall, State.lapses_split]
    refine State.checkNotice_lapses ha fun m hm hwarn => ?_
    have := hmax m ((lapseWarns_congr hsteady (hkept m hm)).mp hwarn)
    have := hlt m hm
    omega

section Turn

variable {s : State} {n : Ix} {y z u : State} (h : LapseTurn s n y z u)
include h

theorem LapseTurn.steady : Steady s u := by
  obtain ⟨rfl, hb, -, ha, -⟩ := h
  exact (hb.trans (State.steady_lapse n y)).trans ha

/-- The warning mark behind the lapses (R67). -/
theorem LapseTurn.mark : (s.Late n → (u.check n).lapseWarned = true) ∧
    (¬ s.Late n → (u.check n).lapseWarned = (s.check n).lapseWarned) := by
  obtain ⟨rfl, hb, hk, -, hka, -⟩ := h
  have hlate := late_congr hb hk
  refine ⟨fun hl => ?_, fun hl => ?_⟩
  · have hly := hlate.mpr hl
    have hw : ((y.warnLapse n).check n).lapseWarned = true := by
      rw [State.check_warnLapse, if_pos ⟨rfl, hly.2⟩]
    rw [hka.warned]
    by_cases hold : y.LapseTrips n
    · obtain ⟨c, d, p, e, -⟩ := State.lapse_old hold
      rw [e, (State.scannerStep_tripTo n c 0 d p _).warned, hw]
    · rw [State.lapse_young hly hold, hw]
  · rw [hka.warned, State.lapse_notLate fun hy => hl (hlate.mp hy), hk.warned]

/-- The warnings that stand behind the lapses (R67, R181; log entry 49). -/
theorem LapseTurn.warns (hw : s.LapseWarns n) : Noticed s u (.v n) .check (some n) 2 (s.check n).age ∧
    ((∀ m, s.LapseWarns m → m.toNat ≤ n.toNat) → Noticed s u .t .check (some n) 2 (s.check n).age) := by
  have hquiet := h.afterQuiet
  obtain ⟨rfl, hb, hk, ha, hka, -⟩ := h
  have hwy := (lapseWarns_congr hb hk).mpr hw
  rw [← hb.age n]
  exact ⟨State.noticed_between (State.noticed_lapse_check hwy (.inr rfl)) hb ha (by rw [hka.port]),
    fun hmax => State.noticed_between (State.noticed_lapse_check hwy (.inl rfl)) hb ha (hquiet hmax)⟩

/-- A berth whose lapse trips nothing keeps its record. -/
theorem LapseTurn.kept (hno : ¬ s.LapseTrips n) : u.berth n = s.berth n := by
  obtain ⟨rfl, hb, hk, -, hka, -⟩ := h
  rw [hka.berth, State.berth, (State.onlyWarned_lapse fun hy => hno ((lapseTrips_congr hb hk).mp hy)).berths, ← State.berth, hk.berth]

/-- A berth that a lapse trips (R22, R67). -/
theorem LapseTurn.trips (htrip : s.LapseTrips n) (hdue : (s.berth n).state = .opening → (s.berth n).purpose ≠ some .trip) :
    (u.berth n).state = .tripped ∧ (u.berth n).tripCause = some .checkLapsed ∧
    (u.berth n).breaker = .openSent ∧ (u.berth n).motionLimit = some 300 ∧ (u.berth n).permit = false ∧
    (u.berth n).consenting = none ∧ u.isAdmitted n = false ∧ u.ge.active.recs.get n = State.noGrant ∧
    u.ge.staged.recs.get n = State.noGrant ∧ Noticed s u (.v n) .trip (some n) TripCause.checkLapsed.index 0 ∧
    ((∀ m, s.LapseTrips m → m.toNat ≤ n.toNat) → Noticed s u .t .trip (some n) TripCause.checkLapsed.index 0) := by
  have hyoung := h.afterYoung
  obtain ⟨rfl, hb, hk, ha, hka, -⟩ := h
  have hty := (lapseTrips_congr hb hk).mpr htrip
  rw [← hk.berth] at hdue
  have hlapse := State.lapse_due hty hdue
  have hvb : ((y.warnLapse n).berths.get n) = y.berth n := by rw [State.berths_warnLapse, State.berth]
  have hbr : ((y.warnLapse n).berths.get n).breaker = .closed ∨ ((y.warnLapse n).berths.get n).breaker = .closeSent := by
    rw [hvb]
    exact hty.1.1
  have hzb : (y.lapse n).berth n = _ := (congrArg (State.berth · n) hlapse).trans
    (congrArg (Six.get · n) (State.berths_tripTo (y.warnLapse n) .checkLapsed 0 .tripped none
      (by rcases hbr with e | e <;> rw [e] <;> decide)))
  obtain ⟨hactive, hstaged⟩ := (y.warnLapse n).noGrant_tripTo n .checkLapsed 0 .tripped none
  have hadm := (y.warnLapse n).isAdmitted_tripTo n .checkLapsed 0 .tripped none
  rw [← hlapse] at hactive hstaged hadm
  refine ⟨?_, ?_, ?_, ?_, ?_, ?_, ?_, hka.active.trans hactive, hka.staged.trans hstaged,
    State.noticed_between (State.noticed_lapse_trip hty hdue (.inr rfl)) hb ha (by rw [hka.port]),
    fun hmax => State.noticed_between (State.noticed_lapse_trip hty hdue (.inl rfl)) hb ha ((hyoung hmax).tripNotice .t)⟩
  case refine_7 =>
    unfold State.isAdmitted at hadm ⊢
    rw [hka.grantBerth]
    exact hadm
  all_goals
    rw [hka.berth, hzb]
    simp only [Six.get_set_same]
  rcases hbr with e | e <;> rw [e] <;> rfl

/-- The flags and the consenting order of the only berth that a lapse trips (R22, R150). -/
theorem LapseTurn.alone (htrip : s.LapseTrips n) (hdue : (s.berth n).state = .opening → (s.berth n).purpose ≠ some .trip)
    (hone : ∀ m, s.LapseTrips m → m = n) : SourceReached n .tripped s u ∧ Consented s n .failed .checkFailed 0 u := by
  have hyoung := h.beforeYoung hone
  have hold := h.afterYoung fun m hm => by rw [hone m hm]
  have hcons := (h.trips htrip hdue).2.2.2.2.2.1
  obtain ⟨rfl, hb, hk, -, -, -⟩ := h
  have hty := (lapseTrips_congr hb hk).mpr htrip
  rw [← hk.berth] at hdue
  have hlapse := State.lapse_due hty hdue
  have hwarn := State.onlyWarned_warnLapse n y
  have hoe : (y.warnLapse n).oe = s.oe := hwarn.oe.trans hyoung.oe
  have hbs : (y.warnLapse n).berths = s.berths := hwarn.berths.trans hyoung.berths
  have hended : KeepsEnded (y.lapse n) u := State.keepsEnded_of_ports (by rw [hold.oe])
  have hreach := (y.warnLapse n).sourceReached_tripTo n .checkLapsed 0 .tripped none
  have hcon := (y.warnLapse n).consented_tripTo n .checkLapsed 0 .tripped none
  rw [← hlapse] at hreach hcon
  refine ⟨FlagsReached.after ?_ (by rw [hold.oe]) hended, hcon.of_steps ?_ (hwarn.now.trans hyoung.now)
    (fun r _ => State.slot_of_ports (by rw [hoe]) r) hended hcons⟩
  · refine sourceReached_of_waiters (by rw [hoe]) (hwarn.table.trans hyoung.table) (hwarn.now.trans hyoung.now) (fun m c hc => ?_)
      (fun _ _ _ _ => by unfold State.orders; rw [hoe]) hreach
    unfold State.berth at hc ⊢
    rwa [hbs] at hc
  · unfold State.berth
    rw [hbs]

end Turn

end Sys2Proof.Machine

namespace Sys2Proof.Machine

/-! ### A write of W (R67, R71) -/

theorem entryWritten_checkWindow (s : State) : s.entryWritten 6 = (s.chooseCheck.lapses Ix.all).follow := rfl

theorem Ix.mem_circle (n p : Ix) : n ∈ p.circle := by cases p <;> cases n <;> decide

/-- The search starts a check where it may find a berth (R61, R62). -/
theorem State.chooseCheck_finds {s : State} {n : Ix} (hidle : s.cs.scanner = .idle) (hq : s.cs.queue = [])
    (hn : s.roundRobin n = true) : s.chooseCheck.cs.scanner ≠ .idle := by
  unfold State.chooseCheck
  simp only [hidle, hq]
  split
  · simp
  · rename_i hnone
    exact absurd hn (by simpa using List.find?_eq_none.mp hnone n (Ix.mem_circle n _))

/-- The state in which a write of W lets the berths lapse: the order runs, W is stored, and the next check is chosen. -/
structure WindowWritten (s c : State) (o : OrderRec) (win : Nat) : Prop where
  oe : c.oe = (s.withRunning .t o).oe
  link : c.link = (s.withRunning .t o).link
  berths : c.berths = s.berths
  ge : c.ge = s.ge
  now : c.now = s.now
  powered : c.powered = s.powered
  inputs : c.inputs = s.inputs
  cp : c.cp = s.cp
  gi : c.gi = s.gi
  pru : c.pru = s.pru
  pending : c.pending = s.pending
  window : c.param 6 = win
  param : ∀ j, j ≠ 6 → c.param j = s.param j
  age : ∀ n, (c.check n).age = (s.check n).age
  warned : ∀ n, (c.check n).lapseWarned = (s.check n).lapseWarned
  finds : s.cs.scanner = .idle → s.cs.queue = [] → ∀ n, (s.berth n).plug = .present → (s.berth n).state ≠ .vacant →
    (s.check n).status = .passed → win / 2 ≤ (s.check n).age → c.cs.scanner ≠ .idle

theorem windowWritten {s w x : State} {o : OrderRec} {v : Nat} (ht : TableInv s) (hw : w = s.withRunning .t o)
    (hx : x = w.modTable fun l => l.set 6 (entryClamp 6 v)) : WindowWritten s x.chooseCheck o (entryClamp 6 v) := by
  have hxcs : x.cs = s.cs := by rw [hx, hw]; rfl
  have hxb : x.berths = s.berths := by rw [hx, hw]; rfl
  have hlen : 6 < w.table.length := by
    have : w.table.length = 64 := by rw [hw]; exact ht.1
    omega
  have hwin : x.param 6 = entryClamp 6 v := by
    rw [hx]
    unfold State.param
    rw [State.table_modTable, List.getD_eq_getElem?_getD, List.getElem?_set_self hlen]
    rfl
  have hother : ∀ j, j ≠ 6 → x.param j = s.param j := fun j hj => by
    rw [hx, hw]
    unfold State.param
    rw [State.table_modTable, List.getD_eq_getElem?_getD, List.getElem?_set_ne (Ne.symm hj), ← List.getD_eq_getElem?_getD]
    rfl
  have hcheck : ∀ n, x.check n = s.check n := fun n => by unfold State.check; rw [hxcs]
  have hstep := State.scannerStep_chooseCheck x
  have hparam : ∀ j, x.chooseCheck.param j = x.param j := fun j => by
    unfold State.param
    rw [(State.fields_chooseCheck x).2.2.1]
  obtain ⟨h1, h2, -, h4, h5, h6, h7, h8, h9, h10, h11, h12⟩ := State.fields_chooseCheck x
  refine ⟨h6.trans ?_, h5.trans ?_, h7.trans hxb, h11.trans ?_, h2.trans ?_, h1.trans ?_, h4.trans ?_, h9.trans ?_, h10.trans ?_,
    h8.trans ?_, h12.trans ?_, (hparam 6).trans hwin, fun j hj => (hparam j).trans (hother j hj),
    fun n => (hstep.age n).trans (by rw [hcheck]), fun n => (hstep.warned n).trans (by rw [hcheck]),
    fun hidle hq n hp hst hpassed hage => ?_⟩
  case refine_11 =>
    refine State.chooseCheck_finds (n := n) (by rw [hxcs, hidle]) (by rw [hxcs, hq]) ?_
    have hxw : x.checkWindow = entryClamp 6 v := hwin
    have hxn : x.berth n = s.berth n := by unfold State.berth; rw [hxb]
    simp [State.roundRobin, hcheck, hxn, hp, hpassed, hxw, hst, hage]
  all_goals rw [hx, hw]; rfl

namespace WindowWritten

variable {s c u : State} {o : OrderRec} {win : Nat} (h : WindowWritten s c o win)
include h

theorem berth (n : Ix) : c.berth n = s.berth n := by
  unfold State.berth
  rw [h.berths]

theorem late (n : Ix) : c.Late n ↔
    ((s.berth n).breaker = .closed ∨ (s.berth n).breaker = .closeSent) ∧ win < (s.check n).age := by
  unfold State.Late State.checkWindow
  rw [h.berth, h.window, h.age]

theorem lapseWarns (n : Ix) : c.LapseWarns n ↔ c.Late n ∧ (s.check n).lapseWarned = false := by
  unfold State.LapseWarns
  rw [h.warned]

theorem lapseTrips (n : Ix) : c.LapseTrips n ↔ c.Late n ∧ 2 * win < (s.check n).age ∧ (s.berth n).state ≠ .tripped := by
  unfold State.LapseTrips State.checkWindow
  rw [h.berth, h.window, h.age]

/-- A notice behind the write is one of the state before the order. -/
theorem noticed {p : Port} {cls : NoticeClass} {n : Option Ix} {k v : Nat} (hn : Noticed c u p cls n k v) :
    Noticed s u p cls n k v := by
  have hslot : (c.port p).notices = (s.port p).notices := by
    unfold State.port
    rw [h.link, link_withRunning]
    by_cases hp : p = .t
    · subst hp
      rw [PortMap.get_set_same]
      rfl
    · rw [PortMap.get_set_ne _ _ hp]
  unfold Noticed at hn ⊢
  rwa [hslot, h.ge] at hn

theorem reached {n : Ix} {src : FlagSource} (hr : PortReady s .t) (ht : SourceReached n src c u) : SourceReached n src s u := by
  refine sourceReached_of_sources (by rw [h.oe]; rfl) (fun m second => h.param _ ?_) h.now (fun m r hc => ?_)
    (fun second w hw _ => ?_) ht
  · unfold berthEntry
    omega
  · rwa [h.berth] at hc
  · unfold State.orders
    rw [h.oe, ports_withRunning, PortMap.get_set_ne _ _ (hr.noWait n second w hw)]

theorem consented {n : Ix} {v : Verdict} {k : Code} {d : Nat} (hr : PortReady s .t) (hc : Consented c n v k d u) :
    Consented s n v k d u :=
  hc.of_steps (by rw [h.berth]) h.now (fun r hcon => (State.slot_of_ports (by rw [h.oe]) r).trans
    (State.slot_withRunning (hr.noConsent n r hcon))) (fun _ _ hs _ => hs) hc.1

end WindowWritten

end Sys2Proof.Machine

namespace Sys2Proof.Machine

/-- What the lapses may touch besides W itself: nothing of the blocks that the berths' own steps leave alone. -/
theorem onlyTouches_lapsed {s c u : State} {o : OrderRec} {win : Nat} (h : WindowWritten s c o win) (hu : Steady c u) :
    OnlyTouches ([.table, .flags, .reference, .scanner, .grants] ++ allLinks ++ allOrders ++ Ix.all.map Part.berth) s u := by
  have ha := hu.aside
  intro b hb
  cases b
  case power => exact ha.powered.trans h.powered
  case time => exact ha.now.trans h.now
  case waiting => exact ha.pending.trans h.pending
  case inputs => exact ha.inputs.trans h.inputs
  case held => exact ha.held.trans (by rw [h.oe]; rfl)
  case pool => exact ha.cp.trans h.cp
  case grid => exact ha.gi.trans h.gi
  case link p =>
    exact absurd (List.mem_append_left _ (List.mem_append_left _ (List.mem_append_right _ (mem_allLinks p)))) hb
  case orders p => exact absurd (List.mem_append_left _ (List.mem_append_right _ (mem_allOrders p))) hb
  case berth n => exact absurd (List.mem_append_right _ (List.mem_map_of_mem (by cases n <;> decide))) hb
  all_goals exact absurd (by simp) hb

/-- Without a lapse a write of W sets the table and lets the scanner choose (R71). -/
theorem onlyTouches_chosen {s w x : State} {o : OrderRec} {f : List Nat → List Nat} (hw : w = s.withRunning .t o)
    (hx : x = w.modTable f) : OnlyTouches [.link .t, .orders .t, .table, .scanner] s x.chooseCheck := by
  refine onlyTouches_taken hw (by simp) (by simp) (onlyTouches_trans (t := x) ?_ ?_)
  · rw [hx]
    exact onlyTouches_mono (onlyTouches_modTable _) (by simp)
  · apply onlyTouches_of_fields <;> simp +contextual

/-- What the lapses under a new W do to the berths, told of the state before the order (R22, R67, R181; log entry 49). -/
theorem lapses_answer {s c : State} {o : OrderRec} {win : Nat} (h : WindowWritten s c o win) (hr : PortReady s .t)
    (hquiet : (∀ n, ¬ c.Late n) → OnlyTouches [.link .t, .orders .t, .table, .scanner] s c) :
    ∀ late warned old due : Ix → Prop,
      (∀ n, late n ↔ ((s.berth n).breaker = .closed ∨ (s.berth n).breaker = .closeSent) ∧ win < (s.check n).age) →
      (∀ n, warned n ↔ late n ∧ (s.check n).lapseWarned = false) →
      (∀ n, old n ↔ late n ∧ 2 * win < (s.check n).age ∧ (s.berth n).state ≠ .tripped) →
      (∀ n, due n ↔ old n ∧ ((s.berth n).state = .opening → (s.berth n).purpose ≠ some .trip)) →
      (∀ n, ((c.lapses Ix.all).check n).age = (s.check n).age ∧ (late n → ((c.lapses Ix.all).check n).lapseWarned = true) ∧
        (¬ late n → ((c.lapses Ix.all).check n).lapseWarned = (s.check n).lapseWarned)) ∧
      (∀ n, warned n → Noticed s (c.lapses Ix.all) (.v n) .check (some n) 2 (s.check n).age ∧
        ((∀ m, warned m → m.toNat ≤ n.toNat) → Noticed s (c.lapses Ix.all) .t .check (some n) 2 (s.check n).age)) ∧
      (∀ n, due n → ((c.lapses Ix.all).berth n).state = .tripped ∧ ((c.lapses Ix.all).berth n).tripCause = some .checkLapsed ∧
        ((c.lapses Ix.all).berth n).breaker = .openSent ∧ ((c.lapses Ix.all).berth n).motionLimit = some 300 ∧
        ((c.lapses Ix.all).berth n).permit = false ∧ ((c.lapses Ix.all).berth n).consenting = none ∧
        (c.lapses Ix.all).isAdmitted n = false ∧ (c.lapses Ix.all).ge.active.recs.get n = State.noGrant ∧
        (c.lapses Ix.all).ge.staged.recs.get n = State.noGrant ∧
        Noticed s (c.lapses Ix.all) (.v n) .trip (some n) TripCause.checkLapsed.index 0 ∧
        ((∀ m, old m → m.toNat ≤ n.toNat) → Noticed s (c.lapses Ix.all) .t .trip (some n) TripCause.checkLapsed.index 0) ∧
        ((∀ m, old m → m = n) → Tripped s n .checkLapsed (c.lapses Ix.all) ∧
          Consented s n .failed .checkFailed 0 (c.lapses Ix.all))) ∧
      (∀ n, ¬ old n → (c.lapses Ix.all).berth n = s.berth n) ∧
      ((∀ n, ¬ late n) → OnlyTouches [.link .t, .orders .t, .table, .scanner] s (c.lapses Ix.all)) := by
  intro late warned old due hlate hwarned hold hdue
  have hl : ∀ n, c.Late n ↔ late n := fun n => (h.late n).trans (hlate n).symm
  have hw : ∀ n, c.LapseWarns n ↔ warned n := fun n => by rw [h.lapseWarns, hl, hwarned]
  have ho : ∀ n, c.LapseTrips n ↔ old n := fun n => by rw [h.lapseTrips, hl, hold]
  refine ⟨fun n => ?_, fun n hn => ?_, fun n hn => ?_, fun n hn => ?_, fun hnone => ?_⟩
  · obtain ⟨y, z, hturn⟩ := lapseTurn c n
    obtain ⟨hmark, hmark'⟩ := hturn.mark
    exact ⟨(hturn.steady.age n).trans (h.age n), fun h' => hmark ((hl n).mpr h'),
      fun h' => (hmark' ((hl n).not.mpr h')).trans (h.warned n)⟩
  · obtain ⟨y, z, hturn⟩ := lapseTurn c n
    obtain ⟨hv, ht⟩ := hturn.warns ((hw n).mpr hn)
    rw [h.age] at hv ht
    exact ⟨h.noticed hv, fun hmax => h.noticed (ht fun m hm => hmax m ((hw m).mp hm))⟩
  · obtain ⟨y, z, hturn⟩ := lapseTurn c n
    obtain ⟨hon, hopen⟩ := (hdue n).mp hn
    rw [← h.berth] at hopen
    obtain ⟨h1, h2, h3, h4, h5, h6, h7, h8, h9, hv, ht⟩ := hturn.trips ((ho n).mpr hon) hopen
    have htop : (∀ m, old m → m.toNat ≤ n.toNat) → Noticed s (c.lapses Ix.all) .t .trip (some n) TripCause.checkLapsed.index 0 :=
      fun hmax => h.noticed (ht fun m hm => hmax m ((ho m).mp hm))
    refine ⟨h1, h2, h3, h4, h5, h6, h7, h8, h9, h.noticed hv, htop, fun hone => ?_⟩
    obtain ⟨hreach, hcon⟩ := hturn.alone ((ho n).mpr hon) hopen fun m hm => hone m ((ho m).mp hm)
    refine ⟨⟨h1, h2, h3, h5, h7, h8, h9, fun p hp => ?_, fun _ => h.reached hr hreach⟩, h.consented hr hcon⟩
    rcases hp with rfl | rfl
    · exact htop fun m hm => by rw [hone m hm]
    · exact h.noticed hv
  · obtain ⟨y, z, hturn⟩ := lapseTurn c n
    rw [hturn.kept ((ho n).not.mpr hn), h.berth]
  · have hno : ∀ n, ¬ c.Late n := fun n => (hl n).not.mpr (hnone n)
    rw [State.lapses_none (by decide) fun n _ => hno n]
    exact hquiet hno

/-- A write of W (R67, R71). -/
theorem setParameter_checkWindow {s : State} {stop : Bool} {start count : Byte} {v1 v2 v3 v4 v5 : Word} {win k : Nat} {row : Instr}
    (h : PortReady s .t) (ht : TableInv s) (hrow : row = .setParameter .t stop start count v1 v2 v3 v4 v5)
    (hs : start.toNat = 6) (hc : count.toNat = 1) (hwin : win = entryClamp 6 v1.toNat)
    (hk : k = (if entryOk 6 v1.toNat then 0 else 1)) :
    ∃ u : State, exec row s = .next (u.follow.endOrder (s.nextRef .t) (doneClamped k k 1)).settle ∧
      u.param 6 = win ∧ (∀ j, j ≠ 6 → u.param j = s.param j) ∧
      (s.cs.scanner = .idle → s.cs.queue = [] → ∀ n, (s.berth n).plug = .present → (s.berth n).state ≠ .vacant →
        (s.check n).status = .passed → win / 2 ≤ (s.check n).age → u.cs.scanner ≠ .idle) ∧
      (∀ late warned old due : Ix → Prop,
        (∀ n, late n ↔ ((s.berth n).breaker = .closed ∨ (s.berth n).breaker = .closeSent) ∧ win < (s.check n).age) →
        (∀ n, warned n ↔ late n ∧ (s.check n).lapseWarned = false) →
        (∀ n, old n ↔ late n ∧ 2 * win < (s.check n).age ∧ (s.berth n).state ≠ .tripped) →
        (∀ n, due n ↔ old n ∧ ((s.berth n).state = .opening → (s.berth n).purpose ≠ some .trip)) →
        (∀ n, (u.check n).age = (s.check n).age ∧ (late n → (u.check n).lapseWarned = true) ∧
          (¬ late n → (u.check n).lapseWarned = (s.check n).lapseWarned)) ∧
        (∀ n, warned n → Noticed s u (.v n) .check (some n) 2 (s.check n).age ∧
          ((∀ m, warned m → m.toNat ≤ n.toNat) → Noticed s u .t .check (some n) 2 (s.check n).age)) ∧
        (∀ n, due n → (u.berth n).state = .tripped ∧ (u.berth n).tripCause = some .checkLapsed ∧
          (u.berth n).breaker = .openSent ∧ (u.berth n).motionLimit = some 300 ∧ (u.berth n).permit = false ∧
          (u.berth n).consenting = none ∧ u.isAdmitted n = false ∧ u.ge.active.recs.get n = State.noGrant ∧
          u.ge.staged.recs.get n = State.noGrant ∧ Noticed s u (.v n) .trip (some n) TripCause.checkLapsed.index 0 ∧
          ((∀ m, old m → m.toNat ≤ n.toNat) → Noticed s u .t .trip (some n) TripCause.checkLapsed.index 0) ∧
          ((∀ m, old m → m = n) → Tripped s n .checkLapsed u ∧ Consented s n .failed .checkFailed 0 u)) ∧
        (∀ n, ¬ old n → u.berth n = s.berth n) ∧
        ((∀ n, ¬ late n) → OnlyTouches [.link .t, .orders .t, .table, .scanner] s u)) ∧
      OnlyTouches ([.table, .flags, .reference, .scanner, .grants] ++ allLinks ++ allOrders ++ Ix.all.map Part.berth) s u := by
  subst hrow hwin hk
  obtain ⟨w, hw⟩ : ∃ w, w = s.withRunning .t ⟨.setParameter start count v1 v2 v3 v4 v5, stop, 0⟩ := ⟨_, rfl⟩
  obtain ⟨x, hx⟩ : ∃ x, x = w.modTable fun l => l.set 6 (entryClamp 6 v1.toNat) := ⟨_, rfl⟩
  have hwritten := windowWritten ht hw hx
  have hstore : State.storeRun start.toNat [v1.toNat] w = (x.chooseCheck.lapses Ix.all).follow := by
    rw [hs, hx]
    rfl
  have hwritable : State.Writable start.toNat [v1.toNat].length w :=
    writable_taken hw (k := 1) (by omega) (by omega) fun i _ _ => s.entryBlocked_low (by omega)
  have hclamped : clampedIn start.toNat [v1.toNat] = if entryOk 6 v1.toNat then 0 else 1 := by
    rw [hs, clampedIn_cons]
    rfl
  have hrun := State.writeRun_all hwritable
  have hwrote := State.wrote_storeRun .t start.toNat [v1.toNat] w
  rw [hclamped, hstore] at hrun
  rw [hstore] at hwrote
  obtain ⟨hexec, -⟩ := setParameter_ends h rfl (by omega) (by omega) (by omega) hw (by rw [hc]; exact hrun) hwrote
  have hsteady := State.steady_lapses Ix.all x.chooseCheck
  have hparam : ∀ j, (x.chooseCheck.lapses Ix.all).param j = x.chooseCheck.param j := fun j => by
    unfold State.param
    rw [hsteady.aside.table]
  exact ⟨_, hexec, (hparam 6).trans hwritten.window, fun j hj => (hparam j).trans (hwritten.param j hj),
    fun hidle hq n hp hst hpassed hage => hsteady.busy (hwritten.finds hidle hq n hp hst hpassed hage),
    lapses_answer hwritten h fun _ => onlyTouches_chosen hw hx, onlyTouches_lapsed hwritten hsteady⟩

/-- Settles O25. -/
theorem setParameterAnswers : Obligations.SetParameterAnswers := by
  refine ⟨fun s stop start count v1 v2 v3 v4 v5 vals row h ht hrow hvals h1 h5 hle hfree =>
      setParameter_stores h ht hrow hvals h1 h5 hle hfree,
    fun s stop start count v1 v2 v3 v4 v5 w k row h ht hrow hs hc hw hk => setParameter_checkWindow h ht hrow hs hc hw hk,
    fun s stop start count v1 v2 v3 v4 v5 row h ht hrow h9 h11 hc hquiet => setParameter_window h ht hrow h9 h11 hc hquiet,
    fun s stop start count v1 v2 v3 v4 v5 vals row h ht hrow hvals h1 h5 hs => ⟨entryBlocked_berth s, fun k hk hle hfree hb =>
      setParameter_blocked h ht hrow hvals h5 hk hle hfree hb, fun hgt hfree =>
      setParameter_overruns h ht hrow hvals h1 h5 hs hgt hfree⟩⟩

end Sys2Proof.Machine

/-! Support for the obligations about the bus B reference: the follow claim, the operations that one instant takes in, and the
second that passes on an empty queue. -/

namespace Sys2Proof.Machine

/-- Settles O7: the ranges are among the properties that every primitive update keeps, so every step keeps them. -/
theorem stepKeepsRangeInv : Obligations.StepKeepsRangeInv := fun _ _ hs ht => stable_rangeInv.step hs ht

/-! ### Deferral of the waiters (R46) -/

/-- A window is deferred: its settle timer stops. -/
def ShipPhase.defer (p : ShipPhase) : ShipPhase := { p with window := .deferred, settle := none }

/-- Deferral ends for a window, which is then judged again. -/
def ShipPhase.undefer (p : ShipPhase) : ShipPhase :=
  if p.window = .deferred then { p with window := .outside, settle := none } else p

theorem ShipPhase.undefer_of_ne {p : ShipPhase} (h : p.window ≠ .deferred) : p.undefer = p := if_neg h

theorem ShipPhase.window_undefer (p : ShipPhase) : p.undefer.window ≠ .deferred := by
  unfold undefer
  split
  · simp
  · assumption

theorem ShipPhase.undefer_undefer (p : ShipPhase) : p.undefer.undefer = p.undefer := undefer_of_ne p.window_undefer

namespace State

/-- The berths that wait for the claim. -/
def claimants (s : State) : List Ix := s.pru.waiting.map ClaimRequest.berth

theorem mem_claimants {s : State} {n : Ix} : n ∈ s.claimants ↔ ∃ r ∈ s.pru.waiting, r.berth = n := List.mem_map

/-- A window update leaves everything of the Phase Reference Unit but the windows. -/
theorem pru_setWindow (n : Ix) (w : Window) (x : Option Nat) (s : State) :
    (s.setWindow n w x).pru = { s.pru with ships := (s.setWindow n w x).pru.ships } := rfl

/-- A sequence of updates that each leave everything of the Phase Reference Unit but the windows does so too. -/
theorem pru_forEach {α : Type} {f : α → State → State} (hf : ∀ a s, (f a s).pru = { s.pru with ships := (f a s).pru.ships })
    (l : List α) (s : State) : (s.forEach l f).pru = { s.pru with ships := (s.forEach l f).pru.ships } := by
  refine keep_forEach (P := fun t => t.pru = { s.pru with ships := t.pru.ships }) (fun a t ht => ?_) l rfl
  rw [hf a t, ht]

theorem pru_deferWaiters (s : State) : s.deferWaiters.pru = { s.pru with ships := s.deferWaiters.pru.ships } :=
  pru_forEach (f := fun (r : ClaimRequest) t => t.setWindow r.berth .deferred none) (fun _ _ => rfl) _ s

theorem pru_endDeferral (s : State) : s.endDeferral.pru = { s.pru with ships := s.endDeferral.pru.ships } :=
  pru_forEach (f := fun (r : ClaimRequest) t =>
    if (t.ship r.berth).window = .deferred then t.setWindow r.berth .outside none else t)
    (fun _ _ => by split <;> rfl) _ s

/-- Updates in turn, each by the same idempotent change of the window of one request's berth, change each berth of the list once. -/
theorem ship_forEach {f : ClaimRequest → State → State} {g : ShipPhase → ShipPhase} (hg : ∀ p, g (g p) = g p)
    (hf : ∀ r t m, (f r t).ship m = if m = r.berth then g (t.ship m) else t.ship m) (l : List ClaimRequest) (n : Ix) (s : State) :
    (s.forEach l f).ship n = if n ∈ l.map ClaimRequest.berth then g (s.ship n) else s.ship n := by
  induction l generalizing s with
  | nil => rfl
  | cons r l ih =>
    have hcons : (s.forEach (r :: l) f).ship n =
        if n ∈ l.map ClaimRequest.berth then g ((f r s).ship n) else (f r s).ship n := ih (f r s)
    rw [hcons, hf]
    by_cases hr : n = r.berth
    · simp [hr, hg]
    · simp [hr]

/-- Deferral begins: every waiter is DEFERRED, and no other window moves. -/
theorem ship_deferWaiters (s : State) (n : Ix) :
    s.deferWaiters.ship n = if n ∈ s.claimants then (s.ship n).defer else s.ship n :=
  ship_forEach (g := ShipPhase.defer) (fun _ => rfl) (fun r t m => by
    rw [ship_setWindow]
    split
    · subst m; rfl
    · rfl) s.pru.waiting n s

/-- Deferral ends: a waiter that was DEFERRED is OUTSIDE, and no other window moves. -/
theorem ship_endDeferral (s : State) (n : Ix) :
    s.endDeferral.ship n = if n ∈ s.claimants then (s.ship n).undefer else s.ship n :=
  ship_forEach (g := ShipPhase.undefer) ShipPhase.undefer_undefer (fun r t m => by
    by_cases hd : (t.ship r.berth).window = .deferred
    · rw [if_pos hd, ship_setWindow]
      split
      · subst m; rw [ShipPhase.undefer, if_pos hd]
      · rfl
    · rw [if_neg hd]
      split
      · subst m; rw [ShipPhase.undefer_of_ne hd]
      · rfl) s.pru.waiting n s

/-- Once deferral has ended no waiter is DEFERRED. -/
theorem window_endDeferral {s : State} {r : ClaimRequest} (h : r ∈ s.pru.waiting) :
    (s.endDeferral.ship r.berth).window ≠ .deferred := by
  rw [ship_endDeferral, if_pos (mem_claimants.mpr ⟨r, h, rfl⟩)]
  exact ShipPhase.window_undefer _

/-! ### The grant of the claim (R43) -/

/-- The claim is given to a request, before the deferral of the others. -/
def claimGiven (r : ClaimRequest) (s : State) : State :=
  s.modPru fun u =>
    { u with holder := some r, waiting := u.waiting.filter fun x => decide (x.berth ≠ r.berth), mode := .follow r.berth }

theorem mem_claimants_claimGiven (r : ClaimRequest) (s : State) (n : Ix) :
    n ∈ (s.claimGiven r).claimants ↔ n ∈ s.claimants ∧ n ≠ r.berth := by
  show n ∈ (s.pru.waiting.filter fun x => decide (x.berth ≠ r.berth)).map ClaimRequest.berth ↔ _
  simp only [claimants, List.mem_map, List.mem_filter, decide_eq_true_eq]
  constructor
  · rintro ⟨x, ⟨hx, hne⟩, rfl⟩
    exact ⟨⟨x, hx, rfl⟩, hne⟩
  · rintro ⟨⟨x, hx, rfl⟩, hne⟩
    exact ⟨x, ⟨hx, hne⟩, rfl⟩

/-- The windows once the claim is given and the other waiters are deferred. -/
theorem ship_claimGiven (r : ClaimRequest) (s : State) (n : Ix) : (s.claimGiven r).deferWaiters.ship n =
    if n ∈ s.claimants ∧ n ≠ r.berth then (s.ship n).defer else s.ship n := by
  rw [ship_deferWaiters]
  exact if_congr (mem_claimants_claimGiven r s n) rfl rfl

theorem grantClaim_eq (r : ClaimRequest) (s : State) : s.grantClaim r =
    if (s.ship r.berth).window ∈ [.inactive, .deferred] then (s.claimGiven r).deferWaiters.setWindow r.berth .outside none
    else (s.claimGiven r).deferWaiters := by
  have hown : (s.claimGiven r).deferWaiters.ship r.berth = s.ship r.berth := by rw [ship_claimGiven]; simp
  rw [← hown]
  show (match ((s.claimGiven r).deferWaiters.ship r.berth).window with
    | .inactive | .deferred => (s.claimGiven r).deferWaiters.setWindow r.berth .outside none
    | .outside | .settling | .held => (s.claimGiven r).deferWaiters) = _
  split <;> rename_i hw <;> rw [hw] <;> rfl

/-- The claim is granted: the berth holds it, it waits no longer, and the reference follows it. -/
theorem pru_grantClaim (r : ClaimRequest) (s : State) : (s.grantClaim r).pru = { s.pru with
    holder := some r, waiting := s.pru.waiting.filter fun x => decide (x.berth ≠ r.berth), mode := .follow r.berth
    ships := (s.grantClaim r).pru.ships } := by
  have hd := pru_deferWaiters (s.claimGiven r)
  rw [grantClaim_eq]
  split
  · rw [pru_setWindow, hd]; rfl
  · rw [hd]; rfl

/-- The windows after a grant: the new holder's is judged, another waiter's is DEFERRED, and the rest stay. -/
theorem ship_grantClaim (r : ClaimRequest) (s : State) (n : Ix) : (s.grantClaim r).ship n =
    if n = r.berth then
      if (s.ship n).window ∈ [.inactive, .deferred] then { s.ship n with window := .outside, settle := none } else s.ship n
    else if n ∈ s.claimants then (s.ship n).defer else s.ship n := by
  rw [grantClaim_eq]
  by_cases hn : n = r.berth
  · subst hn
    rw [if_pos rfl]
    split
    · rw [ship_setWindow, if_pos rfl, ship_claimGiven]; simp
    · rw [ship_claimGiven]; simp
  · have hrest : (if (s.ship r.berth).window ∈ [.inactive, .deferred] then
        (s.claimGiven r).deferWaiters.setWindow r.berth .outside none else (s.claimGiven r).deferWaiters).ship n =
        (s.claimGiven r).deferWaiters.ship n := by
      split
      · rw [ship_setWindow, if_neg hn]
      · rfl
    rw [hrest, ship_claimGiven, if_neg hn]
    exact if_congr (and_iff_left hn) rfl rfl

/-- The new holder's window is judged. -/
theorem window_grantClaim (r : ClaimRequest) (s : State) :
    ((s.grantClaim r).ship r.berth).window ∈ [.outside, .settling, .held] := by
  rw [ship_grantClaim, if_pos rfl]
  cases h : (s.ship r.berth).window <;> simp [h]

/-- A berth that goes on waiting is DEFERRED by the grant to another, without a settle timer (R46). -/
theorem deferred_grantClaim {s : State} {r x : ClaimRequest} (hx : x ∈ s.pru.waiting) (h : x.berth ≠ r.berth) :
    ((s.grantClaim r).ship x.berth).window = .deferred ∧ ((s.grantClaim r).ship x.berth).settle = none := by
  rw [ship_grantClaim, if_neg h, if_pos (mem_claimants.mpr ⟨x, hx, rfl⟩)]
  exact ⟨rfl, rfl⟩

theorem grantHead_free {s : State} {r : ClaimRequest} {rest : List ClaimRequest} (hh : s.pru.holder = none)
    (hb : s.pru.busBInUse = false) (hw : s.pru.waiting = r :: rest) : s.grantHead = s.grantClaim r := by
  simp [grantHead, hh, hb, hw]

theorem grantHead_nobody {s : State} (hw : s.pru.waiting = []) : s.grantHead = s := by
  simp [grantHead, hw]

theorem grantHead_held {s : State} {r : ClaimRequest} (hh : s.pru.holder = some r) : s.grantHead = s := by
  simp [grantHead, hh]

theorem grantHead_inUse {s : State} (hb : s.pru.busBInUse = true) : s.grantHead = s := by
  unfold grantHead
  split
  · rw [if_pos hb]
  · rfl

/-- The list without the berth at its head, which stands there once. -/
theorem filter_head {r : ClaimRequest} {rest : List ClaimRequest} (h : ∀ x ∈ rest, x.berth ≠ r.berth) :
    (r :: rest).filter (fun x => decide (x.berth ≠ r.berth)) = rest := by
  rw [List.filter_cons_of_neg (by simp)]
  exact List.filter_eq_self.mpr fun x hx => by simpa using h x hx

/-- What a grant to the head of the list leaves, where the head stands in the list once. -/
theorem grantHead_answers {s : State} {r : ClaimRequest} {rest : List ClaimRequest} (hh : s.pru.holder = none)
    (hb : s.pru.busBInUse = false) (hw : s.pru.waiting = r :: rest) (hone : ∀ x ∈ rest, x.berth ≠ r.berth) :
    s.grantHead.pru = { s.pru with
      holder := some r, waiting := rest, mode := .follow r.berth, ships := s.grantHead.pru.ships } ∧
    (s.grantHead.ship r.berth).window ∈ [.outside, .settling, .held] ∧
    ∀ x ∈ rest, (s.grantHead.ship x.berth).window = .deferred ∧ (s.grantHead.ship x.berth).settle = none := by
  rw [grantHead_free hh hb hw]
  refine ⟨?_, window_grantClaim r s, fun x hx => deferred_grantClaim (by simp [hw, hx]) (hone x hx)⟩
  have hpru := pru_grantClaim r s
  rw [hw, filter_head hone] at hpru
  exact hpru

/-! ### Requests, releases and revocations (R41 to R46) -/

/-- A request has joined the list, before any grant. -/
def claimRequested (n : Ix) (s : State) : State :=
  (s.setWindow n (if s.pru.holder.isSome then .deferred else .outside) none).modPru fun u =>
    { u with waiting := u.waiting ++ [{ berth := n, time := s.now }] }

theorem requestClaim_eq (n : Ix) (s : State) : s.requestClaim n = (s.claimRequested n).grantHead := rfl

theorem window_claimRequested (n : Ix) (s : State) :
    ((s.claimRequested n).ship n).window = if s.pru.holder.isSome then .deferred else .outside := by
  show ((s.setWindow n _ none).ship n).window = _
  rw [ship_setWindow, if_pos rfl]

/-- A request under a holder joins the list DEFERRED. -/
theorem requestClaim_held {s : State} {n : Ix} {r : ClaimRequest} (hh : s.pru.holder = some r) :
    (s.requestClaim n).pru = { s.pru with
      waiting := s.pru.waiting ++ [{ berth := n, time := s.now }], ships := (s.requestClaim n).pru.ships } ∧
    ((s.requestClaim n).ship n).window = .deferred := by
  rw [requestClaim_eq, grantHead_held (s := s.claimRequested n) hh, window_claimRequested, hh]
  exact ⟨rfl, rfl⟩

/-- A request while bus B is in use and nobody holds the claim joins the list OUTSIDE. -/
theorem requestClaim_inUse {s : State} {n : Ix} (hh : s.pru.holder = none) (hb : s.pru.busBInUse = true) :
    (s.requestClaim n).pru = { s.pru with
      waiting := s.pru.waiting ++ [{ berth := n, time := s.now }], ships := (s.requestClaim n).pru.ships } ∧
    ((s.requestClaim n).ship n).window = .outside := by
  rw [requestClaim_eq, grantHead_inUse (s := s.claimRequested n) hb, window_claimRequested, hh]
  exact ⟨rfl, rfl⟩

/-- A request that finds the claim free and nobody waiting is granted at once. -/
theorem requestClaim_free {s : State} {n : Ix} (hh : s.pru.holder = none) (hb : s.pru.busBInUse = false)
    (hw : s.pru.waiting = []) :
    (s.requestClaim n).pru = { s.pru with
      holder := some { berth := n, time := s.now }, mode := .follow n, ships := (s.requestClaim n).pru.ships } ∧
    ((s.requestClaim n).ship n).window = .outside := by
  have hlist : (s.claimRequested n).pru.waiting = [{ berth := n, time := s.now }] := by
    show s.pru.waiting ++ _ = _
    rw [hw]
    rfl
  obtain ⟨hpru, -, -⟩ := grantHead_answers (s := s.claimRequested n) hh hb hlist (by simp)
  rw [requestClaim_eq]
  refine ⟨?_, ?_⟩
  · rw [hpru, ← hw]
    rfl
  · rw [grantHead_free (s := s.claimRequested n) hh hb hlist, ship_grantClaim, if_pos rfl, window_claimRequested, hh]
    simp [window_claimRequested, hh]

/-- The holder leaves SYNCING with bus B in use or at its own close: RETURN, and no waiter is DEFERRED (R41, R44, R46). -/
theorem leaveSyncing_returns {s : State} {n : Ix} {own : Bool} (hc : s.holdsClaim n = true)
    (hb : s.pru.busBInUse = true ∨ own = true) :
    (s.leaveSyncing n own).pru = { s.pru with
      holder := none, waiting := s.pru.waiting.filter fun x => decide (x.berth ≠ n), mode := .ret
      ships := (s.leaveSyncing n own).pru.ships } ∧
    ∀ r ∈ (s.leaveSyncing n own).pru.waiting, ((s.leaveSyncing n own).ship r.berth).window ≠ .deferred := by
  obtain ⟨t, ht⟩ : ∃ t, t = (((s.leaveClaims n).setWindow n .inactive none).modPru fun u => { u with holder := none }).modPru
    fun u => { u with mode := .ret } := ⟨_, rfl⟩
  have hleave : s.leaveSyncing n own = t.endDeferral := by
    have hcond : (((s.leaveClaims n).setWindow n .inactive none).pru.busBInUse || own) = true := by
      show (s.pru.busBInUse || own) = true
      simpa using hb
    unfold leaveSyncing releaseClaim
    simp only [hc, if_true]
    rw [if_pos hcond, ht]
  have hpru := pru_endDeferral t
  rw [hleave]
  refine ⟨?_, fun r hr => window_endDeferral ?_⟩
  · rw [hpru, ht]
    rfl
  · rw [hpru] at hr
    exact hr

/-- The state in which the holder has left SYNCING with bus B not in use: FREE at 60.000 Hz, before the grant to the head. -/
def claimFreed (n : Ix) (s : State) : State :=
  (((s.leaveClaims n).setWindow n .inactive none).modPru fun u => { u with holder := none }).freeReference.endDeferral

theorem leaveSyncing_frees {s : State} {n : Ix} (hc : s.holdsClaim n = true) (hb : s.pru.busBInUse = false) :
    s.leaveSyncing n false = (s.claimFreed n).grantHead := by
  have hcond : ¬ (((s.leaveClaims n).setWindow n .inactive none).pru.busBInUse || false) = true := by
    show ¬ (s.pru.busBInUse || false) = true
    simp [hb]
  unfold leaveSyncing releaseClaim
  simp only [hc, if_true]
  rw [if_neg hcond]
  rfl

theorem pru_claimFreed (n : Ix) (s : State) : (s.claimFreed n).pru = { s.pru with
    holder := none, waiting := s.pru.waiting.filter fun x => decide (x.berth ≠ n), mode := .free, frequency := 60000
    ships := (s.claimFreed n).pru.ships } :=
  pru_endDeferral _

/-- Bus B comes into use under a holder: the claim is revoked, RETURN, and no waiter is DEFERRED (R41, R45, R46). -/
theorem followBusB_revokes {s : State} {r : ClaimRequest} (hh : s.pru.holder = some r) (hb : s.pru.busBInUse = false)
    (hu : s.busBUsed = true) :
    s.followBusB.pru = { s.pru with
      busBInUse := true, holder := none, waiting := r :: s.pru.waiting, mode := .ret, ships := s.followBusB.pru.ships } ∧
    (∀ x ∈ s.followBusB.pru.waiting, (s.followBusB.ship x.berth).window ≠ .deferred) ∧
    ((s.ship r.berth).window ≠ .deferred → s.followBusB.ship r.berth = s.ship r.berth) := by
  obtain ⟨t, ht⟩ : ∃ t, t = s.modPru fun u => { u with
    busBInUse := true, holder := none, waiting := r :: u.waiting, mode := .ret } := ⟨_, rfl⟩
  have hfollow : s.followBusB = t.endDeferral := by
    simp [followBusB, hb, hu, revokeClaim, hh, ht, modPru]
  have hpru := pru_endDeferral t
  rw [hfollow]
  refine ⟨?_, fun x hx => window_endDeferral ?_, fun hw => ?_⟩
  · rw [hpru, ht]
    rfl
  · rw [hpru] at hx
    exact hx
  · have hship : t.ship r.berth = s.ship r.berth := by rw [ht]; rfl
    rw [ship_endDeferral, hship, ShipPhase.undefer_of_ne hw, ite_self]

/-- Bus B's use is as the unit has it: nothing moves. -/
theorem followBusB_stays {s : State} (hu : s.busBUsed = true) (hb : s.pru.busBInUse = true) : s.followBusB = s := by
  simp only [followBusB, hb, hu, modPru]
  rw [← hb]

/-- Bus B comes into use and nobody holds the claim: nothing else moves. -/
theorem followBusB_unclaimed {s : State} (hh : s.pru.holder = none) (hu : s.busBUsed = true) :
    s.followBusB = s.modPru fun u => { u with busBInUse := true } := by
  cases hb : s.pru.busBInUse with
  | true => rw [followBusB_stays hu hb, modPru, ← hb]
  | false => simp [followBusB, hb, hu, revokeClaim, hh, modPru]

/-- Bus B has left use, before the grant to the head: RETURN ends, and any other mode stays. -/
def busBLeft (s : State) : State :=
  s.modPru fun u => { u with
    busBInUse := false, mode := if s.pru.mode = .ret then .free else s.pru.mode
    frequency := if s.pru.mode = .ret then 60000 else s.pru.frequency }

/-- Bus B leaves use: RETURN ends, and the head of the list is granted the claim (R41, R43). -/
theorem followBusB_leaves {s : State} (hb : s.pru.busBInUse = true) (hu : s.busBUsed = false) :
    s.followBusB = s.busBLeft.grantHead := by
  unfold followBusB
  simp only [hb, hu]
  by_cases hm : s.pru.mode = .ret <;> simp [hm, freeReference, modPru, busBLeft]

end State

/-! ### The follow claim -/

/-- A bus-B berth that enters SYNCING requests the claim (R12, R42). -/
theorem State.enterSyncing_requests {s : State} {n : Ix} (h : (s.berth n).bus = .b) :
    s.enterSyncing n = (s.modBerth n fun b => { b with state := .syncing, syncLimit := some s.syncTime }).requestClaim n := by
  simp [State.enterSyncing, h]

/-- The sync limit expires in SYNCING: the berth leaves it, as far as the Phase Reference Unit goes (R12). -/
theorem State.pru_syncExpires {s : State} {n : Ix} (hst : (s.berth n).state = .syncing)
    (hl : (s.berth n).syncLimit.isSome = true) :
    ∃ u : State, u.pru = s.pru ∧ (s.syncExpires n).pru = (u.leaveSyncing n false).pru := by
  refine ⟨(s.failConsenting n .syncTimeout).modBerth n fun b => { b.stopTimers with state := .plugged }, by simp, ?_⟩
  simp [State.syncExpires, hst, hl, State.failWaiting, State.abandon]

theorem State.holdsClaim_of_pru {s t : State} (h : t.pru = s.pru) (n : Ix) : t.holdsClaim n = s.holdsClaim n := by
  unfold State.holdsClaim
  rw [h]

theorem State.ship_of_pru {s t : State} (h : t.pru = s.pru) (n : Ix) : t.ship n = s.ship n := by
  unfold State.ship
  rw [h]

/-- What the expiry of the sync limit does to the claim of its holder (R38, R43, R44, R46). -/
theorem syncLimitExpiry_releases {s : State} {n : Ix} (h : s.powered = true) (hst : (s.berth n).state = .syncing)
    (hl : (s.berth n).syncLimit.isSome = true) (hc : s.holdsClaim n = true) (hout : ∀ r ∈ s.pru.waiting, r.berth ≠ n) :
    ∃ t : State, exec (.syncLimitExpiry n) s = .next t.settle ∧ (t.ship n).window = .inactive ∧
      (s.pru.busBInUse = true →
        t.pru = { s.pru with holder := none, mode := .ret, ships := t.pru.ships } ∧
        (∀ r ∈ t.pru.waiting, (t.ship r.berth).window ≠ .deferred)) ∧
      (s.pru.busBInUse = false → s.pru.waiting = [] →
        t.pru = { s.pru with holder := none, mode := .free, frequency := 60000, ships := t.pru.ships }) ∧
      (∀ r rest, s.pru.busBInUse = false → s.pru.waiting = r :: rest → (∀ x ∈ rest, x.berth ≠ r.berth) →
        t.pru = { s.pru with
          holder := some r, waiting := rest, mode := .follow r.berth, frequency := 60000, ships := t.pru.ships } ∧
        (t.ship r.berth).window ∈ [.outside, .settling, .held] ∧
        (∀ x ∈ rest, (t.ship x.berth).window = .deferred ∧ (t.ship x.berth).settle = none)) := by
  obtain ⟨u, hu, ht⟩ := State.pru_syncExpires hst hl
  have hship := State.ship_of_pru ht
  have hcu : u.holdsClaim n = true := (State.holdsClaim_of_pru hu n).trans hc
  have hfilter : u.pru.waiting.filter (fun x => decide (x.berth ≠ n)) = s.pru.waiting := by
    rw [hu]
    exact List.filter_eq_self.mpr fun x hx => by simpa using hout x hx
  refine ⟨s.syncExpires n, event_next h, ?_, fun hb => ?_, fun hb hw => ?_, fun r rest hb hw hone => ?_⟩
  · rw [hship]
    exact (State.outOfClaims_leaveSyncing n false u).window
  · obtain ⟨hpru, hnot⟩ := State.leaveSyncing_returns (own := false) hcu (.inl (by rw [hu]; exact hb))
    rw [hfilter, hu] at hpru
    simp only [hship, ht]
    exact ⟨hpru, hnot⟩
  all_goals
    have hfreed := State.pru_claimFreed n u
    rw [hfilter, hu] at hfreed
    simp only [hship, ht, State.leaveSyncing_frees hcu (by rw [hu]; exact hb)]
  · rw [State.grantHead_nobody (by rw [hfreed]; exact hw)]
    exact hfreed
  · obtain ⟨hpru, hown, hothers⟩ := State.grantHead_answers (s := u.claimFreed n) (by rw [hfreed]) (by rw [hfreed]; exact hb)
      (by rw [hfreed]; exact hw) hone
    refine ⟨?_, hown, hothers⟩
    rw [hpru, hfreed]

/-- The close command from SYNCING is what a berth with its window HELD does next (R12). -/
theorem State.berthNext_syncClose {s : State} {n : Ix} (hd : s.syncCloseDue n = true) (hm : s.windowMet n = true) :
    s.berthNext n = some (s.closeCommand n .sync) := by
  have hdue := hd
  simp only [State.syncCloseDue, Bool.and_eq_true, decide_eq_true_eq] at hd
  obtain ⟨⟨hst, hw⟩, -⟩ := hd
  simp [State.berthNext, State.busLost, State.isLive, BerthState.isLive, State.selectorDue, State.windowEntered,
    State.windowLeft, State.admittingDone, hst, hw, hm, hdue]

/-- A close command leaves the Phase Reference Unit as the end of SYNCING and the bus now in use leave it (R37, R44). -/
theorem State.pru_closeCommand {s : State} {n : Ix} {a : Approach} (hst : (s.berth n).state = .syncing)
    (hbus : (s.berth n).bus = .b) (hh : (s.leaveSyncing n true).pru.holder = none) :
    (s.closeCommand n a).pru = { (s.leaveSyncing n true).pru with busBInUse := true } := by
  obtain ⟨t, ht⟩ : ∃ t, t = (((s.leaveSyncing n true).modBerth n fun b =>
    { b with state := .closing, approach := some a, syncLimit := none, openTransitionLimit := none,
             deadCount := .stopped, motionLimit := some Config.closeMotion }).withdrawPermit n).modBerth n fun b =>
    { b with breaker := .closeSent, permitDeadTime := none } := ⟨_, rfl⟩
  have hclose : s.closeCommand n a = (t.abortDead n).followBusB := by
    simp [State.closeCommand, hst, State.leaveOpen, ht]
  have hpru : (t.abortDead n).pru = (s.leaveSyncing n true).pru := by simp [ht, State.withdrawPermit]
  have hused : (t.abortDead n).busBUsed = true := by
    have hb : ((t.abortDead n).berth n).bus = .b := by simpa [State.berth, ht, State.withdrawPermit] using hbus
    have hr : ((t.abortDead n).berth n).breaker = .closeSent := by simp [State.berth, ht, State.withdrawPermit]
    unfold State.busBUsed
    rw [decide_eq_true_eq, countSix_pos]
    exact ⟨n, by simp [hb, hr]⟩
  rw [hclose, State.followBusB_unclaimed (by rw [hpru]; exact hh) hused, State.pru_modPru, hpru]

/-- The holder's own close command (R41, R44, R46). -/
theorem ownClose_releases {s : State} {n : Ix} (hd : s.syncCloseDue n = true) (hm : s.windowMet n = true)
    (hbus : (s.berth n).bus = .b) (hc : s.holdsClaim n = true) :
    ∃ t : State, s.berthNext n = some t ∧ (t.berth n).breaker = .closeSent ∧ t.pru.holder = none ∧ t.pru.mode = .ret ∧
      t.pru.frequency = s.pru.frequency ∧ t.pru.phase = s.pru.phase ∧ t.pru.busBInUse = true ∧
      t.pru.waiting = s.pru.waiting.filter (fun x => decide (x.berth ≠ n)) ∧
      (∀ r ∈ t.pru.waiting, (t.ship r.berth).window ≠ .deferred) := by
  have hst : (s.berth n).state = .syncing := by
    simp only [State.syncCloseDue, Bool.and_eq_true, decide_eq_true_eq] at hd
    exact hd.1.1
  obtain ⟨hpru, hnot⟩ := State.leaveSyncing_returns hc (.inr rfl)
  have hclose := State.pru_closeCommand (a := .sync) hst hbus (by rw [hpru])
  have hship : ∀ m, (s.closeCommand n .sync).ship m = (s.leaveSyncing n true).ship m := fun m => by
    unfold State.ship
    rw [hclose]
  refine ⟨_, State.berthNext_syncClose hd hm, by simp [State.berth, State.berths_closeCommand], ?_, ?_, ?_, ?_, ?_, ?_, ?_⟩
  case refine_7 => simpa only [hclose, hship] using hnot
  all_goals rw [hclose, hpru]

/-- Bus B leaves use with the claim free (R38, R41, R43). -/
theorem busBLeft_grants {s : State} (hh : s.pru.holder = none) (hb : s.pru.busBInUse = true) (hu : s.busBUsed = false) :
    (s.pru.waiting = [] → s.followBusB.pru = { s.pru with
      busBInUse := false, mode := if s.pru.mode = .ret then .free else s.pru.mode
      frequency := if s.pru.mode = .ret then 60000 else s.pru.frequency }) ∧
    (∀ r rest, s.pru.waiting = r :: rest → (∀ x ∈ rest, x.berth ≠ r.berth) →
      s.followBusB.pru = { s.pru with
        busBInUse := false, holder := some r, waiting := rest, mode := .follow r.berth
        frequency := if s.pru.mode = .ret then 60000 else s.pru.frequency, ships := s.followBusB.pru.ships } ∧
      (∀ x ∈ rest, (s.followBusB.ship x.berth).window = .deferred ∧ (s.followBusB.ship x.berth).settle = none)) := by
  rw [State.followBusB_leaves hb hu]
  refine ⟨fun hw => ?_, fun r rest hw hone => ?_⟩
  · rw [State.grantHead_nobody (s := s.busBLeft) hw]
    rfl
  · obtain ⟨hpru, -, hothers⟩ := State.grantHead_answers (s := s.busBLeft) hh rfl hw hone
    exact ⟨hpru, hothers⟩

/-- Settles O60: a request, a release, the own close, a revocation and the end of bus B's use, each with the grant it leads to. -/
theorem followClaimMoves : Obligations.FollowClaimMoves := by
  intro s n
  refine ⟨?_, fun h hst hl hc hout => syncLimitExpiry_releases h hst hl hc hout,
    fun hd hm hbus hc => ownClose_releases hd hm hbus hc, ?_, ?_⟩
  · rintro _ rfl hbus
    rw [State.enterSyncing_requests hbus]
    exact ⟨fun hh hb hw => State.requestClaim_free hh hb hw, fun r hh => State.requestClaim_held hh,
      fun hh hb => State.requestClaim_inUse hh hb⟩
  · rintro _ r rfl hh hb hu
    obtain ⟨hpru, hnot, hown⟩ := State.followBusB_revokes hh hb hu
    exact ⟨hpru, hnot, fun hw => by rw [hown hw]⟩
  · rintro _ rfl hh hb hu _ rfl
    exact busBLeft_grants hh hb hu

end Sys2Proof.Machine

namespace Sys2Proof.Machine

/-! ### What one instant leaves -/

/-- Supply, the second, the field inputs and the waiting commands are as they were: what everything does that happens by itself at
one instant. -/
abbrev SameInstant (s t : State) : Prop :=
  t.powered = s.powered ∧ t.now = s.now ∧ t.inputs = s.inputs ∧ t.pending = s.pending

theorem SameInstant.refl (s : State) : SameInstant s s := ⟨rfl, rfl, rfl, rfl⟩

theorem SameInstant.trans {s t u : State} (h : SameInstant s t) (h' : SameInstant t u) : SameInstant s u := by
  obtain ⟨hp, hn, hi, hq⟩ := h
  obtain ⟨hp', hn', hi', hq'⟩ := h'
  exact ⟨hp'.trans hp, hn'.trans hn, hi'.trans hi, hq'.trans hq⟩

theorem SameInstant.ite {s t u : State} {c : Prop} [Decidable c] (ht : SameInstant s t) (hu : SameInstant s u) :
    SameInstant s (if c then t else u) :=
  Stable.ite ht hu

theorem SameInstant.forEach {α : Type} {f : α → State → State} (hf : ∀ a s, SameInstant s (f a s)) (l : List α) (s : State) :
    SameInstant s (s.forEach l f) :=
  keep_forEach (P := SameInstant s) (fun a t ht => ht.trans (hf a t)) l (.refl s)

theorem Aside.sameInstant {p : Port} {s t : State} (h : Aside p s t) : SameInstant s t :=
  ⟨h.powered, h.now, h.inputs, h.pending⟩

theorem Wrote.sameInstant {p : Port} {s t : State} (h : Wrote p s t) : SameInstant s t :=
  ⟨h.powered, h.now, h.inputs, h.pending⟩

namespace State

variable (s : State)

/-! ### Berths -/

@[simp] theorem sameInstant_trip (n : Ix) (c : TripCause) : SameInstant s (s.trip n c) := (Aside.trip (p := .t) n c s).sameInstant
@[simp] theorem sameInstant_lapse (n : Ix) : SameInstant s (s.lapse n) := (Aside.lapse (p := .t) n s).sameInstant

@[simp] theorem sameInstant_headroomFailed (n : Ix) : SameInstant s (s.headroomFailed n) := by simp [SameInstant, headroomFailed]
@[simp] theorem sameInstant_backFromReturn (n : Ix) : SameInstant s (s.backFromReturn n) := ⟨rfl, rfl, rfl, rfl⟩
@[simp] theorem sameInstant_enterOnShore (n : Ix) : SameInstant s (s.enterOnShore n) := by simp [SameInstant, enterOnShore]
@[simp] theorem sameInstant_enterAdopted (n : Ix) : SameInstant s (s.enterAdopted n) := by simp [SameInstant, enterAdopted]

@[simp] theorem sameInstant_openStuck (n : Ix) : SameInstant s (s.openStuck n) := by
  unfold openStuck
  simp only
  split <;> simp [SameInstant]

@[simp] theorem sameInstant_closeMotionExpires (n : Ix) : SameInstant s (s.closeMotionExpires n) :=
  .ite (by simp [SameInstant]) (.refl s)
@[simp] theorem sameInstant_openMotionExpires (n : Ix) : SameInstant s (s.openMotionExpires n) :=
  .ite (by simp [SameInstant]) (.refl s)
@[simp] theorem sameInstant_admissionExpires (n : Ix) : SameInstant s (s.admissionExpires n) :=
  .ite (by simp [SameInstant]) (.refl s)
@[simp] theorem sameInstant_syncExpires (n : Ix) : SameInstant s (s.syncExpires n) := .ite (by simp [SameInstant]) (.refl s)
@[simp] theorem sameInstant_openTransitionExpires (n : Ix) : SameInstant s (s.openTransitionExpires n) :=
  .ite (by simp [SameInstant]) (.refl s)
@[simp] theorem sameInstant_deadCountCompletes (n : Ix) : SameInstant s (s.deadCountCompletes n) :=
  .ite (by simp [SameInstant]) (.refl s)
@[simp] theorem sameInstant_parallelExpires (n : Ix) : SameInstant s (s.parallelExpires n) :=
  .ite (by simp [SameInstant]) (.refl s)
@[simp] theorem sameInstant_returnParallelExpires (n : Ix) : SameInstant s (s.returnParallelExpires n) :=
  .ite (by simp [SameInstant]) (.refl s)
@[simp] theorem sameInstant_returnExpires (n : Ix) : SameInstant s (s.returnExpires n) := .ite (by simp [SameInstant]) (.refl s)
@[simp] theorem sameInstant_permitExpires (n : Ix) : SameInstant s (s.permitExpires n) := .ite ⟨rfl, rfl, rfl, rfl⟩ (.refl s)
@[simp] theorem sameInstant_settleExpires (n : Ix) : SameInstant s (s.settleExpires n) := .ite (by simp [SameInstant]) (.refl s)

@[simp] theorem sameInstant_selectorExpires (n : Ix) : SameInstant s (s.selectorExpires n) := by
  unfold selectorExpires
  simp only
  split
  · split <;> simp [SameInstant]
  · exact .refl s

/-! ### Bus A, the reference, the grid word -/

@[simp] theorem sameInstant_stalenessExpires : SameInstant s s.stalenessExpires :=
  .ite (by simp [SameInstant, becomeStale, reformCeiling]) (.refl s)
@[simp] theorem sameInstant_busAChanges : SameInstant s s.busAChanges := .ite ⟨rfl, rfl, rfl, rfl⟩ (.refl s)
@[simp] theorem sameInstant_referenceArrives : SameInstant s s.referenceArrives := .ite ⟨rfl, rfl, rfl, rfl⟩ (.refl s)

/-! ### Modules -/

@[simp] theorem sameInstant_trimAfterFall (k : Nat) : SameInstant s (s.trimAfterFall k) := .ite (by simp [SameInstant]) (.refl s)
@[simp] theorem sameInstant_clearFault (m : Ix) : SameInstant s (s.clearFault m) := .ite (by simp [SameInstant]) (.refl s)
@[simp] theorem sameInstant_enterFault (m : Ix) (c : FaultCause) (k : Nat) : SameInstant s (s.enterFault m c k) := by
  simp [SameInstant, enterFault]
@[simp] theorem sameInstant_faultModule (m : Ix) (c : FaultCause) (k : Nat) : SameInstant s (s.faultModule m c k) := by
  simp [SameInstant, faultModule]
@[simp] theorem sameInstant_startFails (m : Ix) : SameInstant s (s.startFails m) :=
  .ite (by simp [SameInstant]) (by simp [SameInstant])
@[simp] theorem sameInstant_startExpires (m : Ix) : SameInstant s (s.startExpires m) := .ite (by simp [SameInstant]) (.refl s)
@[simp] theorem sameInstant_stopExpires (m : Ix) : SameInstant s (s.stopExpires m) :=
  .ite (by simp [SameInstant, stopEnds]) (.refl s)
@[simp] theorem sameInstant_serveModule (m : Ix) (f : Converter → Converter) : SameInstant s (s.serveModule m f) := by
  simp [SameInstant, serveModule]

@[simp] theorem sameInstant_tryStop : SameInstant s s.tryStop := by
  unfold tryStop
  split
  · split
    · simp [SameInstant]
    · exact .refl s
  · exact .refl s

@[simp] theorem sameInstant_publish (demand : Nat) : SameInstant s (s.publish demand) := by
  unfold publish
  simp only
  split <;> simp [SameInstant]

/-! ### The timers of the orders -/

@[simp] theorem sameInstant_waitExpires (p : Port) : SameInstant s (s.waitExpires p) := by
  unfold waitExpires
  split
  · exact .ite (by simp [SameInstant]) (.refl s)
  · exact .refl s

@[simp] theorem sameInstant_delayExpires (p : Port) : SameInstant s (s.delayExpires p) := by
  unfold delayExpires
  split
  · exact .ite (by simp [SameInstant]) (.refl s)
  · exact .refl s

@[simp] theorem sameInstant_releaseExpires : SameInstant s s.releaseExpires := by
  unfold releaseExpires
  split
  · exact .ite (by simp [SameInstant]) (.refl s)
  · exact .refl s

/-! ### The minute and the period -/

@[simp] theorem sameInstant_minuteTick : SameInstant s s.minuteTick := by
  refine (show SameInstant s (s.modGe fun g => { g with minuteLeft := Config.minute }) from ⟨rfl, rfl, rfl, rfl⟩).trans
    (.forEach (fun n t => ?_) _ _)
  exact .ite (by simp [SameInstant]) (.refl t)

@[simp] theorem sameInstant_switchSets : SameInstant s s.switchSets := by
  unfold switchSets
  obtain ⟨t, ht⟩ : ∃ t, t = s.modGe fun g =>
    if g.staged.pending then
      { g with active := { g.staged with a := s.importAvailable, pending := false }, staged := { g.staged with pending := false } }
    else { g with active := { g.active with a := s.importAvailable } } := ⟨_, rfl⟩
  have hst : SameInstant s t := by rw [ht]; exact ⟨rfl, rfl, rfl, rfl⟩
  simp only [← ht]
  have htrim : ∀ u : State, SameInstant u u.trimActive := fun u => by simp [SameInstant]
  refine hst.trans (SameInstant.trans (.ite (.forEach (fun n u => ?_) _ _) (.refl t)) (htrim _))
  exact .ite (by simp [SameInstant]) (.refl u)

@[simp] theorem sameInstant_judgeFlag (old : Bool) (need room : Nat) (on off : CeilingCode) :
    SameInstant s (s.judgeFlag old need room on off) :=
  .ite (by simp [SameInstant]) (.ite (by simp [SameInstant]) (.refl s))

@[simp] theorem sameInstant_advise (test : Ix → Bool) (code deficit : Nat) : SameInstant s (s.advise test code deficit) := by
  unfold advise
  split <;> simp [SameInstant]

@[simp] theorem sameInstant_adviseReturns : SameInstant s s.adviseReturns := by
  unfold adviseReturns
  simp only
  split <;> split <;> simp [SameInstant]

@[simp] theorem sameInstant_announceStaged : SameInstant s s.announceStaged :=
  .forEach (fun n t => by split <;> simp [SameInstant]) _ s

@[simp] theorem sameInstant_compute : SameInstant s s.compute := by simp [SameInstant, compute, judgeFlags]

@[simp] theorem sameInstant_admission (n : Ix) : SameInstant s (s.admission n) := by
  simp [SameInstant, admission]

theorem sameInstant_serveUpTo (k : Nat) : SameInstant s (serveUpTo k s) := by
  induction k generalizing s with
  | zero => exact .refl s
  | succ k ih =>
    unfold serveUpTo
    split
    · exact .refl s
    · exact .ite ((sameInstant_admission s _).trans (ih _)) (.refl s)

@[simp] theorem sameInstant_serveQueue : SameInstant s s.serveQueue := sameInstant_serveUpTo s _

@[simp] theorem sameInstant_joinQueue (n : Ix) : SameInstant s (s.joinQueue n) := by simp [SameInstant, joinQueue]

@[simp] theorem sameInstant_periodExpiry : SameInstant s s.periodExpiry := by simp [SameInstant, periodExpiry]

/-! ### The take of an order -/

@[simp] theorem sameInstant_releasePart : SameInstant s s.releasePart := by
  have hheld : SameInstant s (s.modOe fun oe => { oe with held := false }) := ⟨rfl, rfl, rfl, rfl⟩
  exact hheld.trans (.forEach (fun p t => by simp [SameInstant]) _ _)

@[simp] theorem sameInstant_enterAdmitting (n : Ix) (r : OrderRef) (minutes : Nat) :
    SameInstant s (s.enterAdmitting n r minutes) := by
  unfold enterAdmitting
  obtain ⟨t, ht⟩ : ∃ t, t = (s.modBerth n fun b => { b with
    state := .admitting, consenting := some r, returnForced := false, openPower := 0, purpose := none
    approach := none }).joinQueue n := ⟨_, rfl⟩
  simp only [← ht]
  have hjoin : SameInstant s t := by simp [SameInstant, ht]
  have hlimit : ∀ u : State, SameInstant u
      (if u.isAdmitted n then u else u.modBerth n fun b => { b with admissionLimit := some (60 * minutes) }) :=
    fun u => .ite (.refl u) ⟨rfl, rfl, rfl, rfl⟩
  have hselect : ∀ u : State, SameInstant u (if u.selectorDue n then u.selectorCommand n else u) :=
    fun u => .ite ⟨rfl, rfl, rfl, rfl⟩ (.refl u)
  have hfile : ∀ u : State, SameInstant u (if u.fresh n then u else u.fileRequest n) :=
    fun u => .ite (.refl u) (by simp [SameInstant])
  have hfail : ∀ u : State, SameInstant u (if u.isAdmitted n then u else if minutes = 0 then u.headroomFailed n else u) :=
    fun u => .ite (.refl u) (.ite (by simp [SameInstant]) (.refl u))
  exact (((hjoin.trans (hlimit _)).trans (hselect _)).trans (hfile _)).trans (hfail _)

@[simp] theorem sameInstant_withdrawAuthorization (n : Ix) : SameInstant s (s.withdrawAuthorization n) := by
  unfold withdrawAuthorization
  simp only
  split <;> simp [SameInstant]

@[simp] theorem sameInstant_forceOpen (n : Ix) : SameInstant s (s.forceOpen n) := by simp [SameInstant, forceOpen]

theorem sameInstant_writeRun (l : List Nat) : ∀ (i stored clamped : Nat) (s : State),
    SameInstant s (writeRun i l stored clamped s).1 := by
  induction l with
  | nil => exact fun _ _ _ s => .refl s
  | cons v rest ih =>
    intro i stored clamped s
    unfold writeRun
    split
    · exact .refl s
    · split
      · exact .refl s
      · exact (wrote_storeEntry .t i v s).sameInstant.trans (ih _ _ _ _)

@[simp] theorem sameInstant_moduleIn (m : Ix) : SameInstant s (s.moduleIn m).1 := by
  unfold moduleIn
  simp only
  split
  · exact .refl s
  · dsimp only
    split <;> simp [SameInstant]

@[simp] theorem sameInstant_moduleOut (m : Ix) : SameInstant s (s.moduleOut m).1 := by
  unfold moduleOut
  simp only
  split
  · exact .refl s
  · dsimp only
    split
    · exact sameInstant_serveModule s m _
    · exact sameInstant_serveModule s m _
    · exact .ite (sameInstant_serveModule s m _) (.refl s)
    · simp [SameInstant]
    · exact .refl s
    · exact .refl s

@[simp] theorem sameInstant_panelBerth (n : Ix) : SameInstant s (s.panelBerth n) := by
  unfold panelBerth
  split <;> simp [SameInstant]

@[simp] theorem sameInstant_panelBlocks : SameInstant s s.panelBlocks := by
  have hunits : SameInstant s (((s.modGe fun g => { g with queue := [] }).modCp fun u =>
      { u with stopCount := 0 }).resetReference.resetScanner) := by simp [SameInstant, resetReference]
  exact hunits.trans (.forEach (fun n t => sameInstant_panelBerth t n) _ _)

@[simp] theorem sameInstant_endPort (c : Code) (p : Port) : SameInstant s (s.endPort c p) := by
  have hsent : SameInstant s (s.forEach (s.orders p).queue fun x t => t.passCompletion p (x.cancelRest c)) :=
    .forEach (fun x t => by simp [SameInstant, passCompletion]) _ s
  exact hsent.trans ⟨rfl, rfl, rfl, rfl⟩

theorem sameInstant_endPorts (c : Code) (l : List Port) : SameInstant s (l.foldl (fun u p => u.endPort c p) s) :=
  SameInstant.forEach (fun p t => sameInstant_endPort t c p) l s

theorem sameInstant_endOrder (r : OrderRef) (st : Status) : SameInstant s (s.endOrder r st) := ⟨rfl, rfl, rfl, rfl⟩

theorem sameInstant_modOe (f : OrderEngine → OrderEngine) : SameInstant s (s.modOe f) := ⟨rfl, rfl, rfl, rfl⟩

theorem sameInstant_modBerth (n : Ix) (f : Berth → Berth) : SameInstant s (s.modBerth n f) := ⟨rfl, rfl, rfl, rfl⟩

theorem sameInstant_takePanelReset (r : OrderRef) : SameInstant s (s.takePanelReset r).1 := by
  unfold takePanelReset
  extract_lets opens st noticed ended emptied held consents
  have hnoticed : SameInstant s noticed := ⟨rfl, rfl, rfl, rfl⟩
  have hended : SameInstant noticed ended := sameInstant_endOrder noticed r st
  have hemptied : SameInstant ended emptied := sameInstant_endPorts ended .reset _
  have hheld : SameInstant emptied held := sameInstant_modOe emptied _
  have hconsents : SameInstant held consents := .forEach (fun n t => sameInstant_modBerth t n _) _ held
  exact ((((hnoticed.trans hended).trans hemptied).trans hheld).trans hconsents).trans (sameInstant_panelBlocks consents)

theorem sameInstant_takeDeclare (n : Ix) (freq cls tr : Byte) (h e c d : Word) :
    SameInstant s (s.takeDeclare n freq cls tr h e c d).1 := by
  unfold takeDeclare
  simp only
  split
  · exact .refl s
  · simp [SameInstant]

theorem sameInstant_takeConnect (n : Ix) (r : OrderRef) (minutes : Word) : SameInstant s (s.takeConnect n r minutes).1 := by
  unfold takeConnect
  split
  · exact .refl s
  · exact sameInstant_enterAdmitting s n r _

theorem sameInstant_takeGenOpened (n : Ix) : SameInstant s (s.takeGenOpened n).1 := by
  unfold takeGenOpened
  split
  · simp [SameInstant, genOpened]
  · split <;> exact .refl s
  · split <;> exact .refl s
  · exact .refl s

theorem sameInstant_takeGenClosed (n : Ix) : SameInstant s (s.takeGenClosed n).1 := by
  unfold takeGenClosed
  split
  · exact ⟨rfl, rfl, rfl, rfl⟩
  · exact .refl s

theorem sameInstant_takeDisconnect (n : Ix) (r : OrderRef) (tr : Byte) : SameInstant s (s.takeDisconnect n r tr).1 := by
  unfold takeDisconnect
  split
  · split <;> simp [SameInstant]
  · split <;> simp [SameInstant]
  · exact .refl s
  · exact .refl s
  · exact .refl s

theorem sameInstant_takeAuthorize (n : Ix) (prio : Byte) (cap : Word) : SameInstant s (s.takeAuthorize n prio cap).1 := by
  unfold takeAuthorize
  split
  · exact .refl s
  · simp [SameInstant, rerate]

theorem sameInstant_takeWithdraw (n : Ix) (force : Byte) : SameInstant s (s.takeWithdraw n force).1 := by
  unfold takeWithdraw
  simp only
  split
  · exact (sameInstant_withdrawAuthorization s n).trans (sameInstant_forceOpen _ n)
  · exact sameInstant_withdrawAuthorization s n

theorem sameInstant_takeModuleService (module direction : Byte) : SameInstant s (s.takeModuleService module direction).1 := by
  unfold takeModuleService
  simp only
  split
  · exact sameInstant_moduleIn s _
  · exact sameInstant_moduleOut s _

theorem sameInstant_takeCheckBerth (n : Ix) : SameInstant s (s.takeCheckBerth n).1 := by
  unfold takeCheckBerth
  split
  · exact .refl s
  · simp [SameInstant]

theorem sameInstant_takeAckTrip (n : Ix) : SameInstant s (s.takeAckTrip n).1 := by
  unfold takeAckTrip
  simp only
  split
  · exact .refl s
  · split
    · exact .refl s
    · split <;> simp [SameInstant]

theorem sameInstant_takeLockoutOn (n : Ix) : SameInstant s (s.takeLockoutOn n).1 := by
  unfold takeLockoutOn
  split <;> simp [SameInstant, refuse]

theorem sameInstant_takeLockoutOff (n : Ix) : SameInstant s (s.takeLockoutOff n).1 :=
  .ite (.ite ⟨rfl, rfl, rfl, rfl⟩ (by simp [SameInstant])) (.refl s)

theorem sameInstant_takeRelease : SameInstant s s.takeRelease.1 := by
  unfold takeRelease
  split
  · exact .refl s
  · split
    · exact sameInstant_releasePart s
    · exact ⟨rfl, rfl, rfl, rfl⟩

theorem sameInstant_takeBerthReset (n : Ix) : SameInstant s (s.takeBerthReset n).1 := by
  unfold takeBerthReset
  split
  · exact .refl s
  · simp only
    split <;> simp [SameInstant, resetSequence]

theorem sameInstant_takeWaitFlag (n : Ix) (p : Port) (flag : Byte) (limit : Word) :
    SameInstant s (s.takeWaitFlag n p flag limit).1 := by
  unfold takeWaitFlag
  simp only
  split <;> simp [SameInstant]

/-- The hand-over of an order, by its kind. -/
theorem sameInstant_handOrder (r : OrderRef) (o : OrderRec) : SameInstant s (s.handOrder r o).1 := by
  unfold handOrder
  simp only
  split
  · exact sameInstant_takeDeclare s _ _ _ _ _ _ _ _
  · exact sameInstant_takeConnect s _ r _
  · exact sameInstant_takeGenOpened s _
  · exact sameInstant_takeGenClosed s _
  · exact sameInstant_takeDisconnect s _ r _
  · exact sameInstant_takeAuthorize s _ _ _
  · exact sameInstant_takeWithdraw s _ _
  · exact ⟨rfl, rfl, rfl, rfl⟩
  · exact sameInstant_writeRun _ _ _ _ s
  · exact sameInstant_takeModuleService s _ _
  · exact sameInstant_takeCheckBerth s _
  · exact sameInstant_takeAckTrip s _
  · split
    · exact sameInstant_takeLockoutOn s _
    · exact sameInstant_takeLockoutOff s _
  · exact sameInstant_takeRelease s
  · exact sameInstant_takePanelReset s r
  · exact sameInstant_takeBerthReset s _
  · exact show SameInstant s (s.flagEvent _ _) by simp [SameInstant]
  · exact sameInstant_takeWaitFlag s _ _ _ _
  · exact .refl s
  · exact ⟨rfl, rfl, rfl, rfl⟩
  · exact .refl s

theorem sameInstant_takeOrder (r : OrderRef) (o : OrderRec) : SameInstant s (s.takeOrder r o) := by
  have hrun : SameInstant s (s.markRunning r) := by simp [SameInstant]
  have htake : SameInstant (s.markRunning r) ((s.markRunning r).takeRunning r o).1 := by
    unfold takeRunning
    split
    · exact .refl _
    · exact sameInstant_handOrder _ r o
  unfold takeOrder
  obtain ⟨x, hx⟩ : ∃ x, x = (s.markRunning r).takeRunning r o := ⟨_, rfl⟩
  rw [← hx] at htake ⊢
  obtain ⟨t, _ | st⟩ := x
  · exact hrun.trans htake
  · exact (hrun.trans htake).trans (by simp [finishTake, SameInstant])

/-! ### Settling, and what fires -/

theorem sameInstant_portNext {p : Port} {t : State} (h : s.portNext p = some t) : SameInstant s t := by
  unfold portNext at h
  split at h
  · cases h
  · split at h
    · cases h
      simp [SameInstant, completeHead, passCompletion]
    · split at h
      all_goals
        obtain ⟨x, -, rfl⟩ := Option.map_eq_some_iff.mp h
        exact sameInstant_takeOrder s _ _

theorem sameInstant_react {t : State} (h : s.react = some t) : SameInstant s t := by
  unfold react at h
  split at h
  · rename_i u hu
    cases h
    obtain ⟨n, -, hn⟩ := List.exists_of_findSome?_eq_some hu
    exact (Aside.berthNext (p := .t) hn).sameInstant
  · obtain ⟨p, -, hp⟩ := List.exists_of_findSome?_eq_some h
    exact sameInstant_portNext s hp

theorem sameInstant_settleUpTo (k : Nat) : SameInstant s (settleUpTo k s) := by
  induction k generalizing s with
  | zero => exact .refl s
  | succ k ih =>
    unfold settleUpTo
    split
    · rename_i t ht
      exact (sameInstant_react s ht).trans (ih t)
    · exact .refl s

@[simp] theorem sameInstant_settle : SameInstant s s.settle := sameInstant_settleUpTo s _

theorem sameInstant_fire {due : State → Bool} {act : State → State} (h : ∀ t, SameInstant t (act t)) :
    SameInstant s (s.fire due act) :=
  .ite ((h s).trans (sameInstant_settle _)) (.refl s)

/-- The timers of a berth, in the order in which they act. -/
theorem sameInstant_fireBerth (n : Ix) : SameInstant s (s.fireBerth n) := by
  unfold fireBerth
  have hmotion : ∀ t : State, SameInstant t ((t.closeMotionExpires n).openMotionExpires n) := fun t =>
    (sameInstant_closeMotionExpires t n).trans (sameInstant_openMotionExpires _ n)
  have hparallel : ∀ t : State, SameInstant t ((t.parallelExpires n).returnParallelExpires n) := fun t =>
    (sameInstant_parallelExpires t n).trans (sameInstant_returnParallelExpires _ n)
  have hlapse : ∀ t : State, SameInstant t (t.chooseCheck.lapse n) := fun t => by simp [SameInstant]
  exact ((((((((((sameInstant_fire s hmotion).trans (sameInstant_fire _ (sameInstant_selectorExpires · n))).trans
    (sameInstant_fire _ (sameInstant_admissionExpires · n))).trans (sameInstant_fire _ (sameInstant_syncExpires · n))).trans
    (sameInstant_fire _ (sameInstant_deadCountCompletes · n))).trans
    (sameInstant_fire _ (sameInstant_openTransitionExpires · n))).trans (sameInstant_fire _ hparallel)).trans
    (sameInstant_fire _ (sameInstant_returnExpires · n))).trans (sameInstant_fire _ (sameInstant_permitExpires · n))).trans
    (sameInstant_fire _ (sameInstant_settleExpires · n))).trans (sameInstant_fire _ hlapse)

theorem sameInstant_fireModule (m : Ix) : SameInstant s (s.fireModule m) :=
  (sameInstant_fire s fun t => sameInstant_startExpires t m).trans (sameInstant_fire _ fun t => sameInstant_stopExpires t m)

theorem sameInstant_firePort (p : Port) : SameInstant s (s.firePort p) := by
  have htimer : ∀ t : State, SameInstant t (if p = .t then (t.delayExpires p).releaseExpires else t.delayExpires p) := fun t =>
    .ite ((sameInstant_delayExpires t p).trans (sameInstant_releaseExpires _)) (sameInstant_delayExpires t p)
  exact (sameInstant_fire s (sameInstant_waitExpires · p)).trans (sameInstant_fire _ htimer)

/-- Everything that has run out acts at one instant. -/
theorem sameInstant_fireAll : SameInstant s s.fireAll := by
  unfold fireAll
  exact (((((((sameInstant_fire s sameInstant_stalenessExpires).trans (sameInstant_fire _ sameInstant_busAChanges)).trans
    (sameInstant_fire _ sameInstant_referenceArrives)).trans (.forEach (fun n t => sameInstant_fireBerth t n) _ _)).trans
    (.forEach (fun m t => sameInstant_fireModule t m) _ _)).trans (.forEach (fun p t => sameInstant_firePort t p) _ _)).trans
    (sameInstant_fire _ sameInstant_minuteTick)).trans (sameInstant_fire _ sameInstant_periodExpiry)

end State

end Sys2Proof.Machine

namespace Sys2Proof.Machine

namespace State

/-! ### The second that passes -/

/-- Every count and every timer has moved by a second, before the reference is steered. -/
def counted (s : State) : State :=
  { s with
    now := s.now + 1
    link := s.link.map fun lp => { lp with receive := .hunt }
    oe :=
      { s.oe with
        ports := s.oe.ports.map fun po => { po with timer := runDown 1 po.timer }
        flags := s.oe.flags.map (FlagPair.both SyncFlag.pass) }
    berths := s.berths.map Berth.pass
    pru :=
      { s.pru with
        busATimer := runDown 1 s.pru.busATimer
        ships := s.pru.ships.map fun p => { p with settle := runDown 10 p.settle } }
    cs :=
      { s.cs with
        records := s.cs.records.map fun c => { c with age := countUp 65535 c.age }
        scanner := s.cs.scanner.pass }
    cp := { s.cp with modules := s.cp.modules.map Converter.pass }
    gi := { s.gi with assembly := .hunt, staleness := runDown 1 s.gi.staleness }
    ge := { s.ge with periodLeft := s.ge.periodLeft - 1, minuteLeft := s.ge.minuteLeft - 1 } }

theorem pass_eq (s : State) : s.pass = s.counted.steer.turnPhases := rfl

/-- The steering and the turning of the phases leave every block but the Phase Reference Unit as the counts left it. -/
theorem fields_pass (s : State) : OnlyPru s.counted s.pass := by
  rw [pass_eq]
  simp [OnlyPru]

theorem ship_counted (s : State) (n : Ix) : s.counted.ship n = { s.ship n with settle := runDown 10 (s.ship n).settle } :=
  Six.get_map _ _ n

theorem berth_counted (s : State) (n : Ix) : s.counted.berth n = (s.berth n).pass := Six.get_map _ _ n

/-! ### The blocks that count -/

theorem berth_pass (s : State) (n : Ix) : s.pass.berth n = (s.berth n).pass := by
  obtain ⟨-, -, -, -, -, -, hb, -⟩ := s.fields_pass
  rw [berth, hb]
  exact s.berth_counted n

theorem check_pass (s : State) (n : Ix) : s.pass.check n = { s.check n with age := countUp 65535 (s.check n).age } := by
  obtain ⟨-, -, -, -, -, -, -, hc, -⟩ := s.fields_pass
  rw [check, hc]
  exact Six.get_map _ _ n

theorem scanner_pass (s : State) : s.pass.cs.scanner = s.cs.scanner.pass := by
  obtain ⟨-, -, -, -, -, -, -, hc, -⟩ := s.fields_pass
  rw [hc]
  rfl

theorem converter_pass (s : State) (m : Ix) : s.pass.converter m = (s.converter m).pass := by
  obtain ⟨-, -, -, -, -, -, -, -, hp, -⟩ := s.fields_pass
  rw [converter, hp]
  exact Six.get_map _ _ m

theorem port_pass (s : State) (p : Port) : s.pass.port p = { s.port p with receive := .hunt } := by
  obtain ⟨-, -, -, -, hl, -⟩ := s.fields_pass
  rw [port, hl]
  exact PortMap.get_map _ _ p

theorem orders_pass (s : State) (p : Port) : s.pass.orders p = { s.orders p with timer := runDown 1 (s.orders p).timer } := by
  obtain ⟨-, -, -, -, -, ho, -⟩ := s.fields_pass
  rw [orders, ho]
  exact PortMap.get_map _ _ p

theorem flag_pass (s : State) (n : Ix) (second : Bool) : s.pass.flag n second = (s.flag n second).pass := by
  obtain ⟨-, -, -, -, -, ho, -⟩ := s.fields_pass
  rw [flag, ho]
  show ((s.oe.flags.map (FlagPair.both SyncFlag.pass)).get n).get second = _
  rw [Six.get_map]
  cases second <;> rfl

/-- An age counts up to 65,535 and stays there (R57). -/
theorem countUp_age (a : Nat) : countUp 65535 a = min 65535 (a + 1) ∨ 65535 < a := by
  unfold countUp
  split <;> omega

/-- A module counts the seconds of its running states (R73). -/
theorem seconds_pass {c : Converter} (h : c.seconds < 4294967295) : c.pass.seconds =
    if c.state ∈ [.starting, .online, .stopping] then c.seconds + 1 else c.seconds := by
  cases hs : c.state <;> simp [Converter.pass, countUp, hs, h]

/-! ### The reference (R38, R39, R40) -/

/-- The steering moves the reference frequency and nothing else. -/
theorem pru_steer (s : State) : s.steer.pru = { s.pru with frequency := s.steer.pru.frequency } := by
  unfold steer
  split
  · rfl
  · rfl
  · dsimp only
    split <;> rfl

theorem frequency_steer_free {s : State} (h : s.pru.mode = .free) : s.steer.pru.frequency = s.pru.frequency := by
  simp [steer, h]

theorem frequency_steer_ret {s : State} (h : s.pru.mode = .ret) :
    s.steer.pru.frequency = approachBy 50 s.pru.frequency 60000 := by
  simp [steer, h]

theorem frequency_steer_dark {s : State} {n : Ix} (h : s.pru.mode = .follow n) (hl : (s.ship n).side ≠ .live) :
    s.steer.pru.frequency = s.pru.frequency := by
  simp [steer, h, hl]

/-- The frequency that FOLLOW steers to: the ship's, 0.020 Hz to the side that closes a difference of more than 1.0 degree. -/
def followTarget (s : State) (n : Ix) : Nat :=
  if (s.ship n).difference.natAbs ≤ Config.phaseClose then (s.outlet n).shipFrequency
  else if 0 < (s.ship n).difference then (s.outlet n).shipFrequency + Config.followOffset
  else (s.outlet n).shipFrequency - Config.followOffset

theorem frequency_steer_follow {s : State} {n : Ix} (h : s.pru.mode = .follow n) (hl : (s.ship n).side = .live) :
    s.steer.pru.frequency = approachBy 200 s.pru.frequency (min 61000 (max 59000 (s.followTarget n))) := by
  simp [steer, h, hl, followTarget, clamp]

theorem followTarget_lags {s : State} {n : Ix} (h : 100 < (s.ship n).difference) :
    s.followTarget n = (s.outlet n).shipFrequency + 20 := by
  rw [followTarget, if_neg (show ¬ (s.ship n).difference.natAbs ≤ 100 by omega), if_pos (by omega)]

theorem followTarget_leads {s : State} {n : Ix} (h : (s.ship n).difference < -100) :
    s.followTarget n = (s.outlet n).shipFrequency - 20 := by
  rw [followTarget, if_neg (show ¬ (s.ship n).difference.natAbs ≤ 100 by omega), if_neg (by omega)]

theorem followTarget_close {s : State} {n : Ix} (h : -100 ≤ (s.ship n).difference) (h' : (s.ship n).difference ≤ 100) :
    s.followTarget n = (s.outlet n).shipFrequency := by
  rw [followTarget, if_pos (show (s.ship n).difference.natAbs ≤ 100 by omega)]

theorem followTarget_counted (s : State) (n : Ix) : s.counted.followTarget n = s.followTarget n := by
  unfold followTarget
  rw [ship_counted]
  rfl

/-- The frequency after a second in FOLLOW of a LIVE ship side (R39). -/
theorem frequency_pass_follow {s : State} {n : Ix} (h : s.pru.mode = .follow n) (hl : (s.ship n).side = .live) :
    s.pass.pru.frequency = approachBy 200 s.pru.frequency (min 61000 (max 59000 (s.followTarget n))) := by
  rw [← followTarget_counted]
  exact frequency_steer_follow (s := s.counted) h (by rw [ship_counted]; exact hl)

/-- A second moves the timer of bus A, the frequency, the phase and the ship sides' records, and leaves the mode and the claims. -/
theorem pru_pass (s : State) : s.pass.pru = { s.pru with
    busATimer := runDown 1 s.pru.busATimer, frequency := s.pass.pru.frequency
    phase := (s.pru.phase + 36 * s.pass.pru.frequency) % 36000, ships := s.pass.pru.ships } := by
  rw [pass_eq, turnPhases, pru_modPru, pru_steer]
  rfl

theorem ship_steer (s : State) (n : Ix) : s.steer.ship n = s.ship n := by
  rw [ship, pru_steer]
  rfl

/-- What a second leaves of the record of a ship side: its settle timer and its phase difference move. -/
theorem ship_pass (s : State) (n : Ix) : s.pass.ship n =
    { s.ship n with settle := runDown 10 (s.ship n).settle, difference := s.counted.steer.differenceAfter n } := by
  rw [pass_eq, ship_turnPhases, ship_steer, ship_counted]

theorem berth_steered (s : State) (n : Ix) : s.counted.steer.berth n = (s.berth n).pass := by
  obtain ⟨-, -, -, -, -, -, hb, -⟩ := s.counted.fields_steer
  rw [berth, hb]
  exact s.berth_counted n

theorem ship_steered (s : State) (n : Ix) : s.counted.steer.ship n = { s.ship n with settle := runDown 10 (s.ship n).settle } := by
  rw [ship_steer, ship_counted]

/-- The phase difference stays where the ship side is not LIVE on a bus (R34). -/
theorem difference_pass_stays {s : State} {n : Ix} (h : (s.ship n).side ≠ .live ∨ (s.berth n).bus = .none) :
    (s.pass.ship n).difference = (s.ship n).difference := by
  rw [ship_pass]
  show s.counted.steer.differenceAfter n = _
  simp only [differenceAfter, ship_steered, berth_steered, Berth.pass]
  rcases h with hl | hb
  · split
    · rw [if_neg hl]
    · rfl
  · simp [hb, busFrequency]

/-- The phase difference of a LIVE ship side on bus B that the reference does not follow: both sides turn (R38, R39). -/
theorem difference_pass_turns {s : State} {n : Ix} (hl : (s.ship n).side = .live) (hb : (s.berth n).bus = .b)
    (hm : s.pru.mode ≠ .follow n) : (s.pass.ship n).difference =
      wrapAngle ((s.ship n).difference + 36 * (s.outlet n).shipFrequency - 36 * s.pass.pru.frequency) := by
  have hmode : s.counted.steer.pru.mode = s.pru.mode := by rw [pru_steer]; rfl
  have hout : s.counted.steer.outlet n = s.outlet n := by
    obtain ⟨-, -, -, hi, -⟩ := s.counted.fields_steer
    rw [outlet, hi]
    rfl
  have hoff : s.counted.steer.atOffset n = false := by simp [atOffset, hmode, hm]
  have hfreq : s.pass.pru.frequency = s.counted.steer.pru.frequency := rfl
  rw [ship_pass]
  show s.counted.steer.differenceAfter n = _
  simp [differenceAfter, ship_steered, berth_steered, Berth.pass, hb, hl, busFrequency, hoff, hout, turn, hfreq]

/-! ### All that a second moves -/

/-- A second leaves the supply, the waiting commands, the table, the field inputs and HELD. -/
theorem onlyTouches_pass (s : State) : OnlyTouches ([.time, .flags, .reference, .scanner, .pool, .grid, .grants] ++ allLinks ++
    allOrders ++ Ix.all.map Part.berth) s s.pass := by
  obtain ⟨hpow, -, htab, hin, -, hoe, -, -, -, -, -, hq⟩ := s.fields_pass
  have hberth : ∀ n, Part.berth n ∈ Ix.all.map Part.berth := fun n => by cases n <;> simp
  refine onlyTouches_of_fields (fun _ => hpow) (fun h => absurd ?_ h) (fun _ => hq) (fun _ => htab) (fun _ => hin)
    (fun p h => absurd ?_ h) (fun p h => absurd ?_ h) (fun h => absurd ?_ h) (fun _ => by rw [hoe]; rfl) (fun n h => absurd ?_ h)
    (fun h => absurd ?_ h) (fun h => absurd ?_ h) (fun h => absurd ?_ h) (fun h => absurd ?_ h) (fun h => absurd ?_ h)
  case refine_2 => exact List.mem_append_left _ (List.mem_append_left _ (List.mem_append_right _ (mem_allLinks p)))
  case refine_3 => exact List.mem_append_left _ (List.mem_append_right _ (mem_allOrders p))
  case refine_5 => exact List.mem_append_right _ (hberth n)
  all_goals exact List.mem_append_left _ (List.mem_append_left _ (List.mem_append_left _ (by simp)))

/-- A step on an empty queue is a tick. -/
theorem step_tick {s : State} (h : s.pending = []) : step s = .next s.tick := by
  simp [step, h]

/-- A tick takes no command in, moves no input and no supply, and counts one second of a part that is supplied. -/
theorem tick_answers (s : State) : s.tick.pending = s.pending ∧ s.tick.inputs = s.inputs ∧ s.tick.powered = s.powered ∧
    s.tick.now = (if s.powered then s.now + 1 else s.now) ∧ (s.powered = false → s.tick = s) := by
  obtain ⟨hpow, hnow, -, hin, -, -, -, -, -, -, -, hq⟩ := s.fields_pass
  obtain ⟨hpow', hnow', hin', hq'⟩ := s.pass.sameInstant_fireAll
  unfold tick
  by_cases h : s.powered = true
  · simp only [h, if_true]
    exact ⟨hq'.trans hq, hin'.trans hin, (hpow'.trans hpow).trans h, hnow'.trans hnow, fun hf => nomatch hf⟩
  · simp [h]

end State

/-- Settles O2: the state that everything due acts on is the one in which a second has passed. -/
theorem emptyQueueLetsASecondPass : Obligations.EmptyQueueLetsASecondPass := by
  intro s hs
  obtain ⟨hpending, hin, hpow, hnow, hoff⟩ := s.tick_answers
  refine ⟨⟨s.tick, State.step_tick hs, hpending.trans hs, hin, hpow, hnow, hoff⟩, fun h => ⟨s.pass, ?_⟩⟩
  obtain ⟨-, hnow', -, -, -, -, -, -, -, hgi, hge, -⟩ := s.fields_pass
  refine ⟨by rw [State.step_tick hs, State.tick, if_pos h], hnow', fun n => ?_, fun n left hn => ?_, fun n hn => ?_, fun n => ?_,
    fun c hc => ?_, fun m => ?_, fun m hm => ?_, hgi, hge, fun p => ⟨s.port_pass p, s.orders_pass p⟩, s.flag_pass,
    fun n => ?_, ?_, ?_, ?_, ?_, fun hm => ?_, fun hm => ?_, fun n hm hl => ?_, fun n hm hl => ?_, ?_,
    fun n => State.difference_pass_stays, fun n => State.difference_pass_turns, s.onlyTouches_pass⟩
  · rw [s.berth_pass n]; rfl
  · rw [s.berth_pass n, Berth.pass, hn]; rfl
  · rw [s.berth_pass n, Berth.pass]
    simp only [List.mem_cons, List.not_mem_nil, or_false] at hn
    rcases hn with hn | hn <;> rw [hn] <;> rfl
  · rw [s.check_pass n]
    rcases State.countUp_age (s.check n).age with ha | ha
    · exact .inl (by rw [ha])
    · exact .inr ha
  · rw [s.scanner_pass, hc]; rfl
  · rw [s.converter_pass m]; rfl
  · rw [s.converter_pass m]
    exact State.seconds_pass hm
  · rw [s.ship_pass n]; rfl
  · rw [s.pru_pass]; rfl
  · rw [s.pru_pass]
  · rw [s.pru_pass]
  · rw [s.pru_pass]
  · exact State.frequency_steer_free (s := s.counted) hm
  · exact State.frequency_steer_ret (s := s.counted) hm
  · exact State.frequency_steer_dark (s := s.counted) hm (by rw [State.ship_counted]; exact hl)
  · rw [State.frequency_pass_follow hm hl]
    exact ⟨fun hd => by rw [State.followTarget_lags hd], fun hd => by rw [State.followTarget_leads hd],
      fun hd hd' => by rw [State.followTarget_close hd hd']⟩
  · exact congrArg PhaseUnit.phase s.pru_pass

end Sys2Proof.Machine

/-! Support for the obligations about the check scanner, RELEASE and PANEL_RESET. -/

namespace Sys2Proof.Machine

/-! ### Ages of check records (R57, R61, R67) -/

namespace State

/-- W is between 60 and 900 s (R183). -/
theorem checkWindow_range {s : State} (h : TableInv s) : 60 ≤ s.checkWindow ∧ s.checkWindow ≤ 900 := by
  have hw : entryOk 6 s.checkWindow = true := h.2 6 (by decide)
  simpa [entryOk, entryRange] using hw

/-- A record whose age has reached a figure, and the choice that follows, before the lapse (log entry 27). -/
def aged (n : Ix) (age : Nat) (s : State) : State :=
  (s.modCheck n fun c => { c with age := max c.age (min age 65535) }).chooseCheck

theorem ageReaches_eq (n : Ix) (age : Nat) (s : State) : s.ageReaches n age = (s.aged n age).lapse n := rfl

@[simp] theorem fields_aged (n : Ix) (age : Nat) (s : State) : OnlyCs s (s.aged n age) := by simp [OnlyCs, aged]

theorem onlyTouches_aged (n : Ix) (age : Nat) (s : State) : OnlyTouches [.scanner] s (s.aged n age) := by
  apply onlyTouches_of_fields <;> simp

theorem check_aged (n : Ix) {age : Nat} (s : State) (h : age ≤ 65535) :
    ((s.aged n age).check n).age = max (s.check n).age age ∧
    ((s.aged n age).check n).lapseWarned = (s.check n).lapseWarned := by
  have hstep := scannerStep_chooseCheck (s.modCheck n fun c => { c with age := max c.age (min age 65535) })
  refine ⟨(hstep.age n).trans ?_, (hstep.warned n).trans ?_⟩
  · simp [check, Nat.min_eq_left h]
  · simp [check]

theorem berth_aged (n m : Ix) (age : Nat) (s : State) : (s.aged n age).berth m = s.berth m := by
  unfold berth
  rw [(s.fields_aged n age).2.2.2.2.2.2.1]

theorem checkWindow_aged (n : Ix) (age : Nat) (s : State) : (s.aged n age).checkWindow = s.checkWindow := by
  unfold checkWindow param
  rw [(s.fields_aged n age).2.2.1]

theorem sameForTrip_aged (n : Ix) (age : Nat) (s : State) : SameForTrip s (s.aged n age) :=
  ⟨by simp, by simp, by simp, by simp, by simp, fun m => by rw [berth_aged]⟩

/-- A berth whose breaker is open has no lapse (R67). -/
theorem ageReaches_opened {n : Ix} {age : Nat} {s : State} (h : (s.berth n).breaker = .opened) :
    s.ageReaches n age = s.aged n age := by
  rw [ageReaches_eq]
  refine lapse_notLate fun hlate => ?_
  rcases hlate.1 with hb | hb <;> rw [berth_aged, h] at hb <;> cases hb

theorem not_fresh_of_age {n : Ix} {s : State} (h : s.checkWindow < (s.check n).age) : s.fresh n = false := by
  have : ¬ (s.check n).age ≤ s.checkWindow := by omega
  simp [fresh, this]

/-- The scanner at rest finds a PASSED record that has reached half of W, unless a request comes first (R61). -/
theorem busy_aged {n : Ix} {s : State} (h : TableInv s) (hidle : s.cs.scanner = .idle) (hp : (s.berth n).plug = .present)
    (hst : (s.berth n).state ≠ .vacant) (hpassed : (s.check n).status = .passed) :
    (s.aged n (s.checkWindow / 2)).cs.scanner ≠ .idle := by
  have hw := checkWindow_range h
  obtain ⟨u, hu⟩ : ∃ u, u = s.modCheck n fun c => { c with age := max c.age (min (s.checkWindow / 2) 65535) } := ⟨_, rfl⟩
  have hrec : u.check n = { s.check n with age := max (s.check n).age (s.checkWindow / 2) } := by
    rw [hu]
    simp [check, Nat.min_eq_left (show s.checkWindow / 2 ≤ 65535 by omega)]
  have hfind : u.roundRobin n = true := by
    have hb : u.berth n = s.berth n := by rw [hu]; rfl
    have hwin : u.checkWindow = s.checkWindow := by rw [hu]; rfl
    simp [roundRobin, hrec, hb, hwin, hp, hst, hpassed]
  have hscan : u.cs.scanner = .idle := by rw [hu]; exact hidle
  unfold aged
  rw [← hu]
  by_cases hq : u.cs.queue = []
  · exact chooseCheck_finds hscan hq hfind
  · exact chooseCheck_busy hq

theorem onlyTouches_warnLapse (n : Ix) (s : State) : OnlyTouches [.link .t, .link (.v n), .scanner] s (s.warnLapse n) := by
  unfold warnLapse
  split
  · apply onlyTouches_of_fields <;> simp +contextual [notifyCheck, link_notifyBoth_ne]
  · exact onlyTouches_refl _ _

end State

/-- FRESHNESS_LAPSE and ROUND_ROBIN_ELIGIBLE at an open breaker (R57, R61, R62). -/
theorem openedAges {s : State} {n : Ix} (h : s.powered = true) (ht : TableInv s) (hb : (s.berth n).breaker = .opened) :
    (∃ t : State, exec (.freshnessLapse n) s = .next t.settle ∧ (t.check n).age = max (s.check n).age (s.checkWindow + 1) ∧
      t.fresh n = false ∧ OnlyTouches [.scanner] s t) ∧
    (∃ t : State, exec (.roundRobinEligible n) s = .next t.settle ∧ (t.check n).age = max (s.check n).age (s.checkWindow / 2) ∧
      (s.cs.scanner = .idle → (s.berth n).plug = .present → (s.berth n).state ≠ .vacant → (s.check n).status = .passed →
        t.cs.scanner ≠ .idle) ∧
      OnlyTouches [.scanner] s t) := by
  have hw := State.checkWindow_range ht
  have hage := (s.check_aged n (show s.checkWindow + 1 ≤ 65535 by omega)).1
  refine ⟨⟨_, event_next_eq h (State.ageReaches_opened hb), hage, ?_, s.onlyTouches_aged n _⟩,
    ⟨_, event_next_eq h (State.ageReaches_opened hb), (s.check_aged n (by omega)).1, State.busy_aged ht, s.onlyTouches_aged n _⟩⟩
  refine State.not_fresh_of_age ?_
  rw [State.checkWindow_aged, hage]
  omega

/-- LAPSE_WARNING of a closed berth (R67). -/
theorem closedAges_warns {s : State} {n : Ix} (h : s.powered = true) (ht : TableInv s) (hb : (s.berth n).breaker = .closed)
    (hno : (s.check n).lapseWarned = false) (hage : (s.check n).age ≤ 2 * s.checkWindow) :
    ∃ t : State, exec (.lapseWarning n) s = .next t.settle ∧ (t.check n).lapseWarned = true ∧
      ((s.port .t).isOpen = true → (t.port .t).notices.check.latest =
        some { berth := some n, code := some 2, value := max (s.check n).age (s.checkWindow + 1), period := s.ge.period }) ∧
      OnlyTouches [.link .t, .link (.v n), .scanner] s t := by
  have hw := State.checkWindow_range ht
  obtain ⟨u, hu⟩ : ∃ u, u = s.aged n (s.checkWindow + 1) := ⟨_, rfl⟩
  obtain ⟨huage, huwarned⟩ := hu ▸ s.check_aged n (show s.checkWindow + 1 ≤ 65535 by omega)
  have huwin : u.checkWindow = s.checkWindow := by rw [hu, State.checkWindow_aged]
  have hlate : u.Late n := ⟨.inl (by rw [hu, State.berth_aged, hb]), by rw [huwin, huage]; omega⟩
  have hwarns : u.LapseWarns n := ⟨hlate, huwarned.trans hno⟩
  have hyoung : ¬ u.LapseTrips n := fun ⟨_, hold, _⟩ => by rw [huwin, huage] at hold; omega
  have hlapse : s.ageReaches n (s.checkWindow + 1) = u.warnLapse n := by
    rw [State.ageReaches_eq, ← hu, State.lapse_young hlate hyoung]
  refine ⟨_, event_next_eq h hlapse, ?_, fun hopen => ?_, onlyTouches_trans (t := u) ?_ (u.onlyTouches_warnLapse n)⟩
  · rw [State.check_warnLapse, if_pos ⟨rfl, hlate.2⟩]
  · have hnotice := (hu ▸ s.sameForTrip_aged n _).noticed (State.noticed_lapse_check hwarns (.inl rfl))
    rw [State.lapse_young hlate hyoung, huage] at hnotice
    have hopen' : ((u.warnLapse n).port .t).isOpen = true := by
      rw [(State.steady_warnLapse n u).isOpen, hu, State.port, (s.fields_aged n _).2.2.2.2.1]
      exact hopen
    exact congrArg NoticeSlot.latest (hnotice hopen')
  · rw [hu]
    exact onlyTouches_mono (s.onlyTouches_aged n _) (by simp)

theorem BerthState.live_of_isLive {b : BerthState} (h : b.isLive = true) : b ≠ .tripped ∧ b ≠ .opening := by
  cases b <;> simp_all [BerthState.isLive]

/-- CHECK_LAPSED_TRIP of a closed berth (R22, R67). -/
theorem closedAges_trips {s : State} {n : Ix} (h : s.powered = true) (ht : TableInv s) (hb : (s.berth n).breaker = .closed)
    (hlive : s.isLive n = true) (hage : 0 < (s.check n).age) :
    ∃ t : State, exec (.checkLapsedTrip n) s = .next t.settle ∧ Tripped s n .checkLapsed t ∧
      Consented s n .failed .checkFailed 0 t ∧ (t.berth n).motionLimit = some 300 ∧ OnlyTouches (tripParts n) s t := by
  have hw := State.checkWindow_range ht
  obtain ⟨u, hu⟩ : ∃ u, u = s.aged n (2 * s.checkWindow + 1) := ⟨_, rfl⟩
  have huage := (hu ▸ s.check_aged n (show 2 * s.checkWindow + 1 ≤ 65535 by omega)).1
  have huwin : u.checkWindow = s.checkWindow := by rw [hu, State.checkWindow_aged]
  have hub : u.berth n = s.berth n := by rw [hu, State.berth_aged]
  obtain ⟨htripped, hopening⟩ := BerthState.live_of_isLive hlive
  have htrips : u.LapseTrips n :=
    ⟨⟨.inl (by rw [hub, hb]), by rw [huwin, huage]; omega⟩, by rw [huwin, huage]; omega, by rw [hub]; exact htripped⟩
  obtain ⟨v, hv⟩ : ∃ v, v = u.warnLapse n := ⟨_, rfl⟩
  have heq : s.lapseTripDue n = v.tripTo n .checkLapsed 0 .tripped none := by
    unfold State.lapseTripDue
    rw [if_neg (by omega), State.ageReaches_eq, ← hu, hv]
    exact State.lapse_due htrips fun ho => absurd (hub ▸ ho) hopening
  have hwarn := hv ▸ State.onlyWarned_warnLapse n u
  have hsame := hu ▸ s.sameForTrip_aged n (2 * s.checkWindow + 1)
  have hvb : v.berths.get n = s.berth n := by rw [hwarn.berths]; exact hub
  have hclosed : (v.berths.get n).breaker = .closed := by rw [hvb, hb]
  have htrip : Tripped v n .checkLapsed (v.tripTo n .checkLapsed 0 .tripped none) :=
    tripped_tripTo (by rw [State.berth, hclosed]; decide)
  refine ⟨_, event_next_eq h heq, ?_, ?_, ?_, onlyTouches_trans (t := v) (onlyTouches_trans (t := u) ?_ ?_)
    (v.onlyTouches_tripTo n _ _ _ _)⟩
  · refine hsame.tripped { htrip with notices := fun p hp hopen => ?_, flags := fun _ => ?_ }
    · have := htrip.notices p hp hopen
      rwa [show (v.port p).notices.get .trip = (u.port p).notices.get .trip from hwarn.tripNotice p,
        show v.ge.period = u.ge.period by rw [hv]; exact (State.steady_warnLapse n u).period] at this
    · refine sourceReached_of_waiters (by rw [hwarn.oe]) hwarn.table hwarn.now (fun m c hc => ?_)
        (fun _ _ _ _ => by unfold State.orders; rw [hwarn.oe]) (htrip.flags (by decide))
      unfold State.berth at hc ⊢
      rwa [hwarn.berths] at hc
  · refine hsame.consented ((v.consented_tripTo n .checkLapsed 0 .tripped none).of_steps ?_ hwarn.now
      (fun r _ => State.slot_of_ports (by rw [hwarn.oe]) r) (fun _ _ hs _ => hs) (State.consenting_tripTo n _ _ _ _ v))
    unfold State.berth
    rw [hwarn.berths]
  · rw [State.berth, v.berths_tripTo _ _ _ _ (by rw [hclosed]; decide)]
    simp [hclosed]
  · rw [hu]
    exact onlyTouches_mono (s.onlyTouches_aged n _) (by simp [tripParts])
  · rw [hv]
    exact onlyTouches_mono (u.onlyTouches_warnLapse n) (by simp [tripParts])

/-- Settles O55: the record ages and the choice is made; what follows is the lapse of the record so aged. -/
theorem checkAges : Obligations.CheckAges := by
  refine ⟨fun s n h ht hb => openedAges h ht hb, fun s n h ht hb => ⟨closedAges_warns h ht hb, fun hage => ?_,
    closedAges_trips h ht hb⟩⟩
  exact event_next_eq h (by simp [State.lapseTripDue, hage])

end Sys2Proof.Machine

namespace Sys2Proof.Machine

/-! ### The end of HELD, and RELEASE (R69, R166) -/

/-- A HELD notice of RELEASED, as port `p` takes it in (R166). -/
def Released (s t : State) (p : Port) : Prop :=
  (s.port p).isOpen = true → (t.port p).notices.held = { (s.port p).notices.held with
    flag := true, latest := some { berth := none, code := some 1, value := 0, period := s.ge.period } }

namespace State

/-- RELEASED to the ports of a list (R166). -/
def releaseNotices (l : List Port) (s : State) : State := s.forEach l fun p t => t.notify p .held none 1 0

theorem releasePart_eq (s : State) : s.releasePart =
    (s.modOe fun oe => { oe with held := false }).releaseNotices (.t :: Ix.all.map Port.v) := rfl

theorem fields_releaseNotices (l : List Port) (s : State) : OnlyLink s (s.releaseNotices l) :=
  keep_forEach (P := fun t => OnlyLink s t) (fun p t ht => by
    obtain ⟨h1, h2, h3, h4, h5, h6, h7, h8, h9, h10, h11, h12⟩ := ht
    have h := t.fields_notify p .held none 1 0
    simp only [OnlyLink, h1, h2, h3, h4, h5, h6, h7, h8, h9, h10, h11, h12] at h
    exact h) l (by simp [OnlyLink])

theorem port_releaseNotices_ne {p : Port} {l : List Port} (s : State) (h : p ∉ l) : (s.releaseNotices l).port p = s.port p :=
  keep_forEach_mem (P := fun t => t.port p = s.port p)
    (fun _ hq t ht => (link_notify_ne t _ _ _ _ fun e => h (by rw [e]; exact hq)).trans ht) rfl

theorem released_releaseNotices {p : Port} {l : List Port} (hl : l.Nodup) (hp : p ∈ l) (s : State) :
    Released s (s.releaseNotices l) p := by
  induction l generalizing s with
  | nil => exact absurd hp List.not_mem_nil
  | cons q l ih =>
    obtain ⟨hq, hl'⟩ := List.nodup_cons.mp hl
    show Released s ((s.notify q .held none 1 0).releaseNotices l) p
    intro hopen
    by_cases hpq : p = q
    · subst hpq
      rw [port_releaseNotices_ne _ hq]
      exact notices_notify s p .held none 1 0 hopen
    · have hport : (s.notify q .held none 1 0).port p = s.port p := link_notify_ne s _ _ _ _ hpq
      have := ih hl' ((List.mem_cons.mp hp).resolve_left hpq) (s.notify q .held none 1 0) (by rw [hport]; exact hopen)
      rwa [hport, (s.fields_notify q .held none 1 0).2.2.2.2.2.2.2.2.2.2.1] at this

/-- The end of HELD changes the Link Unit and HELD alone (R166). -/
theorem fields_releasePart (s : State) :
    s.releasePart.powered = s.powered ∧ s.releasePart.now = s.now ∧ s.releasePart.table = s.table ∧
    s.releasePart.inputs = s.inputs ∧ s.releasePart.oe = { s.oe with held := false } ∧ s.releasePart.berths = s.berths ∧
    s.releasePart.pru = s.pru ∧ s.releasePart.cs = s.cs ∧ s.releasePart.cp = s.cp ∧ s.releasePart.gi = s.gi ∧
    s.releasePart.ge = s.ge ∧ s.releasePart.pending = s.pending :=
  fields_releaseNotices _ (s.modOe fun oe => { oe with held := false })

theorem released_releasePart (p : Port) (s : State) : Released s s.releasePart p :=
  released_releaseNotices (by decide) (by
    cases p with
    | t => simp
    | v n => cases n <;> simp) (s.modOe fun oe => { oe with held := false })

theorem onlyTouches_releasePart (s : State) : OnlyTouches (.held :: allLinks) s s.releasePart := by
  obtain ⟨h1, h2, h3, h4, h5, h6, h7, h8, h9, h10, h11, h12⟩ := s.fields_releasePart
  exact onlyTouches_of_fields (fun _ => h1) (fun _ => h2) (fun _ => h12) (fun _ => h3) (fun _ => h4)
    (fun p hp => absurd (List.mem_cons_of_mem _ (mem_allLinks p)) hp) (fun _ _ => by rw [h5]) (fun _ => by rw [h5])
    (fun h => absurd List.mem_cons_self h) (fun _ _ => by rw [h6]) (fun _ => h7) (fun _ => h8) (fun _ => h9) (fun _ => h10)
    (fun _ => h11)

/-- The round that closes while a RELEASE waits (R69, R166). -/
theorem closeRound_releases {s : State} (h : s.releaseWaits = true) : s.closeRound =
    ((s.modCs fun u => { u with roundClosed := true }).endRunning .t .done .none).releasePart := by
  simp [closeRound, h]

end State

/-- A RELEASE that ends at once (R166). -/
theorem release_atOnce {s u : State} {stop : Bool} (h : PortReady s .t)
    (hu : (s.withRunning .t ⟨.release, stop, 0⟩).takeRelease = (u, some (doneWith 0 0)))
    (hq : (u.orders .t).queue = (runningOrders (s.orders .t) ⟨.release, stop, 0⟩ s.now).queue) :
    exec (.release .t stop) s = .next (u.endOrder (s.nextRef .t) (doneWith 0 0)).settle ∧
      OrderEnds (.release .t stop) s (doneWith 0 0) (u.endOrder (s.nextRef .t) (doneWith 0 0)) :=
  order_ends (c := .release .t stop) rfl h rfl hu hq

/-- RELEASE at its take (R166). -/
theorem release_taken {s : State} {stop : Bool} (h : PortReady s .t) :
    (s.oe.held = false → ∃ t : State, exec (.release .t stop) s = .next t.settle ∧
      OrderEnds (.release .t stop) s (doneWith 0 0) t ∧ OnlyTouches [.link .t, .orders .t] s t) ∧
    (s.oe.held = true → s.cs.roundClosed = true →
      ∃ t : State, exec (.release .t stop) s = .next t.settle ∧ OrderEnds (.release .t stop) s (doneWith 0 0) t ∧
        t.oe.held = false ∧ (∀ p, Released s t p) ∧ OnlyTouches ([.orders .t, .held] ++ allLinks) s t) ∧
    (s.oe.held = true → s.cs.roundClosed = false →
      ∃ t : State, exec (.release .t stop) s = .next t.settle ∧ OrderRuns (.release .t stop) s t ∧
        (t.orders .t).timer = some 60 ∧ OnlyTouches [.link .t, .orders .t] s t) := by
  obtain ⟨w, hw⟩ : ∃ w, w = s.withRunning .t ⟨.release, stop, 0⟩ := ⟨_, rfl⟩
  have hwheld : w.oe.held = s.oe.held := by rw [hw]; rfl
  have hwclosed : w.cs.roundClosed = s.cs.roundClosed := by rw [hw]; rfl
  have hwq : (w.orders .t).queue = (runningOrders (s.orders .t) ⟨.release, stop, 0⟩ s.now).queue := by
    rw [hw]; exact queue_withRunning
  refine ⟨fun hfree => ?_, fun hheld hclosed => ?_, fun hheld hopen => ?_⟩
  · obtain ⟨he, hends⟩ := release_atOnce (u := w) h (by rw [← hw]; simp [State.takeRelease, hwheld, hfree]) hwq
    exact ⟨_, he, hends, onlyTouches_taken hw (by simp) (by simp) (onlyTouches_mono (onlyTouches_endOrder _ _) (by
      simp [State.nextRef]))⟩
  · obtain ⟨h1, h2, h3, h4, h5, h6⟩ := w.fields_releasePart
    obtain ⟨he, hends⟩ := release_atOnce (u := w.releasePart) h
      (by rw [← hw]; simp [State.takeRelease, hwheld, hheld, hwclosed, hclosed])
      (by unfold State.orders; rw [h5]; exact hwq)
    refine ⟨_, he, hends, by rw [(State.fields_endOrder _ _ _).2.2.2.2.2.1, h5], fun p hopen => ?_,
      onlyTouches_taken hw (List.mem_append_right _ (mem_allLinks _)) (by simp) (onlyTouches_trans (t := w.releasePart)
        (onlyTouches_mono w.onlyTouches_releasePart (by simp)) (onlyTouches_mono (onlyTouches_endOrder _ _) (by
          simp [State.nextRef])))⟩
    have hport : (w.port p).isOpen = (s.port p).isOpen ∧ (w.port p).notices = (s.port p).notices := by
      unfold State.port
      rw [hw, link_withRunning, PortMap.get_set]
      split
      · subst p; exact ⟨rfl, rfl⟩
      · exact ⟨rfl, rfl⟩
    have hnotice := w.released_releasePart p (by rw [hport.1]; exact hopen)
    rw [hport.2, show w.ge = s.ge by rw [hw]; rfl] at hnotice
    unfold State.port at hnotice ⊢
    rw [(State.fields_endOrder _ _ _).2.2.2.2.1]
    exact hnotice
  · obtain ⟨he, hruns⟩ := order_runs (c := .release .t stop)
      (u := w.modOrders .t fun po => { po with timer := some Config.releaseLimit }) rfl h rfl
      (by rw [← hw]; show w.takeRelease = _; simp [State.takeRelease, hwheld, hheld, hwclosed, hopen])
      (by simpa [State.orders] using hwq)
    refine ⟨_, he, hruns, by simp [State.orders], onlyTouches_taken hw (by simp) (by simp) ?_⟩
    apply onlyTouches_of_fields <;> simp +contextual

/-- A RELEASE that waits, at the end of its limit (R166). -/
theorem releaseLimit_ends {s : State} {r : OrderRef} {o : OrderRec} {k : Nat} (h : s.powered = true)
    (hrun : s.running? .t = some (r, { record := o, status := .running k }))
    (hslot : s.slot? r = some { record := o, status := .running k }) (ho : o.order = .release) :
    ∃ t : State, exec .releaseLimitExpiry s = .next t.settle ∧
      t.slot? r = some ⟨o, .ended
        { verdict := .failed, code := .waitTimeout, d1 := min 65535 (s.now - k), d2 := s.cs.roundList.length }⟩ ∧
      OnlyTouches [.orders .t] s t := by
  have hport := (State.running_slot hrun).1
  have helapsed : s.elapsed r = min 65535 (s.now - k) := by simp [State.elapsed, hslot]
  refine ⟨s.endOrder r _, event_next_eq h (by simp [State.releaseExpires, hrun, ho, helapsed]),
    State.slot_endOrder_self hslot rfl, ?_⟩
  rw [← hport]
  exact onlyTouches_endOrder r _

/-- A RELEASE that waits, at the close of the round (R69, R166). -/
theorem closeRound_ends {s : State} {r : OrderRef} {o : OrderRec} {k : Nat}
    (hrun : s.running? .t = some (r, { record := o, status := .running k })) (ho : o.order = .release) :
    s.closeRound.oe.held = false ∧ s.closeRound.cs.roundClosed = true ∧ Finished s r .done .none 0 s.closeRound := by
  obtain ⟨u, hu⟩ : ∃ u, u = s.modCs fun u => { u with roundClosed := true } := ⟨_, rfl⟩
  have hclose : s.closeRound = (u.endRunning .t .done .none).releasePart := by
    rw [hu]
    exact State.closeRound_releases (by simp [State.releaseWaits, hrun, ho])
  obtain ⟨h1, h2, h3, h4, h5, h6, h7, h8, h9⟩ := (u.endRunning .t .done .none).fields_releasePart
  rw [hclose]
  refine ⟨by rw [h5], ?_, fun o' k' hk => ?_⟩
  · rw [h8, (State.fields_endRunning u .t .done .none).2.2.2.2.2.2.2.2.1, hu]
    rfl
  · rw [State.slot_of_ports (s := u.endRunning .t .done .none) (by rw [h5])]
    subst hu
    exact State.finished_endRunning (s := s.modCs fun u => { u with roundClosed := true }) .done .none hrun o' k' hk

/-- Settles O30: the three takes of RELEASE, and the two ends of one that waits. -/
theorem releaseAnswers : Obligations.ReleaseAnswers :=
  ⟨fun _ _ h => release_taken h, fun _ _ _ _ h hrun hslot ho =>
    ⟨releaseLimit_ends h hrun hslot ho, _, rfl, closeRound_ends hrun ho⟩⟩

end Sys2Proof.Machine

namespace Sys2Proof.Machine

/-! ### The choice of the next check (R58, R59, R61, R62) -/

/-- The check `c` suits berth `n` in `s` (R58, R59): DEAD for 3 s at an open breaker with the ship side not live, else LIVE for 1 s. -/
def SuitsBerth (s : State) (n : Ix) (c : InFlight) : Prop :=
  (((s.berth n).breaker = .opened ∧ (s.ship n).side ≠ .live) → c.mode = .dead ∧ c.timer = 3) ∧
  (((s.berth n).breaker ≠ .opened ∨ (s.ship n).side = .live) → c.mode = .live ∧ c.timer = 1)

/-- A check of a berth starts on the way from `s` to `t`. -/
structure Starts (s t : State) (n : Ix) (origin : CheckOrigin) (c : InFlight) : Prop where
  scanner : t.cs.scanner = .running c
  berth : c.berth = n
  origin : c.origin = origin
  pointer : t.cs.pointer = n.next
  suits : SuitsBerth s n c
  status : (t.check n).status = .inFlight
  mode : (t.check n).mode = some c.mode

namespace State

theorem suits_checkMode (n : Ix) (o : CheckOrigin) (s : State) :
    SuitsBerth s n { berth := n, mode := s.checkMode n, origin := o, timer := (s.checkMode n).seconds } := by
  unfold SuitsBerth checkMode
  refine ⟨fun h => ?_, fun h => ?_⟩
  · rw [if_pos h]
    exact ⟨rfl, rfl⟩
  · rw [if_neg (by tauto)]
    exact ⟨rfl, rfl⟩

theorem starts_startCheck (n : Ix) (o : CheckOrigin) (s : State) : ∃ c, Starts s (s.startCheck n o) n o c :=
  ⟨_, scanner_startCheck s n o, rfl, rfl, rfl, s.suits_checkMode n o, by rw [check_startCheck, if_pos rfl], by
    rw [check_startCheck, if_pos rfl]⟩

/-- The choice from the head of the request queue (R61). -/
theorem chooseCheck_takesHead {s : State} {n : Ix} {rest : List Ix} (h : s.cs.scanner = .idle) (hq : s.cs.queue = n :: rest) :
    s.chooseCheck.cs.queue = rest ∧ ∃ c, Starts s s.chooseCheck n .request c := by
  rw [chooseCheck_head h hq]
  obtain ⟨c, hc⟩ := starts_startCheck n .request (s.modCs fun u => { u with queue := rest })
  exact ⟨rfl, c, hc.scanner, hc.berth, hc.origin, hc.pointer, hc.suits, hc.status, hc.mode⟩

/-- The search over the circle finds the first eligible berth from the pointer on (R62). -/
theorem chooseCheck_searches {s : State} {n : Ix} {before behind : List Ix} (h : s.cs.scanner = .idle) (hq : s.cs.queue = [])
    (hcircle : s.cs.pointer.circle = before ++ n :: behind) (hno : ∀ m ∈ before, s.roundRobin m = false)
    (hn : s.roundRobin n = true) : s.chooseCheck.cs.queue = [] ∧ ∃ c, Starts s s.chooseCheck n .round c := by
  have hfind : s.cs.pointer.circle.find? s.roundRobin = some n := by
    rw [hcircle, List.find?_append, List.find?_eq_none.mpr fun m hm => by simp [hno m hm]]
    simp [hn]
  have hchoice : s.chooseCheck = s.startCheck n .round := by simp [chooseCheck, h, hq, hfind]
  rw [hchoice]
  exact ⟨hq, starts_startCheck n .round s⟩

theorem chooseCheck_rests {s : State} (hq : s.cs.queue = []) (hno : ∀ n, s.roundRobin n = false) : s.chooseCheck = s := by
  have hfind : s.cs.pointer.circle.find? s.roundRobin = none := List.find?_eq_none.mpr fun m _ => by simp [hno m]
  unfold chooseCheck
  simp only [hq, hfind]
  split <;> rfl

/-- Which berths the search may find (R62). -/
theorem roundRobin_iff (n : Ix) (s : State) : s.roundRobin n = true ↔ (s.berth n).plug = .present ∧ (s.berth n).state ≠ .vacant ∧
    ((s.check n).status = .none ∨ ((s.check n).status = .passed ∧ s.checkWindow / 2 ≤ (s.check n).age)) := by
  unfold roundRobin
  cases h : (s.check n).status <;> simp [h, and_assoc]

theorem onlyTouches_chooseCheck (s : State) : OnlyTouches [.scanner] s s.chooseCheck := by
  apply onlyTouches_of_fields <;> simp

/-- A berth that neither waits in the queue nor can be found by the search keeps its record through a choice. -/
theorem check_chooseCheck_other {n : Ix} {s : State} (hq : n ∉ s.cs.queue) (hno : s.roundRobin n = false) :
    s.chooseCheck.check n = s.check n := by
  rcases s.chooseCheck_cases with h | ⟨-, m, o, h, hm⟩ <;> rw [h]
  have hne : n ≠ m := by
    rintro rfl
    rcases hm with ⟨-, rest, hrest⟩ | ⟨-, -, hfound⟩
    · exact hq (by simp [hrest])
    · rw [hno] at hfound
      cases hfound
  rw [check_startCheck, if_neg hne]
  rfl

/-- The choice leaves the scanner not FAULTED when it was not. -/
theorem chooseCheck_sound {s : State} (h : s.cs.scanner ≠ .faulted) : s.chooseCheck.cs.scanner ≠ .faulted := by
  rcases s.chooseCheck_cases with e | ⟨-, m, o, e, -⟩ <;> rw [e]
  · exact h
  · simp

end State

/-! ### The instrument's fault input (R58, R68) -/

namespace State

/-- A CHECK notice about the instrument, at port T (R68, R181). -/
theorem latest_instrument {s u : State} {b : Option Ix} {k : Nat} (hl : u.link = s.link) (hg : u.ge = s.ge)
    (hopen : (s.port .t).isOpen = true) : ((u.notify .t .check b k 0).port .t).notices.check.latest =
      some { berth := b, code := some k, value := 0, period := s.ge.period } := by
  have h := notices_notify u .t .check b k 0 (by rw [hl]; exact hopen)
  rw [hg] at h
  exact congrArg NoticeSlot.latest h

theorem instrumentFails_idle {s : State} (h : s.cs.scanner = .idle) : s.instrumentFails =
    ((s.modInputs fun i => { i with instrumentFault := true }).faultScanner.notify .t .check none 3 0) := by
  simp [instrumentFails, h]

theorem instrumentFails_faulted {s : State} (h : s.cs.scanner = .faulted) : s.instrumentFails =
    if s.inputs.instrumentFault then s.modInputs fun i => { i with instrumentFault := true }
    else (s.modInputs fun i => { i with instrumentFault := true }).notify .t .check none 3 0 := by
  simp [instrumentFails, h]

/-- The check in flight aborted, its record back at its earlier status, and a requested one at the head of the queue (R58, R68). -/
def abortedByFault (c : InFlight) (s : State) : State :=
  let t := ((s.modInputs fun i => { i with instrumentFault := true }).abortRecord c.berth).faultScanner
  if c.origin = .request then t.requestFirst c.berth else t

theorem instrumentFails_running {s : State} {c : InFlight} (h : s.cs.scanner = .running c) : s.instrumentFails =
    (s.abortedByFault c).notify .t .check (some c.berth) 3 0 := by
  simp [instrumentFails, h, abortedByFault]

theorem fields_abortedByFault (c : InFlight) (s : State) :
    (s.abortedByFault c).powered = s.powered ∧ (s.abortedByFault c).now = s.now ∧ (s.abortedByFault c).table = s.table ∧
    (s.abortedByFault c).link = s.link ∧ (s.abortedByFault c).oe = s.oe ∧ (s.abortedByFault c).berths = s.berths ∧
    (s.abortedByFault c).pru = s.pru ∧ (s.abortedByFault c).cp = s.cp ∧ (s.abortedByFault c).gi = s.gi ∧
    (s.abortedByFault c).ge = s.ge ∧ (s.abortedByFault c).pending = s.pending := by
  unfold abortedByFault
  simp only
  split <;> simp

theorem cs_abortedByFault (c : InFlight) (s : State) : (s.abortedByFault c).cs.scanner = .faulted ∧
    (s.abortedByFault c).check c.berth =
      { s.check c.berth with status := ((s.check c.berth).before.getD .none).status, before := none } ∧
    (s.abortedByFault c).cs.queue = if c.origin = .request then c.berth :: s.cs.queue.filter (fun x => decide (x ≠ c.berth))
      else s.cs.queue := by
  unfold abortedByFault
  simp only
  split <;> simp [requestFirst, faultScanner, abortRecord, check]

end State

/-- The assertion of the instrument's fault with nothing in flight (R68). -/
theorem faultAsserted_quiet {s : State} (h : s.powered = true) :
    (s.cs.scanner = .idle →
      ∃ t : State, exec .instrumentFaultAsserted s = .next t.settle ∧ t.cs = { s.cs with scanner := .faulted } ∧
        t.inputs = { s.inputs with instrumentFault := true } ∧
        ((s.port .t).isOpen = true → (t.port .t).notices.check.latest =
          some { berth := none, code := some 3, value := 0, period := s.ge.period }) ∧
        OnlyTouches [.inputs, .link .t, .scanner] s t) ∧
    (s.cs.scanner = .faulted →
      ∃ t : State, exec .instrumentFaultAsserted s = .next t.settle ∧ t.cs = s.cs ∧
        t.inputs = { s.inputs with instrumentFault := true } ∧
        (s.inputs.instrumentFault = false → Noticed s t .t .check none 3 0) ∧
        (s.inputs.instrumentFault = true → t.port .t = s.port .t) ∧ OnlyTouches [.inputs, .link .t] s t) := by
  refine ⟨fun hidle => ⟨_, event_next_eq h (State.instrumentFails_idle hidle), ?_, ?_, State.latest_instrument rfl rfl, ?_⟩,
    fun hf => ?_⟩
  · simp [State.faultScanner]
  · simp
  · apply onlyTouches_of_fields <;> simp +contextual [State.link_notify_ne]
  have heq := State.instrumentFails_faulted hf
  cases hin : s.inputs.instrumentFault
  · rw [hin, if_neg Bool.false_ne_true] at heq
    refine ⟨_, event_next_eq h heq, by simp, by simp, fun _ hopen => ?_, nofun, ?_⟩
    · rw [State.port, State.isOpen_notify] at hopen
      exact State.notices_notify _ .t .check none 3 0 hopen
    · apply onlyTouches_of_fields <;> simp +contextual [State.link_notify_ne]
  · rw [hin, if_pos rfl] at heq
    exact ⟨_, event_next_eq h heq, rfl, rfl, nofun, fun _ => rfl, onlyTouches_mono (onlyTouches_modInputs _) (by simp)⟩

/-- The assertion of the instrument's fault with a check in flight (R58, R68). -/
theorem faultAsserted_aborts {s : State} {c : InFlight} (h : s.powered = true) (hc : s.cs.scanner = .running c) :
    ∃ t : State, exec .instrumentFaultAsserted s = .next t.settle ∧ t.cs.scanner = .faulted ∧
      ((s.check c.berth).before = some .passed → (t.check c.berth).status = .passed) ∧
      ((s.check c.berth).before = some .failed → (t.check c.berth).status = .failed) ∧
      ((s.check c.berth).before = some .none → (t.check c.berth).status = .none) ∧
      (t.check c.berth).before = none ∧
      t.cs.queue = (if c.origin = .request then
        c.berth :: s.cs.queue.filter (fun x => decide (x ≠ c.berth)) else s.cs.queue) ∧
      ((s.port .t).isOpen = true → (t.port .t).notices.check.latest =
        some { berth := some c.berth, code := some 3, value := 0, period := s.ge.period }) ∧
      OnlyTouches [.inputs, .link .t, .scanner] s t := by
  obtain ⟨h1, h2, h3, h4, h5, h6, h7, h8, h9, h10, h11⟩ := s.fields_abortedByFault c
  obtain ⟨hscan, hrec, hqueue⟩ := s.cs_abortedByFault c
  obtain ⟨t, ht⟩ : ∃ t, t = (s.abortedByFault c).notify .t .check (some c.berth) 3 0 := ⟨_, rfl⟩
  have htcs : t.cs = (s.abortedByFault c).cs := by rw [ht]; simp
  have htrec : t.check c.berth = (s.abortedByFault c).check c.berth := by unfold State.check; rw [htcs]
  rw [← htrec] at hrec
  refine ⟨t, event_next_eq h (ht ▸ State.instrumentFails_running hc), by rw [htcs, hscan], ?_, ?_, ?_, by rw [hrec],
    by rw [htcs, hqueue], ht ▸ State.latest_instrument h4 h10, ?_⟩
  · intro hb; rw [hrec, hb]; rfl
  · intro hb; rw [hrec, hb]; rfl
  · intro hb; rw [hrec, hb]; rfl
  · rw [ht]
    apply onlyTouches_of_fields <;> simp +contextual [State.link_notify_ne, *]

/-- The instrument's fault clears, and the choice is made (R68). -/
theorem faultCleared_answers {s : State} (h : s.powered = true) (hf : s.cs.scanner = .faulted) :
    ∃ t : State, exec .instrumentFaultCleared s = .next t.settle ∧ t.cs.scanner ≠ .faulted ∧
      t.inputs = { s.inputs with instrumentFault := false } ∧
      (∀ n rest, s.cs.queue = n :: rest → t.cs.queue = rest ∧ ∃ c, t.cs.scanner = .running c ∧ c.berth = n) ∧
      ((s.port .t).isOpen = true → (t.port .t).notices.check.latest =
        some { berth := none, code := some 4, value := 0, period := s.ge.period }) ∧
      OnlyTouches [.inputs, .link .t, .scanner] s t := by
  obtain ⟨u, hu⟩ : ∃ u, u = (((s.modInputs fun i => { i with instrumentFault := false }).modCs fun u =>
    { u with scanner := .idle }).notify .t .check none 4 0) := ⟨_, rfl⟩
  have heq : s.instrumentClears = u.chooseCheck := by simp [State.instrumentClears, hf, hu]
  have hucs : u.cs = { s.cs with scanner := .idle } := by rw [hu]; simp
  refine ⟨_, event_next_eq h heq, State.chooseCheck_sound (by rw [hucs]; nofun), by rw [hu]; simp, fun n rest hq => ?_,
    fun hopen => ?_, onlyTouches_trans (t := u) ?_ (onlyTouches_mono u.onlyTouches_chooseCheck (by simp))⟩
  · obtain ⟨hrest, c, hc⟩ := State.chooseCheck_takesHead (s := u) (n := n) (rest := rest) (by rw [hucs]) (by rw [hucs]; exact hq)
    exact ⟨hrest, c, hc.scanner, hc.berth⟩
  · rw [State.port, (State.fields_chooseCheck u).2.2.2.2.1, hu]
    exact State.latest_instrument rfl rfl hopen
  · rw [hu]
    apply onlyTouches_of_fields <;> simp +contextual [State.link_notify_ne]

end Sys2Proof.Machine

namespace Sys2Proof.Machine

/-! ### What follows the result of a check (R58, R69) -/

namespace State

@[simp] theorem inputs_closeRound (s : State) : s.closeRound.inputs = s.inputs := by
  unfold closeRound
  simp only
  split
  · rw [(fields_releasePart _).2.2.2.1]
    simp
  · rfl

theorem cs_closeRound (s : State) : s.closeRound.cs = { s.cs with roundClosed := true } := by
  unfold closeRound
  simp only
  split
  · rw [(fields_releasePart _).2.2.2.2.2.2.2.1]
    simp
  · rfl

theorem cs_leaveRound (n : Ix) (s : State) : ∃ closed, (s.leaveRound n).cs =
    { s.cs with roundList := s.cs.roundList.filter fun x => decide (x ≠ n), roundClosed := closed } := by
  unfold leaveRound
  simp only
  split
  · exact ⟨true, by rw [cs_closeRound]; rfl⟩
  · exact ⟨s.cs.roundClosed, rfl⟩

@[simp] theorem inputs_leaveRound (n : Ix) (s : State) : (s.leaveRound n).inputs = s.inputs := by
  unfold leaveRound
  simp only
  split <;> simp

end State

/-- What the berth's end of the round and the next choice leave of the state in which a check has had its result. -/
structure ResultStands (n : Ix) (u t : State) : Prop where
  powered : t.powered = u.powered
  now : t.now = u.now
  table : t.table = u.table
  inputs : t.inputs = u.inputs
  berths : t.berths = u.berths
  pru : t.pru = u.pru
  cp : t.cp = u.cp
  gi : t.gi = u.gi
  ge : t.ge = u.ge
  pending : t.pending = u.pending
  flags : t.oe.flags = u.oe.flags
  ended : KeepsEnded u t
  link : ∀ p, SameButHeld u t p
  roundList : n ∉ t.cs.roundList
  record : n ∉ u.cs.queue → u.roundRobin n = false → t.check n = u.check n
  faulted : u.cs.scanner = .faulted →
    t.cs.scanner = .faulted ∧ t.cs.pointer = u.cs.pointer ∧ t.cs.queue = u.cs.queue ∧ t.cs.records = u.cs.records

theorem resultStands (n : Ix) (u : State) : ResultStands n u (u.leaveRound n).chooseCheck := by
  have hr := u.leaveRound_step n
  obtain ⟨closed, hcs⟩ := u.cs_leaveRound n
  have hin := u.inputs_leaveRound n
  obtain ⟨v, hv⟩ : ∃ v, v = u.leaveRound n := ⟨_, rfl⟩
  rw [← hv] at hr hcs hin ⊢
  have hlink : ∀ p, SameButHeld u v p := fun p => ⟨(hr.link p).isOpen, (hr.link p).closed, (hr.link p).notices⟩
  obtain ⟨h1, h2, h3, h4, h5, h6, h7, h8, h9, h10, h11, h12⟩ := v.fields_chooseCheck
  refine ⟨h1.trans hr.powered, h2.trans hr.now, h3.trans hr.table, h4.trans hin, h7.trans hr.berths, h8.trans hr.pru,
    h9.trans hr.cp, h10.trans hr.gi, h11.trans hr.ge, h12.trans hr.pending, by rw [h6]; exact hr.flags,
    KeepsEnded.trans hr.ended (State.keepsEnded_of_ports (by rw [h6])),
    fun p => (hlink p).trans (.of_link h5), ?_,
    fun hq hno => ?_, fun hf => ?_⟩
  · rw [(State.round_chooseCheck v).1, hcs]
    simp
  · have hcheck : v.check n = u.check n := by unfold State.check; rw [hcs]
    have hrobin : v.roundRobin n = u.roundRobin n := by
      have hb : v.berth n = u.berth n := by unfold State.berth; rw [hr.berths]; rfl
      have hw : v.checkWindow = u.checkWindow := by unfold State.checkWindow State.param; rw [hr.table]; rfl
      unfold State.roundRobin
      rw [hcheck, hb, hw]
    rw [State.check_chooseCheck_other (by rw [hcs]; exact hq) (hrobin.trans hno), hcheck]
  · have hscan : v.cs.scanner = .faulted := by rw [hcs]; exact hf
    rw [State.chooseCheck_faulted hscan, hcs]
    exact ⟨hf, rfl, rfl, rfl⟩

/-! ### The result of a check (R63, R64) -/

namespace State

/-- A PASSED result in the record, with the instrument free (R63). -/
def passedRecord (n : Ix) (r : Nat) (s : State) : State := s.freeCompleted.modCheck n fun c =>
  { c with status := .passed, before := none, age := 0, resistance := some r, lapseWarned := false }

/-- A FAILED result in the record, with the instrument free and the notices given (R64). -/
def failedRecord (n : Ix) (r : Nat) (s : State) : State := (s.freeCompleted.modCheck n fun c =>
  { c with status := .failed, before := none, resistance := some r }).notifyCheck n 1 r

/-- What a FAILED result does to its berth (R64). -/
def failedBerth (n : Ix) (s : State) : State :=
  if (s.berth n).breaker = .opened then
    if (s.berth n).state.isWaiting then s.failWaiting n .checkFailed .plugged else s
  else s.trip n .insulationLow

theorem completeCheck_passed {s : State} {c : InFlight} {reading r : Nat} (h : s.cs.scanner = .running c)
    (hr : r = min reading 65000) (hp : s.passThreshold ≤ r) : s.completeCheck reading =
      (((s.passedRecord c.berth r).postSource c.berth .checkPassed).leaveRound c.berth).chooseCheck := by
  subst hr
  simp only [completeCheck, h, if_pos hp]
  rfl

theorem completeCheck_failed {s : State} {c : InFlight} {reading r : Nat} (h : s.cs.scanner = .running c)
    (hr : r = min reading 65000) (hp : r < s.passThreshold) : s.completeCheck reading =
      (((s.failedRecord c.berth r).failedBerth c.berth).leaveRound c.berth).chooseCheck := by
  subst hr
  have hb : (s.failedRecord c.berth (min reading 65000)).berth c.berth = s.freeCompleted.berth c.berth := by
    simp [berth, failedRecord]
  simp only [completeCheck, h, if_neg (Nat.not_le_of_lt hp), checkFailed, failedBerth, hb]
  rfl

/-- A completion frees the instrument, to FAULTED where its fault is asserted or follows at once (R58, R68; log entry 43). -/
theorem cs_freeCompleted (s : State) : s.freeCompleted.cs =
    { s.cs with scanner := if s.faultFollows || s.inputs.instrumentFault then .faulted else .idle } := by
  unfold freeCompleted
  cases hf : s.faultFollows <;> simp [faultScanner, freeInstrument]

@[simp] theorem fields_passedRecord (n : Ix) (r : Nat) (s : State) : OnlyCs s (s.passedRecord n r) := by
  simp [OnlyCs, passedRecord]

theorem cs_passedRecord (n : Ix) (r : Nat) (s : State) : (s.passedRecord n r).cs = { s.cs with
    scanner := if s.faultFollows || s.inputs.instrumentFault then .faulted else .idle
    records := s.cs.records.set n { s.check n with
      status := .passed, before := none, age := 0, resistance := some r, lapseWarned := false } } := by
  rw [passedRecord, cs_modCheck, cs_freeCompleted]
  rfl

@[simp] theorem fields_failedRecord (n : Ix) (r : Nat) (s : State) :
    (s.failedRecord n r).powered = s.powered ∧ (s.failedRecord n r).now = s.now ∧ (s.failedRecord n r).table = s.table ∧
    (s.failedRecord n r).inputs = s.inputs ∧ (s.failedRecord n r).oe = s.oe ∧ (s.failedRecord n r).berths = s.berths ∧
    (s.failedRecord n r).pru = s.pru ∧ (s.failedRecord n r).cp = s.cp ∧ (s.failedRecord n r).gi = s.gi ∧
    (s.failedRecord n r).ge = s.ge ∧ (s.failedRecord n r).pending = s.pending := by simp [failedRecord]

theorem cs_failedRecord (n : Ix) (r : Nat) (s : State) : (s.failedRecord n r).cs = { s.cs with
    scanner := if s.faultFollows || s.inputs.instrumentFault then .faulted else .idle
    records := s.cs.records.set n { s.check n with status := .failed, before := none, resistance := some r } } := by
  rw [failedRecord, (fields_notifyCheck _ n 1 r).2.2.2.2.2.2.2.1, cs_modCheck, cs_freeCompleted]
  rfl

/-- A FAILED result is told to port T and to the berth's own (R64, R181). -/
theorem noticed_failedRecord {n : Ix} {p : Port} (r : Nat) (s : State) (hp : p = .t ∨ p = .v n) :
    Noticed s (s.failedRecord n r) p .check (some n) 1 r :=
  noticed_notifyBoth (by simp) (by simp) hp

theorem roundRobin_failed {n : Ix} {s : State} (h : (s.check n).status = .failed) : s.roundRobin n = false := by
  simp [roundRobin, h]

theorem roundRobin_young {n : Ix} {s : State} (hp : (s.check n).status = .passed) (h : (s.check n).age < s.checkWindow / 2) :
    s.roundRobin n = false := by
  simp [roundRobin, hp, h]

/-! ### The scanner at the end of a supply, with nothing in flight (R65) -/

section Quiet

variable {n : Ix} {s : State} (h : ∀ c, s.cs.scanner ≠ .running c)
include h

theorem cs_leaveOpen_quiet (f : Breaker) : (s.leaveOpen n f).cs = s.cs := by
  obtain ⟨u, hu⟩ : ∃ u, u = s.modBerth n fun b => { b with breaker := f, permitDeadTime := none } := ⟨_, rfl⟩
  have hquiet : u.abortDead n = u := abortDead_quiet fun c hc => absurd (by rw [hu] at hc; exact hc) (h c)
  rw [leaveOpen, ← hu, hquiet, (fields_followBusB u).2.2.2.2.2.2.2.1, hu]
  rfl

theorem cs_commandOpen_quiet : (s.commandOpen n).cs = s.cs := by
  have motion : ((s.modBerth n fun b => { b with motionLimit := some Config.openMotion }).leaveOpen n .openSent).cs = s.cs :=
    cs_leaveOpen_quiet (s := s.modBerth n _) h .openSent
  unfold commandOpen
  split
  · rfl
  · split
    · rfl
    · exact motion
  · exact motion
  · exact motion

theorem cs_tripTo_quiet (c : TripCause) (v : Nat) (d : BerthState) (p : Option Purpose) : (s.tripTo n c v d p).cs = s.cs := by
  have hbefore : (s.tripBefore n c d p).cs = s.cs := by
    unfold tripBefore
    simp only
    split
    · simp [withdrawPermit]
    · rw [(fields_departLive _ n).2.2.2.2.2.2.2.2.1]
      simp only [withdrawPermit, cs_modBerth, (fields_leaveSyncing _ n false).2.2.2.2.2.2.2.1]
      exact cs_commandOpen_quiet (s := s.modBerth n _) h
  rw [tripTo_eq]
  simpa using hbefore

theorem cs_failedBerth_quiet : (s.failedBerth n).cs = s.cs := by
  unfold failedBerth
  split
  · split
    · simp
    · rfl
  · unfold trip
    split
    · rfl
    · exact cs_tripTo_quiet h _ _ _ _
    · exact cs_tripTo_quiet h _ _ _ _

end Quiet

theorem fields_failedBerth (n : Ix) (s : State) : (s.failedBerth n).powered = s.powered ∧ (s.failedBerth n).now = s.now ∧
    (s.failedBerth n).table = s.table ∧ (s.failedBerth n).inputs = s.inputs ∧ (s.failedBerth n).cp = s.cp ∧
    (s.failedBerth n).gi = s.gi ∧ (s.failedBerth n).pending = s.pending := by
  unfold failedBerth
  split
  · split <;> simp
  · have h := Aside.trip (p := .t) n .insulationLow s
    exact ⟨h.powered, h.now, h.table, h.inputs, h.cp, h.gi, h.pending⟩

/-- A result frees the scanner. -/
theorem failedRecord_quiet (n : Ix) (r : Nat) (s : State) (c : InFlight) : (s.failedRecord n r).cs.scanner ≠ .running c := by
  rw [cs_failedRecord]
  simp only
  split <;> nofun

theorem check_failedBerth (n : Ix) (r : Nat) (s : State) : ((s.failedRecord n r).failedBerth n).check n =
    { s.check n with status := .failed, before := none, resistance := some r } := by
  unfold check
  rw [cs_failedBerth_quiet (s.failedRecord_quiet n r), cs_failedRecord]
  exact Six.get_set_same _ _ _

end State

end Sys2Proof.Machine

namespace Sys2Proof.Machine

/-! ### CHECK_TIMER_EXPIRY (R58, R63, R64) -/

theorem Noticed.afterResult {s u t : State} {m n : Ix} {p : Port} {c : NoticeClass} {k v : Nat} (ht : ResultStands m u t)
    (hc : c ≠ .held) (h : Noticed s u p c (some n) k v) : Noticed s t p c (some n) k v :=
  h.afterRound (ht.link p) hc

theorem ResultStands.berth {m : Ix} {u t : State} (ht : ResultStands m u t) (n : Ix) : t.berth n = u.berth n := by
  unfold State.berth
  rw [ht.berths]

theorem ResultStands.isAdmitted {m : Ix} {u t : State} (ht : ResultStands m u t) (n : Ix) : t.isAdmitted n = u.isAdmitted n := by
  unfold State.isAdmitted State.grantBerth
  rw [ht.ge]

/-- A trip stands through what follows the result (R22). -/
theorem Tripped.afterResult {s u t : State} {m n : Ix} {why : TripCause} (ht : ResultStands m u t) (h : Tripped s n why u) :
    Tripped s n why t := by
  refine ⟨?_, ?_, ?_, ?_, ?_, ?_, ?_, fun p hp => (h.notices p hp).afterResult ht (by decide), fun hc =>
    (h.flags hc).after ht.flags ht.ended⟩
  case refine_5 => rw [ht.isAdmitted]; exact h.notAdmitted
  case refine_6 => rw [ht.ge]; exact h.active
  case refine_7 => rw [ht.ge]; exact h.staged
  all_goals rw [ht.berth]
  exacts [h.state, h.cause, h.breaker, h.permit]

theorem Consented.afterResult {s u t : State} {m n : Ix} {v : Verdict} {c : Code} {d : Nat} (ht : ResultStands m u t)
    (h : Consented s n v c d u) : Consented s n v c d t :=
  h.after ht.ended (by rw [ht.berth]; exact h.1)

theorem State.sameForTrip_passedRecord (n : Ix) (r : Nat) (s : State) : SameForTrip s (s.passedRecord n r) :=
  ⟨by simp, by simp, by simp, by simp, by simp, fun m => by simp [berth]⟩

theorem State.check_passedRecord (n : Ix) (r : Nat) (s : State) : (s.passedRecord n r).check n = { s.check n with
    status := .passed, before := none, age := 0, resistance := some r, lapseWarned := false } := by
  unfold check
  rw [cs_passedRecord]
  exact Six.get_set_same _ _ _

/-- A check that passes (R63, R150). -/
theorem checkTimer_passes {s : State} {c : InFlight} {reading r : Nat} (h : s.powered = true) (ht : TableInv s)
    (hc : s.cs.scanner = .running c) (hr : r = min reading 65000) (hq : c.berth ∉ s.cs.queue) (hp : s.passThreshold ≤ r) :
    ∃ t : State, exec (.checkTimerExpiry reading) s = .next t.settle ∧
      t.check c.berth = { s.check c.berth with
        status := .passed, before := none, age := 0, resistance := some r, lapseWarned := false } ∧
      c.berth ∉ t.cs.roundList ∧ (∀ n, t.berth n = s.berth n) ∧ SourceReached c.berth .checkPassed s t ∧
      Untouched [.power, .time, .waiting, .table, .inputs, .reference, .pool, .grid, .grants] s t := by
  have hw := State.checkWindow_range ht
  obtain ⟨x, hx⟩ : ∃ x, x = s.passedRecord c.berth r := ⟨_, rfl⟩
  obtain ⟨h1, h2, h3, h4, h5, h6, h7, h8, h9, h10, h11, h12⟩ := hx ▸ s.fields_passedRecord c.berth r
  obtain ⟨u, hu⟩ : ∃ u, u = x.postSource c.berth .checkPassed := ⟨_, rfl⟩
  obtain ⟨g1, g2, g3, g4, -, -, g7, g8, g9, g10, g11, g12, g13⟩ := hu ▸ x.fields_postSource c.berth .checkPassed
  have hrec : u.check c.berth = { s.check c.berth with
      status := .passed, before := none, age := 0, resistance := some r, lapseWarned := false } := by
    rw [State.check, g9, ← State.check, hx, State.check_passedRecord]
  have hwin : u.checkWindow = s.checkWindow := by unfold State.checkWindow State.param; rw [g3, h3]
  have hqu : c.berth ∉ u.cs.queue := by rw [g9, hx, State.cs_passedRecord]; exact hq
  have hno : u.roundRobin c.berth = false := State.roundRobin_young (by rw [hrec]) (by
    rw [hrec, hwin]
    show 0 < s.checkWindow / 2
    omega)
  have hstands := resultStands c.berth u
  refine ⟨_, event_next_eq h (State.completeCheck_passed hc hr hp), ?_⟩
  rw [← hx, ← hu]
  refine ⟨(hstands.record hqu hno).trans hrec, hstands.roundList, fun n => ?_, ?_, ?_⟩
  · rw [hstands.berth, State.berth, g7, h7, State.berth]
  · refine FlagsReached.after (t := u) ?_ hstands.flags hstands.ended
    rw [hu]
    exact (hx ▸ s.sameForTrip_passedRecord c.berth r).reached (State.postSource_reaches _ _ _)
  · simp only [untouched_cons, Part.same]
    exact ⟨hstands.powered.trans (g1.trans h1), hstands.now.trans (g2.trans h2), hstands.pending.trans (g13.trans h12),
      hstands.table.trans (g3.trans h3), hstands.inputs.trans (g4.trans h4), hstands.pru.trans (g8.trans h8),
      hstands.cp.trans (g10.trans h9), hstands.gi.trans (g11.trans h10), hstands.ge.trans (g12.trans h11), untouched_nil _ _⟩

/-- What every FAILED result leaves, whatever it does to its berth (R64): `u` is the state in which the berth has met it. -/
theorem checkTimer_fails {s u : State} {c : InFlight} {reading r : Nat} (h : s.powered = true) (hc : s.cs.scanner = .running c)
    (hr : r = min reading 65000) (hq : c.berth ∉ s.cs.queue) (hp : r < s.passThreshold)
    (hu : u = (s.failedRecord c.berth r).failedBerth c.berth)
    (hn : ∀ p, p = .t ∨ p = .v c.berth → Noticed s u p .check (some c.berth) 1 r) :
    ∃ t : State, exec (.checkTimerExpiry reading) s = .next t.settle ∧ ResultStands c.berth u t ∧
      t.check c.berth = { s.check c.berth with status := .failed, before := none, resistance := some r } ∧
      (∀ p, p = .t ∨ p = .v c.berth → Noticed s t p .check (some c.berth) 1 r) ∧
      Untouched [.power, .time, .waiting, .table, .inputs, .pool, .grid] s t := by
  have hrec := hu ▸ s.check_failedBerth c.berth r
  have hqu : c.berth ∉ u.cs.queue := by
    rw [hu, State.cs_failedBerth_quiet (s.failedRecord_quiet c.berth r), State.cs_failedRecord]
    exact hq
  have hstands := resultStands c.berth u
  obtain ⟨h1, h2, h3, h4, -, -, -, h8, h9, -, h11⟩ := s.fields_failedRecord c.berth r
  obtain ⟨g1, g2, g3, g4, g5, g6, g7⟩ := hu ▸ (s.failedRecord c.berth r).fields_failedBerth c.berth
  refine ⟨_, event_next_eq h (State.completeCheck_failed hc hr hp), ?_⟩
  rw [← hu]
  refine ⟨hstands, (hstands.record hqu (State.roundRobin_failed (by rw [hrec]))).trans hrec,
    fun p hpc => (hn p hpc).afterResult hstands (by decide), ?_⟩
  simp only [untouched_cons, Part.same]
  exact ⟨hstands.powered.trans (g1.trans h1), hstands.now.trans (g2.trans h2), hstands.pending.trans (g7.trans h11),
    hstands.table.trans (g3.trans h3), hstands.inputs.trans (g4.trans h4), hstands.cp.trans (g5.trans h8),
    hstands.gi.trans (g6.trans h9), untouched_nil _ _⟩

theorem State.berth_failedRecord (n m : Ix) (r : Nat) (s : State) : (s.failedRecord n r).berth m = s.berth m := by
  unfold berth
  rw [(s.fields_failedRecord n r).2.2.2.2.2.1]

/-- A check that fails at an open breaker (R64). -/
theorem checkTimer_failsOpened {s : State} {c : InFlight} {reading r : Nat} (h : s.powered = true)
    (hc : s.cs.scanner = .running c) (hr : r = min reading 65000) (hq : c.berth ∉ s.cs.queue) (hp : r < s.passThreshold)
    (hb : (s.berth c.berth).breaker = .opened) :
    ∃ t : State, exec (.checkTimerExpiry reading) s = .next t.settle ∧
      t.check c.berth = { s.check c.berth with status := .failed, before := none, resistance := some r } ∧
      c.berth ∉ t.cs.roundList ∧
      ((s.berth c.berth).state.isWaiting = true →
        (t.berth c.berth).state = .plugged ∧ Consented s c.berth .failed .checkFailed 0 t ∧ t.isAdmitted c.berth = false) ∧
      ((s.berth c.berth).state.isWaiting = false → t.berth c.berth = s.berth c.berth) ∧
      (∀ p, p = .t ∨ p = .v c.berth → Noticed s t p .check (some c.berth) 1 r) ∧
      Untouched [.power, .time, .waiting, .table, .inputs, .pool, .grid] s t := by
  obtain ⟨x, hx⟩ : ∃ x, x = s.failedRecord c.berth r := ⟨_, rfl⟩
  obtain ⟨-, hnow, -, -, hoe, -⟩ := hx ▸ s.fields_failedRecord c.berth r
  have hxb : x.berth c.berth = s.berth c.berth := hx ▸ s.berth_failedRecord c.berth c.berth r
  have hnotice : ∀ p, p = .t ∨ p = .v c.berth → Noticed s x p .check (some c.berth) 1 r := fun p hpc =>
    hx ▸ s.noticed_failedRecord r hpc
  cases hwait : (s.berth c.berth).state.isWaiting
  · have hu : x = (s.failedRecord c.berth r).failedBerth c.berth := by
      rw [← hx, State.failedBerth, hxb, if_pos hb, hwait, if_neg Bool.false_ne_true]
    obtain ⟨t, hexec, hstands, hrec, hnotices, hframe⟩ := checkTimer_fails h hc hr hq hp hu hnotice
    exact ⟨t, hexec, hrec, hstands.roundList, nofun, fun _ => (hstands.berth _).trans hxb, hnotices, hframe⟩
  · obtain ⟨u, hw⟩ : ∃ u, u = x.failWaiting c.berth .checkFailed .plugged := ⟨_, rfl⟩
    have hu : u = (s.failedRecord c.berth r).failedBerth c.berth := by
      rw [hw, ← hx, State.failedBerth, hxb, if_pos hb, if_pos hwait]
    obtain ⟨t, hexec, hstands, hrec, hnotices, hframe⟩ := checkTimer_fails h hc hr hq hp hu fun p hpc => by
      have := hnotice p hpc
      rw [hw]
      unfold Noticed State.port at this ⊢
      rwa [(x.fields_failWaiting c.berth .checkFailed .plugged).2.2.2.2.1]
    refine ⟨t, hexec, hrec, hstands.roundList, fun _ => ⟨?_, Consented.afterResult hstands ?_, ?_⟩, nofun, hnotices, hframe⟩
    · rw [hstands.berth, hw]
      simp [State.berth]
    · rw [hw]
      exact (x.consented_failWaiting c.berth .checkFailed .plugged).of_steps (by rw [hxb]) hnow
        (fun r _ => State.slot_of_ports (by rw [hoe]) r) (fun _ _ hs _ => hs) (by simp [State.berth])
    · rw [hstands.isAdmitted, hw]
      simp [State.isAdmitted, State.grantBerth]

/-- A check that fails at a breaker that is not open (R22, R64). -/
theorem checkTimer_failsTrips {s : State} {c : InFlight} {reading r : Nat} (h : s.powered = true)
    (hc : s.cs.scanner = .running c) (hr : r = min reading 65000) (hq : c.berth ∉ s.cs.queue) (hp : r < s.passThreshold)
    (hb : (s.berth c.berth).breaker ≠ .opened) (hst : (s.berth c.berth).state ≠ .tripped)
    (hop : (s.berth c.berth).state = .opening → (s.berth c.berth).purpose ≠ some .trip) :
    ∃ t : State, exec (.checkTimerExpiry reading) s = .next t.settle ∧
      t.check c.berth = { s.check c.berth with status := .failed, before := none, resistance := some r } ∧
      c.berth ∉ t.cs.roundList ∧ Tripped s c.berth .insulationLow t ∧ Consented s c.berth .failed .checkFailed 0 t ∧
      (∀ p, p = .t ∨ p = .v c.berth → Noticed s t p .check (some c.berth) 1 r) ∧
      Untouched [.power, .time, .waiting, .table, .inputs, .pool, .grid] s t := by
  obtain ⟨x, hx⟩ : ∃ x, x = s.failedRecord c.berth r := ⟨_, rfl⟩
  obtain ⟨-, hnow, htab, -, hoe, hbs, -, -, -, hge, -⟩ := hx ▸ s.fields_failedRecord c.berth r
  have hxb : ∀ m, x.berth m = s.berth m := fun m => hx ▸ s.berth_failedRecord c.berth m r
  obtain ⟨u, hw⟩ : ∃ u, u = x.tripTo c.berth .insulationLow 0 .tripped none := ⟨_, rfl⟩
  have hu : u = (s.failedRecord c.berth r).failedBerth c.berth := by
    rw [hw, ← hx, State.failedBerth, hxb, if_neg hb]
    exact (State.trip_eq x (by rw [← State.berth, hxb]; exact hst) (by rw [← State.berth, hxb]; exact hop)).symm
  have hslot : ∀ p cls, cls ≠ .trip → (u.port p).notices.get cls = (x.port p).notices.get cls := fun p cls hcls => by
    rw [hw, State.port, State.link_tripTo]
    exact State.notifyBoth_other_class hcls
  have hopen : ∀ p, (u.port p).isOpen = (x.port p).isOpen := fun p => by
    rw [hw]; exact (State.steady_tripTo c.berth .insulationLow 0 .tripped none x).isOpen p
  obtain ⟨t, hexec, hstands, hrec, hnotices, hframe⟩ := checkTimer_fails h hc hr hq hp hu fun p hpc ho => by
    rw [hslot p .check (by decide)]
    rw [hopen] at ho
    subst hx
    exact s.noticed_failedRecord r hpc ho
  have htrip : Tripped x c.berth .insulationLow u := hw ▸ tripped_tripTo (by rw [hxb]; exact hb)
  refine ⟨t, hexec, hrec, hstands.roundList, Tripped.afterResult hstands { htrip with notices := ?_, flags := ?_ },
    Consented.afterResult hstands ?_, hnotices, hframe⟩
  · intro p hpc ho
    have hn := htrip.notices p hpc ho
    have hrecorded : (x.port p).notices.get .trip = (s.port p).notices.get .trip := by
      rw [hx, State.port, State.failedRecord, State.notifyCheck]
      refine (State.notifyBoth_other_class (by decide)).trans ?_
      rw [State.port, State.link_modCheck, (s.fields_freeCompleted).2.2.2.2.1, State.port]
    rwa [hrecorded, hge] at hn
  · intro hcause
    refine sourceReached_of_waiters (by rw [hoe]) htab hnow (fun m k hk => by rw [← hxb]; exact hk)
      (fun _ _ _ _ => by unfold State.orders; rw [hoe]) (htrip.flags hcause)
  · rw [hw]
    exact (x.consented_tripTo c.berth .insulationLow 0 .tripped none).of_steps (by rw [hxb]) hnow
      (fun r _ => State.slot_of_ports (by rw [hoe]) r) (fun _ _ hs _ => hs) (State.consenting_tripTo _ _ _ _ _ _)

/-- A result at a scanner that its own completion leaves FAULTED (R68; log entry 43). -/
theorem resultFaulted {s u t : State} {n : Ix} {rec : CheckRec} (ht : ResultStands n u t)
    (hcs : u.cs = { s.cs with scanner := .faulted, records := s.cs.records.set n rec }) :
    t.cs.scanner = .faulted ∧ t.cs.pointer = s.cs.pointer ∧ t.cs.queue = s.cs.queue ∧ n ∉ t.cs.roundList ∧
      (∀ m, m ≠ n → t.check m = s.check m) ∧ t.check n = rec := by
  obtain ⟨h1, h2, h3, h4⟩ := ht.faulted (by rw [hcs])
  refine ⟨h1, by rw [h2, hcs], by rw [h3, hcs], ht.roundList, fun m hm => ?_, ?_⟩
  · rw [State.check, h4, hcs]
    exact Six.get_set_ne _ _ hm
  · rw [State.check, h4, hcs]
    exact Six.get_set_same _ _ _

/-- A completion at the instant of the fault's assertion (R68; log entry 43). -/
theorem checkTimer_meetsFault {s : State} {c : InFlight} (reading : Nat) (h : s.powered = true)
    (hc : s.cs.scanner = .running c) (hfault : s.pending.head? = some .instrumentFaultAsserted) :
    ∃ t : State, exec (.checkTimerExpiry reading) s = .next t.settle ∧ t.cs.scanner = .faulted ∧ t.cs.pointer = s.cs.pointer ∧
      t.cs.queue = s.cs.queue ∧ c.berth ∉ t.cs.roundList ∧ (∀ n, n ≠ c.berth → t.check n = s.check n) ∧
      t.check c.berth = { s.check c.berth with
        status := if s.passThreshold ≤ min reading 65000 then .passed else .failed
        before := none, resistance := some (min reading 65000)
        age := if s.passThreshold ≤ min reading 65000 then 0 else (s.check c.berth).age
        lapseWarned := if s.passThreshold ≤ min reading 65000 then false else (s.check c.berth).lapseWarned } ∧
      t.inputs = s.inputs ∧ t.pending = s.pending := by
  have hfollows : s.faultFollows = true := by simp [State.faultFollows, hfault]
  by_cases hp : s.passThreshold ≤ min reading 65000
  · obtain ⟨-, -, -, h4, -, -, -, -, -, -, -, h12⟩ := s.fields_passedRecord c.berth (min reading 65000)
    obtain ⟨-, -, -, g4, -, -, -, -, g9, -, -, -, g13⟩ :=
      (s.passedRecord c.berth (min reading 65000)).fields_postSource c.berth .checkPassed
    have hstands := resultStands c.berth ((s.passedRecord c.berth (min reading 65000)).postSource c.berth .checkPassed)
    obtain ⟨k1, k2, k3, k4, k5, k6⟩ := resultFaulted (s := s) hstands (by
      rw [g9, State.cs_passedRecord, hfollows]
      rfl)
    simp only [if_pos hp]
    exact ⟨_, event_next_eq h (State.completeCheck_passed hc rfl hp), k1, k2, k3, k4, k5, k6,
      hstands.inputs.trans (g4.trans h4), hstands.pending.trans (g13.trans h12)⟩
  · obtain ⟨-, -, -, h4, -, -, -, -, -, -, h11⟩ := s.fields_failedRecord c.berth (min reading 65000)
    obtain ⟨-, -, -, g4, -, -, g7⟩ := (s.failedRecord c.berth (min reading 65000)).fields_failedBerth c.berth
    have hstands := resultStands c.berth ((s.failedRecord c.berth (min reading 65000)).failedBerth c.berth)
    obtain ⟨k1, k2, k3, k4, k5, k6⟩ := resultFaulted (s := s) hstands (by
      rw [State.cs_failedBerth_quiet (s.failedRecord_quiet c.berth _), State.cs_failedRecord, hfollows]
      rfl)
    simp only [if_neg hp]
    exact ⟨_, event_next_eq h (State.completeCheck_failed hc rfl (Nat.lt_of_not_le hp)), k1, k2, k3, k4, k5, k6,
      hstands.inputs.trans (g4.trans h4), hstands.pending.trans (g7.trans h11)⟩

/-- Settles O54: the results of a check, the instrument's fault input, and the choice. -/
theorem checksComplete : Obligations.ChecksComplete := by
  refine ⟨fun s c reading r h ht hc hr hq => ⟨checkTimer_passes h ht hc hr hq, checkTimer_failsOpened h hc hr hq,
      checkTimer_failsTrips h hc hr hq⟩,
    fun s h => ⟨(faultAsserted_quiet h).1, (faultAsserted_quiet h).2, fun c reading => checkTimer_meetsFault reading h,
      fun c => faultAsserted_aborts h, faultCleared_answers h⟩,
    fun s hidle => ⟨fun n rest hq => ?_, State.chooseCheck_rests, fun before n behind hq hcircle hno hn => ?_,
      fun n => s.roundRobin_iff n, s.onlyTouches_chooseCheck⟩⟩
  · obtain ⟨hrest, c, hc⟩ := State.chooseCheck_takesHead hidle hq
    obtain ⟨hdead, hlive⟩ := hc.suits
    exact ⟨hrest, c, hc.scanner, hc.berth, hc.origin, hc.pointer, hdead, hlive, hc.status, hc.mode⟩
  · obtain ⟨hempty, c, hc⟩ := State.chooseCheck_searches hidle hq hcircle hno hn
    obtain ⟨hdead, hlive⟩ := hc.suits
    exact ⟨c, hc.scanner, hc.berth, hc.origin, hc.pointer, hempty, hdead, hlive, hc.status, hc.mode⟩

end Sys2Proof.Machine

namespace Sys2Proof.Machine

/-! ### PANEL_RESET at the orders and the notices (R154, R167, R180) -/

namespace State

/-- PANEL_RESET at the Link Unit: the notice flags clear and hold no content, the masks are kept (R180). -/
def noticesCleared (s : State) : State :=
  { s with link := s.link.map fun lp =>
      { lp with notices := lp.notices.mapAll fun _ x => { x with flag := false, latest := none } } }

/-- The chains of all ports end, those of port T first (R154, R167). -/
def portsEnded (code : Code) (s : State) : State :=
  (Port.t :: Ix.all.map Port.v).foldl (fun u p => u.endPort code p) s

/-- The sync flags clear, the part HELD, and no consenting order left (R31, R154). -/
def flagsCleared (s : State) : State :=
  (s.modOe fun oe => { oe with flags := .ofFn fun _ => ⟨.clear, .clear⟩, held := true }).forEach Ix.all fun n u =>
    u.modBerth n fun b => { b with consenting := none, returnForced := false }

/-- PANEL_RESET at the Order Engine and the Link Unit, its own order ended with a record (R154). -/
def ordersReset (r : OrderRef) (st : Status) (s : State) : State :=
  ((s.noticesCleared.endOrder r st).portsEnded .reset).flagsCleared

theorem takePanelReset_eq (r : OrderRef) (s : State) : (s.takePanelReset r).1 =
    (s.ordersReset r (doneWith s.otherChains (countSix fun n => (s.berth n).state.panelOpens))).panelBlocks := by
  unfold takePanelReset ordersReset portsEnded noticesCleared flagsCleared
  dsimp only

/-- A change of each berth record of a list changes berth records alone. -/
theorem forEach_modBerth (f : Ix → Berth → Berth) (l : List Ix) (s : State) :
    (s.forEach l fun n u => u.modBerth n (f n)) = { s with berths := (s.forEach l fun n u => u.modBerth n (f n)).berths } := by
  induction l generalizing s with
  | nil => rfl
  | cons n l ih =>
    show State.forEach l _ (s.modBerth n (f n)) = { s with berths := (State.forEach l _ (s.modBerth n (f n))).berths }
    rw [ih]
    rfl

theorem flagsCleared_eq (s : State) : s.flagsCleared = { s with
    oe := { s.oe with flags := .ofFn fun _ => ⟨.clear, .clear⟩, held := true }, berths := s.flagsCleared.berths } :=
  forEach_modBerth (fun _ b => { b with consenting := none, returnForced := false }) Ix.all _

theorem port_flagsCleared (p : Port) (s : State) : s.flagsCleared.port p = s.port p := by
  rw [flagsCleared_eq]
  rfl

theorem orders_flagsCleared (p : Port) (s : State) : s.flagsCleared.orders p = s.orders p := by
  rw [flagsCleared_eq]
  rfl

theorem flag_flagsCleared (n : Ix) (second : Bool) (s : State) :
    s.flagsCleared.flag n second = { isSet := false, waiters := [] } := by
  rw [flagsCleared_eq]
  cases n <;> cases second <;> rfl

end State

/-- A port that has been passed the completions of its chains, their unended orders CANCELLED (R144, R167). -/
def LinkPort.completed (code : Code) (l : List Chain) (lp : LinkPort) : LinkPort :=
  if lp.isOpen then
    { lp with transmit := lp.transmit ++ l.map fun c => .completion c.count ((c.cancelRest code).orders.map Slot.statusRecord) }
  else lp

theorem LinkPort.completed_cons (code : Code) (c : Chain) (l : List Chain) (lp : LinkPort) :
    (lp.completed code [c]).completed code l = lp.completed code (c :: l) := by
  unfold completed
  cases h : lp.isOpen <;> simp [h]

/-- Only the orders of ports and the Link Unit differ. -/
abbrev OnlyOrdersLink (s t : State) : Prop :=
  t.powered = s.powered ∧ t.now = s.now ∧ t.table = s.table ∧ t.inputs = s.inputs ∧ t.oe.flags = s.oe.flags ∧
    t.oe.held = s.oe.held ∧ t.berths = s.berths ∧ t.pru = s.pru ∧ t.cs = s.cs ∧ t.cp = s.cp ∧ t.gi = s.gi ∧ t.ge = s.ge ∧
    t.pending = s.pending

/-- The chains of port `p` have ended: its completions are sent, its queue is empty, and the rest stands. -/
structure PortEnded (code : Code) (p : Port) (s t : State) : Prop where
  link : t.link = s.link.set p ((s.port p).completed code (s.orders p).queue)
  ports : t.oe.ports = s.oe.ports.set p { s.orders p with queue := [], timer := none }
  others : OnlyOrdersLink s t

namespace State

theorem passCompletion_link (code : Code) (p : Port) (c : Chain) (s : State) :
    s.passCompletion p (c.cancelRest code) = { s with link := s.link.set p ((s.port p).completed code [c]) } := rfl

theorem passCompletions_link (code : Code) (p : Port) (l : List Chain) (s : State) :
    (s.forEach l fun c t => t.passCompletion p (c.cancelRest code)) =
      { s with link := s.link.set p ((s.port p).completed code l) } := by
  induction l generalizing s with
  | nil =>
    have : (s.port p).completed code [] = s.link.get p := by
      unfold LinkPort.completed port
      split <;> simp
    rw [this, PortMap.set_get]
    rfl
  | cons c l ih =>
    show State.forEach l _ (s.passCompletion p (c.cancelRest code)) = _
    rw [ih, passCompletion_link]
    simp only [port, PortMap.get_set_same, PortMap.set_set, LinkPort.completed_cons]

theorem portEnded_endPort (code : Code) (p : Port) (s : State) : PortEnded code p s (s.endPort code p) := by
  unfold endPort
  rw [passCompletions_link]
  exact ⟨rfl, rfl, by simp [OnlyOrdersLink]⟩

/-- What the end of the chains of a list of ports leaves everywhere. -/
theorem endPorts_others (code : Code) (l : List Port) (s : State) :
    OnlyOrdersLink s (l.foldl (fun u p => u.endPort code p) s) := by
  induction l generalizing s with
  | nil => simp [OnlyOrdersLink]
  | cons p l ih =>
    have hp := (s.portEnded_endPort code p).others
    have hl := ih (s.endPort code p)
    simp only [OnlyOrdersLink, hp] at hl
    exact hl

theorem endPorts_ne {code : Code} {p : Port} {l : List Port} (h : p ∉ l) (s : State) :
    (l.foldl (fun u p => u.endPort code p) s).port p = s.port p ∧
    (l.foldl (fun u p => u.endPort code p) s).orders p = s.orders p := by
  induction l generalizing s with
  | nil => exact ⟨rfl, rfl⟩
  | cons q l ih =>
    obtain ⟨hlink, hports, -⟩ := s.portEnded_endPort code q
    have hne : p ≠ q := fun e => h (by simp [e])
    obtain ⟨h1, h2⟩ := ih (fun hp => h (List.mem_cons_of_mem _ hp)) (s.endPort code q)
    refine ⟨h1.trans ?_, h2.trans ?_⟩
    · rw [port, hlink, PortMap.get_set_ne _ _ hne, port]
    · rw [orders, hports, PortMap.get_set_ne _ _ hne, orders]

theorem endPorts_mem {code : Code} {p : Port} {l : List Port} (hl : l.Nodup) (h : p ∈ l) (s : State) :
    (l.foldl (fun u p => u.endPort code p) s).port p = (s.port p).completed code (s.orders p).queue ∧
    (l.foldl (fun u p => u.endPort code p) s).orders p = { s.orders p with queue := [], timer := none } := by
  induction l generalizing s with
  | nil => exact absurd h List.not_mem_nil
  | cons q l ih =>
    obtain ⟨hq, hl'⟩ := List.nodup_cons.mp hl
    obtain ⟨hlink, hports, -⟩ := s.portEnded_endPort code q
    rw [List.foldl_cons]
    by_cases hne : p = q
    · subst hne
      obtain ⟨h1, h2⟩ := endPorts_ne (code := code) hq (s.endPort code p)
      refine ⟨h1.trans ?_, h2.trans ?_⟩
      · rw [port, hlink, PortMap.get_set_same]
      · rw [orders, hports, PortMap.get_set_same]
    · obtain ⟨h1, h2⟩ := ih hl' ((List.mem_cons.mp h).resolve_left hne) (s.endPort code q)
      have hport : (s.endPort code q).port p = s.port p := by rw [port, hlink, PortMap.get_set_ne _ _ hne, port]
      have hord : (s.endPort code q).orders p = s.orders p := by rw [orders, hports, PortMap.get_set_ne _ _ hne, orders]
      rw [hport, hord] at h1
      rw [hord] at h2
      exact ⟨h1, h2⟩

theorem portsEnded_at (code : Code) (p : Port) (s : State) :
    (s.portsEnded code).port p = (s.port p).completed code (s.orders p).queue ∧
    (s.portsEnded code).orders p = { s.orders p with queue := [], timer := none } :=
  endPorts_mem (by decide) (by
    cases p with
    | t => simp
    | v n => cases n <;> simp) s

theorem noticesCleared_port (p : Port) (s : State) : s.noticesCleared.port p = { s.port p with
    notices := (s.port p).notices.mapAll fun _ x => { x with flag := false, latest := none } } := by
  rw [port, noticesCleared, PortMap.get_map, port]

end State

theorem Notices.get_mapAll (f : NoticeClass → NoticeSlot → NoticeSlot) (n : Notices) (c : NoticeClass) :
    (n.mapAll f).get c = f c (n.get c) := by
  cases c <;> rfl

/-- What PANEL_RESET makes of the orders and the notices of a port, with its chains as `l` when they end (R154, R167, R180). -/
structure OrdersReset (l : List Chain) (p : Port) (s t : State) : Prop where
  queue : (t.orders p).queue = []
  timer : (t.orders p).timer = none
  rolling : (t.orders p).rolling = (s.orders p).rolling
  isOpen : (t.port p).isOpen = (s.port p).isOpen
  notice : ∀ c, (t.port p).notices.get c = { (s.port p).notices.get c with flag := false, latest := none }
  transmit : (s.port p).isOpen = true → (t.port p).transmit = (s.port p).transmit ++
    l.map fun c => .completion c.count ((c.cancelRest .reset).orders.map Slot.statusRecord)

/-- What PANEL_RESET at the orders does besides (R31, R154). -/
structure OrdersResetAll (s t : State) : Prop where
  powered : t.powered = s.powered
  now : t.now = s.now
  table : t.table = s.table
  inputs : t.inputs = s.inputs
  pru : t.pru = s.pru
  cs : t.cs = s.cs
  cp : t.cp = s.cp
  gi : t.gi = s.gi
  ge : t.ge = s.ge
  pending : t.pending = s.pending
  held : t.oe.held = true
  flags : ∀ n second, t.flag n second = { isSet := false, waiters := [] }
  berth : ∀ n, t.berth n = { s.berth n with consenting := none, returnForced := false }

namespace State

theorem ordersReset_all (r : OrderRef) (st : Status) (s : State) : OrdersResetAll s (s.ordersReset r st) := by
  unfold ordersReset
  obtain ⟨e, he⟩ : ∃ e, e = s.noticesCleared.endOrder r st := ⟨_, rfl⟩
  rw [← he]
  obtain ⟨h1, h2, h3, h4, -, -, h7, h8, h9, h10, h11, h12, h13⟩ := e.endPorts_others .reset (Port.t :: Ix.all.map Port.v)
  obtain ⟨u, hu⟩ : ∃ u, u = e.portsEnded .reset := ⟨_, rfl⟩
  rw [portsEnded] at hu
  rw [← hu] at h1 h2 h3 h4 h7 h8 h9 h10 h11 h12 h13
  rw [portsEnded, ← hu]
  refine ⟨?_, ?_, ?_, ?_, ?_, ?_, ?_, ?_, ?_, ?_, ?_, u.flag_flagsCleared, fun n => ?_⟩
  case refine_12 =>
    have hb : u.berth n = s.berth n := by rw [berth, h7, he]; rfl
    rw [← hb]
    exact berth_panelOrders n _
  all_goals rw [flagsCleared_eq]
  · exact h1.trans (by rw [he]; rfl)
  · exact h2.trans (by rw [he]; rfl)
  · exact h3.trans (by rw [he]; rfl)
  · exact h4.trans (by rw [he]; rfl)
  · exact h8.trans (by rw [he]; rfl)
  · exact h9.trans (by rw [he]; rfl)
  · exact h10.trans (by rw [he]; rfl)
  · exact h11.trans (by rw [he]; rfl)
  · exact h12.trans (by rw [he]; rfl)
  · exact h13.trans (by rw [he]; rfl)

theorem ordersReset_at (r : OrderRef) (st : Status) (p : Port) (s : State) :
    OrdersReset ((s.endOrder r st).orders p).queue p s (s.ordersReset r st) := by
  obtain ⟨e, he⟩ : ∃ e, e = s.noticesCleared.endOrder r st := ⟨_, rfl⟩
  obtain ⟨hport, horders⟩ := e.portsEnded_at .reset p
  have hgp : (s.ordersReset r st).port p = (e.portsEnded .reset).port p := by rw [he]; exact port_flagsCleared p _
  have hgo : (s.ordersReset r st).orders p = (e.portsEnded .reset).orders p := by rw [he]; exact orders_flagsCleared p _
  have hep : e.port p = { s.port p with
      notices := (s.port p).notices.mapAll fun _ x => { x with flag := false, latest := none } } := by
    rw [he]
    exact s.noticesCleared_port p
  have heo : e.orders p = (s.endOrder r st).orders p := by rw [he]; rfl
  have hroll : ((s.endOrder r st).orders p).rolling = (s.orders p).rolling := by
    unfold orders
    simp only [endOrder, oe_modOrders, PortMap.get_set]
    split
    · subst p; rfl
    · rfl
  rw [hep, heo] at hport
  rw [heo] at horders
  refine ⟨by rw [hgo, horders], by rw [hgo, horders], by rw [hgo, horders]; exact hroll, ?_, fun c => ?_, fun hopen => ?_⟩
  · rw [hgp, hport, LinkPort.completed]
    split <;> rfl
  · rw [hgp, hport, LinkPort.completed]
    split <;> exact Notices.get_mapAll _ _ c
  · rw [hgp, hport, LinkPort.completed, if_pos hopen]

end State

end Sys2Proof.Machine

namespace Sys2Proof.Machine

/-! ### PANEL_RESET at the other blocks (R31, R54, R70, R121) -/

/-- The reference as PANEL_RESET leaves it from `s` on: FREE at 60.000 Hz with its phase, no claim, no window (R54). -/
structure ReferenceRests (s t : State) : Prop where
  mode : t.pru.mode = .free
  frequency : t.pru.frequency = 60000
  phase : t.pru.phase = s.pru.phase
  holder : t.pru.holder = none
  waiting : t.pru.waiting = []
  window : ∀ n, (t.ship n).window = .inactive
  side : ∀ n, (t.ship n).side = (s.ship n).side

theorem ReferenceRests.of_pru {s t u : State} (h : ReferenceRests s t) (hp : u.pru = t.pru) : ReferenceRests s u := by
  obtain ⟨h1, h2, h3, h4, h5, h6, h7⟩ := h
  unfold State.ship at h6 h7
  exact ⟨by rwa [hp], by rwa [hp], by rwa [hp], by rwa [hp], by rwa [hp], by unfold State.ship; rwa [hp], by
    unfold State.ship; rwa [hp]⟩

theorem ReferenceRests.of_start {x s t : State} (h : ReferenceRests x t) (hp : x.pru = s.pru) : ReferenceRests s t := by
  obtain ⟨h1, h2, h3, h4, h5, h6, h7⟩ := h
  unfold State.ship at h7
  exact ⟨h1, h2, h3.trans (by rw [hp]), h4, h5, h6, by unfold State.ship; rwa [← hp]⟩

/-- The scanner as PANEL_RESET leaves it: no request, and no check in flight while the instrument's fault is asserted (R68, R70). -/
structure ScannerRests (s : State) : Prop where
  queue : s.cs.queue = []
  faulted : s.inputs.instrumentFault = true → ∀ c, s.cs.scanner ≠ .running c

theorem ScannerRests.of_cs {s t : State} (h : ScannerRests s) (hc : t.cs = s.cs) (hi : t.inputs = s.inputs) : ScannerRests t :=
  ⟨by rw [hc]; exact h.queue, by rw [hc, hi]; exact h.faulted⟩

/-- Frames of a transmit queue other than notices. -/
def answersOf (l : List TxFrame) : List TxFrame := l.filter fun f => f.kind != 133

/-- What GRANT notices leave of a port: nothing is different at port T. -/
structure GrantsNoticed (s t : State) (p : Port) : Prop where
  atT : p = .t → t.port p = s.port p
  isOpen : (t.port p).isOpen = (s.port p).isOpen
  masked : ∀ c, ((t.port p).notices.get c).masked = ((s.port p).notices.get c).masked
  others : ∀ c, c ≠ .grant → (t.port p).notices.get c = (s.port p).notices.get c
  answers : answersOf (t.port p).transmit = answersOf (s.port p).transmit

theorem GrantsNoticed.of_link {s t : State} (h : t.link = s.link) (p : Port) : GrantsNoticed s t p := by
  have hp : t.port p = s.port p := by rw [State.port, h, State.port]
  exact ⟨fun _ => hp, by rw [hp], fun _ => by rw [hp], fun _ _ => by rw [hp], by rw [hp]⟩

theorem GrantsNoticed.trans {s t u : State} {p : Port} (h : GrantsNoticed s t p) (h' : GrantsNoticed t u p) :
    GrantsNoticed s u p :=
  ⟨fun hp => (h'.atT hp).trans (h.atT hp), h'.isOpen.trans h.isOpen, fun c => (h'.masked c).trans (h.masked c),
    fun c hc => (h'.others c hc).trans (h.others c hc), h'.answers.trans h.answers⟩

theorem TxFrame.kind_of_sameNotice {cls : NoticeClass} {code : Option Nat} {f : TxFrame} (h : f.sameNotice cls code = true) :
    f.kind = 133 := by
  cases f with
  | notice => rfl
  | _ => cases h

/-- A notice that joins a queue, or takes the place of an older one, leaves the other frames (R176). -/
theorem answersOf_withNotice (cls : NoticeClass) (x : Notice) (l : List TxFrame) : answersOf (withNotice cls x l) = answersOf l := by
  have hnew : ((TxFrame.notice cls x).kind != 133) = false := rfl
  have replaced : ∀ rest : List TxFrame,
      answersOf (rest.map fun f => if f.sameNotice cls x.code then .notice cls x else f) = answersOf rest := fun rest => by
    induction rest with
    | nil => rfl
    | cons f rest ih =>
      unfold answersOf at ih ⊢
      rw [List.map_cons, List.filter_cons, List.filter_cons, ih]
      by_cases hf : f.sameNotice cls x.code = true
      · rw [if_pos hf, hnew, TxFrame.kind_of_sameNotice hf]
        rfl
      · rw [if_neg hf]
  unfold withNotice
  cases l with
  | nil => rfl
  | cons head rest =>
    simp only
    split
    · have := replaced rest
      unfold answersOf at this ⊢
      rw [List.filter_cons, List.filter_cons, this]
    · unfold answersOf
      rw [List.filter_cons, List.filter_cons, List.filter_append, List.filter_cons, hnew]
      simp

theorem grantsNoticed_notifyGrant (n : Ix) (c v k : Nat) (p : Port) (s : State) :
    GrantsNoticed s (s.notifyGrant n c v k) p := by
  by_cases hp : p = .v n
  · subst hp
    have hport : (s.notifyGrant n c v k).port (.v n) = if (s.port (.v n)).isOpen then
        (s.port (.v n)).posted .grant ⟨some n, some c, v, k⟩ else s.port (.v n) := by
      rw [State.port, State.notifyGrant, State.post, State.link_modPort, PortMap.get_set_same]
      rfl
    cases hopen : (s.port (.v n)).isOpen
    · rw [hopen, if_neg Bool.false_ne_true] at hport
      exact ⟨nofun, by rw [hport], fun _ => by rw [hport], fun _ _ => by rw [hport], by rw [hport]⟩
    · rw [hopen, if_pos rfl] at hport
      refine ⟨nofun, by rw [hport]; rfl, fun c => ?_, fun c hc => ?_, ?_⟩ <;> rw [hport, LinkPort.posted]
      · by_cases hc : c = .grant
        · subst hc; rfl
        · rw [Notices.get_set_ne _ _ hc]
      · exact Notices.get_set_ne _ _ hc
      · simp only
        split
        · rfl
        · exact answersOf_withNotice _ _ _
  · have hport : (s.notifyGrant n c v k).port p = s.port p := State.link_post_ne s .grant _ hp
    exact ⟨fun _ => hport, by rw [hport], fun _ => by rw [hport], fun _ _ => by rw [hport], by rw [hport]⟩

theorem grantsNoticed_trimBoth (p : Port) (s : State) : GrantsNoticed s s.trimBoth p := by
  have active : ∀ (f : GrantSet → GrantSet) (u : State), GrantsNoticed u (u.cutActive f) p := fun f u => by
    unfold State.cutActive
    exact keep_forEach (P := fun t => GrantsNoticed u t p) (fun n t ht => by
      split
      · exact ht.trans (grantsNoticed_notifyGrant _ _ _ _ p t)
      · exact ht) Ix.all (.of_link (State.link_modGe u _) p)
  have staged : ∀ (f : GrantSet → GrantSet) (u : State), GrantsNoticed u (u.cutStaged f) p := fun f u => by
    unfold State.cutStaged
    exact keep_forEach (P := fun t => GrantsNoticed u t p) (fun n t ht => by
      split
      · exact ht.trans (grantsNoticed_notifyGrant _ _ _ _ p t)
      · exact ht) Ix.all (.of_link (State.link_modGe u _) p)
  exact (active _ s).trans (staged _ _)

/-- What PANEL_RESET at a berth leaves of the rest of the part (R31). -/
structure PanelStep (s t : State) : Prop where
  powered : t.powered = s.powered
  now : t.now = s.now
  table : t.table = s.table
  inputs : t.inputs = s.inputs
  oe : t.oe = s.oe
  cp : t.cp = s.cp
  gi : t.gi = s.gi
  pending : t.pending = s.pending
  consenting : ∀ n, (t.berth n).consenting = (s.berth n).consenting
  grants : s.ge.queue = [] → t.ge.queue = []
  scanner : ScannerRests s → ScannerRests t
  reference : ∀ x, ReferenceRests x s → ReferenceRests x t
  link : ∀ p, GrantsNoticed s t p

theorem PanelStep.refl (s : State) : PanelStep s s :=
  ⟨rfl, rfl, rfl, rfl, rfl, rfl, rfl, rfl, fun _ => rfl, id, id, fun _ => id, .of_link rfl⟩

theorem PanelStep.trans {s t u : State} (h : PanelStep s t) (h' : PanelStep t u) : PanelStep s u :=
  ⟨h'.powered.trans h.powered, h'.now.trans h.now, h'.table.trans h.table, h'.inputs.trans h.inputs, h'.oe.trans h.oe,
    h'.cp.trans h.cp, h'.gi.trans h.gi, h'.pending.trans h.pending, fun n => (h'.consenting n).trans (h.consenting n),
    fun hq => h'.grants (h.grants hq), fun hs => h'.scanner (h.scanner hs), fun x hx => h'.reference x (h.reference x hx),
    fun p => (h.link p).trans (h'.link p)⟩

namespace State

/-- A berth that leaves SYNCING with no claim about (R42, R48). -/
theorem referenceRests_leaveSyncing {x s : State} (n : Ix) (h : ReferenceRests x s) : ReferenceRests x (s.leaveSyncing n false) := by
  have hno : s.holdsClaim n = false := by simp [holdsClaim, h.holder]
  have heq : s.leaveSyncing n false = (s.leaveClaims n).setWindow n .inactive none := by simp [leaveSyncing, hno]
  obtain ⟨h1, h2, h3, h4, h5, h6, h7⟩ := h
  rw [heq]
  refine ⟨h1, h2, h3, h4, ?_, fun m => ?_, fun m => ?_⟩
  · show s.pru.waiting.filter _ = []
    rw [h5]
    rfl
  · rw [ship_setWindow]
    split
    · rfl
    · exact h6 m
  · rw [side_setWindow]
    exact h7 m

/-- Bus B may come into use or leave it, with no claim about and the mode FREE (R37, R41). -/
theorem referenceRests_followBusB {x s : State} (h : ReferenceRests x s) : ReferenceRests x s.followBusB := by
  obtain ⟨u, hu⟩ : ∃ u, u = s.modPru fun u => { u with busBInUse := s.busBUsed } := ⟨_, rfl⟩
  have hx : ReferenceRests x u := by
    obtain ⟨h1, h2, h3, h4, h5, h6, h7⟩ := h
    rw [hu]
    exact ⟨h1, h2, h3, h4, h5, h6, h7⟩
  have hrevoke : u.revokeClaim = u := by simp [revokeClaim, hx.holder]
  have hgrant : u.grantHead = u := by simp [grantHead, hx.waiting]
  have hmode : ¬ s.pru.mode = .ret := by rw [h.mode]; nofun
  unfold followBusB
  simp only [← hu, if_neg hmode]
  split
  · rw [hrevoke]; exact hx
  · rw [hgrant]; exact hx
  · exact hx

/-- A breaker that moves on brings no request back where no check is in flight under a fault (R65). -/
theorem scannerRests_abortDead {s : State} (n : Ix) (h : ScannerRests s) : ScannerRests (s.abortDead n) := by
  by_cases hdead : ∃ c, s.cs.scanner = .running c ∧ c.berth = n ∧ c.mode = .dead
  · obtain ⟨c, hc, hn, hm⟩ := hdead
    have hfault : s.inputs.instrumentFault = false := by
      cases hf : s.inputs.instrumentFault
      · rfl
      · exact absurd hc (h.faulted hf c)
    obtain ⟨hscan, hqueue, -⟩ := s.fields_abortedDead n
    rw [hfault, if_neg Bool.false_ne_true] at hscan
    rw [h.queue] at hqueue
    refine ⟨?_, fun hf => ?_⟩
    · rw [abortDead_running hc hn hm, (chooseCheck_takesHead hscan hqueue).1]
      rfl
    · rw [(fields_abortDead s n).2.2.2.1, hfault] at hf
      cases hf
  · rw [abortDead_quiet fun c hc => ?_]
    · exact h
    · by_contra hno
      exact hdead ⟨c, hc, by tauto, by tauto⟩

/-- An open command at rest (R3, R31). -/
theorem rests_commandOpen (n : Ix) (s : State) : (ScannerRests s → ScannerRests (s.commandOpen n)) ∧
    (∀ x, ReferenceRests x s → ReferenceRests x (s.commandOpen n)) := by
  have motion : ∀ f, (ScannerRests s → ScannerRests ((s.modBerth n f).leaveOpen n .openSent)) ∧
      (∀ x, ReferenceRests x s → ReferenceRests x ((s.modBerth n f).leaveOpen n .openSent)) := fun f => by
    obtain ⟨u, hu⟩ : ∃ u, u = (s.modBerth n f).modBerth n fun b => { b with breaker := .openSent, permitDeadTime := none } := ⟨_, rfl⟩
    have heq : (s.modBerth n f).leaveOpen n .openSent = (u.abortDead n).followBusB := by rw [hu]; rfl
    rw [heq]
    refine ⟨fun h => ?_, fun x h => ?_⟩
    · exact (scannerRests_abortDead n (h.of_cs (t := u) (by rw [hu]; rfl) (by rw [hu]; rfl))).of_cs (by simp) (by simp)
    · exact referenceRests_followBusB (h.of_pru (u := u.abortDead n) (by simp [hu]))
  unfold commandOpen
  split
  · exact ⟨id, fun _ => id⟩
  · split
    · exact ⟨id, fun _ => id⟩
    · exact motion _
  · exact motion _
  · exact motion _

end State

end Sys2Proof.Machine

namespace Sys2Proof.Machine

namespace State

theorem panelStep_abandon (n : Ix) (d : BerthState) (s : State) : PanelStep s (s.abandon n d) := by
  obtain ⟨h1, h2, h3, h4, h5, h6, h7, h8, h9, h10, h11, h12⟩ := s.fields_abandon n d
  refine ⟨h1, h2, h3, h4, h6, h9, h10, h12, fun m => ?_, fun hq => by simp [hq], fun h => h.of_cs h8 h4, fun x h => ?_,
    .of_link h5⟩
  · rw [berth, h7, Six.get_set]
    split
    · subst m; rfl
    · rfl
  · exact (referenceRests_leaveSyncing n (h.of_pru (u := s.modBerth n fun b => { b.stopTimers with state := d }) rfl)).of_pru
      (by simp [abandon])

theorem panelStep_modBerth {n : Ix} {f : Berth → Berth} (hf : ∀ b, (f b).consenting = b.consenting) (s : State) :
    PanelStep s (s.modBerth n f) := by
  refine ⟨rfl, rfl, rfl, rfl, rfl, rfl, rfl, rfl, fun m => ?_, id, fun h => h.of_cs rfl rfl, fun _ h => h.of_pru rfl, .of_link rfl⟩
  rw [berth, berths_modBerth, Six.get_set]
  split
  · subst m; exact hf _
  · rfl

theorem panelStep_enterOpening (n : Ix) (p : Purpose) (s : State) : PanelStep s (s.enterOpening n p) := by
  obtain ⟨h1, h2, h3, h4, h5, h6, h7, h8, h9, h10⟩ := s.fields_enterOpening n p
  obtain ⟨u, hu⟩ : ∃ u, u = s.modBerth n fun b =>
      { b.stopTimers with state := .opening, purpose := some p, approach := none, adoptOnClose := false, returnForced := false
                          openPower := 0 } := ⟨_, rfl⟩
  have heq : s.enterOpening n p = (u.openCommand n).departLive n := by rw [hu]; rfl
  have hcs : (s.enterOpening n p).cs = (u.commandOpen n).cs := by rw [heq]; simp [openCommand, withdrawPermit]
  have hpru : (s.enterOpening n p).pru = (u.commandOpen n).pru := by rw [heq]; simp [openCommand, withdrawPermit]
  have hin : (s.enterOpening n p).inputs = (u.commandOpen n).inputs := by rw [heq]; simp [openCommand, withdrawPermit]
  obtain ⟨hscan, href⟩ := u.rests_commandOpen n
  refine ⟨h1, h2, h3, h4, h6, h7, h8, h10, fun m => ?_, fun hq => by simp [hq],
    fun h => (hscan (h.of_cs (by rw [hu]; rfl) (by rw [hu]; rfl))).of_cs hcs hin,
    fun x h => (href x (h.of_pru (by rw [hu]; rfl))).of_pru hpru, .of_link h5⟩
  by_cases hm : m = n
  · subst hm
    obtain ⟨br, limit, hb⟩ := s.record_enterOpening m p
    rw [hb]
    rfl
  · rw [s.berth_enterOpening_ne p hm]

theorem panelStep_enterAdopted (n : Ix) (s : State) : PanelStep s (s.enterAdopted n) := by
  obtain ⟨u, hu⟩ : ∃ u, u = s.modBerth n fun b =>
      { b with state := .adopted, declarationAwaited := true, authorizationAwaited := true, adoptOnClose := false } := ⟨_, rfl⟩
  have heq : s.enterAdopted n = u.adoptGrants n := by rw [hu]; rfl
  have hstep : PanelStep s u := by
    rw [hu]
    refine panelStep_modBerth ?_ s
    exact fun _ => rfl
  rw [heq]
  refine hstep.trans ?_
  obtain ⟨h1, h2, h3, h4, h5, h6, h7, h8, h9, h10, h11⟩ := u.fields_adoptGrants n
  refine ⟨h1, h2, h3, h4, h5, h9, h10, h11, fun m => by rw [berth, h6, berth], fun hq => ?_, fun h => h.of_cs h8 h4,
    fun _ h => h.of_pru h7, fun p => ?_⟩
  · unfold adoptGrants
    rw [ge_trimBoth]
    simp [putBoth, hq]
  · exact (GrantsNoticed.of_link (by simp) p).trans (grantsNoticed_trimBoth p _)

/-- PANEL_RESET at one berth, in each of its states (R31). -/
theorem panelStep_panelBerth (n : Ix) (s : State) : PanelStep s (s.panelBerth n) := by
  unfold panelBerth
  cases (s.berth n).state
  case admitting | syncing | deadWait => exact panelStep_abandon n _ s
  case closing =>
    refine panelStep_modBerth ?_ s
    exact fun _ => rfl
  case parallel | returnWait | returnParallel => exact panelStep_enterOpening n _ s
  case onShore | adopted => exact panelStep_enterAdopted n s
  case opening | tripped | lockedOut | vacant | plugged => exact .refl s

/-- No berth is to be adopted. -/
def NoneAdopted (s : State) : Prop := ∀ n, (s.berth n).state ∉ [.onShore, .adopted]

theorem noneAdopted_panelBerth {s : State} (n : Ix) (h : NoneAdopted s) : NoneAdopted (s.panelBerth n) := by
  intro m
  by_cases hm : m = n
  · subst hm
    have hrec := s.panelBerth_record m
    have hno := h m
    cases hs : (s.berth m).state
    case admitting | syncing | deadWait => rw [hrec.waiting (by rw [hs]; rfl)]; decide
    case closing => rw [(hrec.closing hs).1]; decide
    case parallel | returnWait | returnParallel => rw [(hrec.opens (by simp [hs])).1]; decide
    case onShore | adopted => simp [hs] at hno
    case opening | tripped | lockedOut | vacant | plugged =>
      rw [hrec.kept (by simp [hs]), hs]
      decide
  · rw [(s.panelBerth_others hm).1]
    exact h m

/-- Without an adoption PANEL_RESET at a berth gives no notice. -/
theorem link_panelBerth {s : State} (n : Ix) (h : NoneAdopted s) : (s.panelBerth n).link = s.link := by
  have hno := h n
  unfold panelBerth
  cases hs : (s.berth n).state
  case onShore | adopted => simp [hs] at hno
  all_goals simp

theorem referenceRests_resetReference (s : State) : ReferenceRests s s.resetReference := by
  refine ⟨rfl, rfl, rfl, rfl, rfl, fun n => ?_, fun n => ?_⟩ <;> cases n <;> rfl

/-- PANEL_RESET at the scanner (R70). -/
theorem scannerRests_resetScanner (s : State) : ScannerRests s.resetScanner := by
  unfold resetScanner
  simp only
  split
  · rename_i c hc
    obtain ⟨u, hu⟩ : ∃ u, u = ((s.modCs fun u => { u with queue := [] }).abortRecord c.berth).freeInstrument := ⟨_, rfl⟩
    have hq : u.cs.queue = [] := by rw [hu]; rfl
    rw [← hu]
    refine ⟨List.eq_nil_iff_forall_not_mem.mpr fun n hn => ?_, fun hf => ?_⟩
    · have := mem_queue_chooseCheck hn
      rw [hq] at this
      exact List.not_mem_nil this
    · have hin : s.inputs.instrumentFault = true := by
        rw [(fields_chooseCheck u).2.2.2.1, hu] at hf
        simpa using hf
      have hscan : u.cs.scanner = .faulted := by rw [hu]; simp [freeInstrument, hin]
      rw [chooseCheck_faulted hscan, hscan]
      nofun
  · rename_i hidle
    refine ⟨rfl, fun _ c hc => ?_⟩
    rw [cs_modCs, hidle] at hc
    cases hc
  · rename_i hfaulted
    refine ⟨rfl, fun _ c hc => ?_⟩
    rw [cs_modCs, hfaulted] at hc
    cases hc

end State

/-- What PANEL_RESET at the blocks leaves behind (R31, R54, R70, R87, R121). -/
structure BlocksReset (s t : State) : Prop where
  powered : t.powered = s.powered
  now : t.now = s.now
  table : t.table = s.table
  inputs : t.inputs = s.inputs
  oe : t.oe = s.oe
  cp : t.cp = { s.cp with stopCount := 0 }
  gi : t.gi = s.gi
  pending : t.pending = s.pending
  consenting : ∀ n, (t.berth n).consenting = (s.berth n).consenting
  grants : t.ge.queue = []
  scanner : t.cs.queue = []
  reference : ReferenceRests s t
  link : ∀ p, GrantsNoticed s t p
  quiet : State.NoneAdopted s → t.link = s.link

/-- The blocks at PANEL_RESET: what comes before the berths, and then the berths in turn. -/
theorem blocksReset_panelBlocks (s : State) : BlocksReset s s.panelBlocks := by
  obtain ⟨x, hx⟩ : ∃ x, x = (s.modGe fun g => { g with queue := [] }).modCp fun u => { u with stopCount := 0 } := ⟨_, rfl⟩
  obtain ⟨v, hv⟩ : ∃ v, v = x.resetReference.resetScanner := ⟨_, rfl⟩
  have heq : s.panelBlocks = v.forEach Ix.all State.panelBerth := by rw [hv, hx]; rfl
  obtain ⟨h1, h2, h3, h4, h5, h6, h7, h8, h9, h10, h11, h12⟩ := hv ▸ x.resetReference.fields_resetScanner
  have hb : v.berths = s.berths := h7.trans (by rw [hx]; rfl)
  have href : ReferenceRests s v := (x.referenceRests_resetReference.of_pru h8).of_start (by rw [hx]; rfl)
  have hscan : ScannerRests v := hv ▸ State.scannerRests_resetScanner _
  have hstep : PanelStep v (v.forEach Ix.all State.panelBerth) :=
    keep_forEach (P := PanelStep v) (fun n t ht => ht.trans (t.panelStep_panelBerth n)) Ix.all (.refl v)
  have hlink : v.link = s.link := h5.trans (by rw [hx]; rfl)
  rw [heq]
  refine ⟨hstep.powered.trans (h1.trans ?_), hstep.now.trans (h2.trans ?_), hstep.table.trans (h3.trans ?_),
    hstep.inputs.trans (h4.trans ?_), hstep.oe.trans (h6.trans ?_), hstep.cp.trans (h9.trans ?_), hstep.gi.trans (h10.trans ?_),
    hstep.pending.trans (h12.trans ?_), fun n => (hstep.consenting n).trans ?_, hstep.grants (by rw [h11, hx]; rfl),
    (hstep.scanner hscan).queue, hstep.reference s href, fun p => (GrantsNoticed.of_link hlink p).trans (hstep.link p), fun hno => ?_⟩
  case refine_9 => rw [State.berth, hb, State.berth]
  case refine_10 =>
    have hnone : State.NoneAdopted v := fun n => by rw [State.berth, hb]; exact hno n
    have := keep_forEach (f := State.panelBerth) (P := fun t => t.link = v.link ∧ State.NoneAdopted t) (fun n t ht =>
      ⟨(State.link_panelBerth n ht.2).trans ht.1, State.noneAdopted_panelBerth n ht.2⟩) Ix.all ⟨rfl, hnone⟩
    exact this.1.trans hlink
  all_goals rw [hx]; rfl

/-! ### PANEL_RESET (R154, R167) -/

/-- The queue of a ready port when the order that it has just taken ends. -/
theorem queue_endOrder_withRunning {s : State} {p : Port} {o : OrderRec} (st : Status) :
    ((((s.withRunning p o).endOrder (s.nextRef p) st)).orders p).queue =
      [⟨(s.orders p).accepted, (s.orders p).rolling, [⟨o, .ended st⟩]⟩] := by
  have hend : Chain.endOrder 1 st ⟨(s.orders p).accepted, (s.orders p).rolling, [⟨o, .running s.now⟩]⟩ =
      ⟨(s.orders p).accepted, (s.orders p).rolling, [⟨o, .ended st⟩]⟩ := by
    cases h2 : o.stop <;> cases h3 : st.verdict.stops <;>
      simp [Chain.endOrder, Chain.slot?, Slot.isEnded, Chain.modSlot, Slot.close, Chain.stopOnError, h2, h3]
  rw [← hend]
  simp [State.endOrder, State.nextRef, State.orders, runningOrders, modChain]

theorem orders_endOrder_ne {s : State} {r : OrderRef} {p : Port} (st : Status) (h : p ≠ r.port) :
    (s.endOrder r st).orders p = s.orders p := by
  simp [State.orders, State.endOrder, h]

/-- PANEL_RESET counts the chains that it ends besides its own (R167). -/
theorem otherChains_withRunning {s : State} {o : OrderRec} (h : PortReady s .t) : (s.withRunning .t o).otherChains =
    (Port.all.map fun p => (s.orders p).queue.length).sum := by
  have hidle : (s.oe.ports.get .t).queue = [] := h.idle
  simp [State.otherChains, State.orders, runningOrders, hidle]
  omega

/-- PANEL_RESET counts the berths that it opens (R31, R167). -/
theorem panelOpens_iff (b : BerthState) : b.panelOpens = decide (b ∈ [.parallel, .returnWait, .returnParallel]) := by
  cases b <;> rfl

/-- PANEL_RESET at its take: `g` has the orders and notices reset, and `t` the blocks too. -/
theorem panelReset_taken {s : State} {stop : Bool} (h : PortReady s .t) : ∃ w g t : State, ∃ st : Status,
    w = s.withRunning .t ⟨.panelReset, stop, 0⟩ ∧
    st = doneWith ((Port.all.map fun p => (s.orders p).queue.length).sum)
      (countSix fun n => decide ((s.berth n).state ∈ [.parallel, .returnWait, .returnParallel])) ∧
    g = w.ordersReset (s.nextRef .t) st ∧ BlocksReset g t ∧ exec (.panelReset .t stop) s = .next t.settle := by
  obtain ⟨w, hw⟩ : ∃ w, w = s.withRunning .t ⟨.panelReset, stop, 0⟩ := ⟨_, rfl⟩
  have hopens : (fun n => (w.berth n).state.panelOpens) =
      fun n => decide ((s.berth n).state ∈ [.parallel, .returnWait, .returnParallel]) := by
    funext n
    rw [hw, State.berth_withRunning, panelOpens_iff]
  have htake := w.takePanelReset_eq (s.nextRef .t)
  rw [hopens, show w.otherChains = _ from hw ▸ otherChains_withRunning h] at htake
  refine ⟨w, _, _, _, hw, rfl, rfl, blocksReset_panelBlocks _, ?_⟩
  rw [exec_takes (o := ⟨.panelReset, stop, 0⟩) rfl h rfl, ← hw, ← htake,
    ← State.finishTake_none (w.takePanelReset_runs (s.nextRef .t))]
  rfl

end Sys2Proof.Machine

namespace Sys2Proof.Machine

/-! ### What PANEL_RESET leaves at the ports (R154, R167, R180) -/

/-- An order that port T takes leaves the notices of every port. -/
theorem notices_withRunning (s : State) (o : OrderRec) (p : Port) :
    ((s.withRunning .t o).port p).notices = (s.port p).notices := by
  simp only [State.port, State.withRunning, PortMap.get_set]
  split
  · subst p; rfl
  · rfl

theorem port_withRunning_ne (s : State) (o : OrderRec) {p : Port} (h : p ≠ .t) : (s.withRunning .t o).port p = s.port p :=
  PortMap.get_set_ne _ _ h

theorem orders_withRunning_ne (s : State) (o : OrderRec) {p : Port} (h : p ≠ .t) :
    (s.withRunning .t o).orders p = s.orders p :=
  PortMap.get_set_ne _ _ h

/-- A chain of one ended order is passed with the record of its end. -/
theorem cancelRest_ended (code : Code) (a b : Nat) (o : OrderRec) (st : Status) :
    ((Chain.cancelRest code ⟨a, b, [⟨o, .ended st⟩]⟩).orders.map Slot.statusRecord) = [st] := by
  simp [Chain.cancelRest, Slot.close, Slot.isEnded, Slot.statusRecord]

theorem answersOf_completions {α : Type} (count : α → Nat) (records : α → List Status) (l : List α) :
    answersOf (l.map fun x => .completion (count x) (records x)) = l.map fun x => .completion (count x) (records x) := by
  rw [answersOf, List.filter_eq_self]
  intro f hf
  obtain ⟨x, -, rfl⟩ := List.mem_map.mp hf
  rfl

section

variable {s g t : State} {o : OrderRec} {st : Status}

/-- Every notice class is clear and without content, but GRANT where an adoption's trim may post it anew (R180). -/
theorem notice_of_panelReset (hg : g = (s.withRunning .t o).ordersReset (s.nextRef .t) st) (hb : BlocksReset g t)
    (p : Port) (cls : NoticeClass) : ((t.port p).notices.get cls).masked = ((s.port p).notices.get cls).masked ∧
      (p = .t ∨ cls ≠ .grant ∨ (∀ n, (s.berth n).state ∉ [.onShore, .adopted]) →
        ((t.port p).notices.get cls).flag = false ∧ ((t.port p).notices.get cls).latest = none) := by
  have hclear : (g.port p).notices.get cls = { (s.port p).notices.get cls with flag := false, latest := none } := by
    rw [hg, (State.ordersReset_at _ _ p _).notice, notices_withRunning]
  have hlink := hb.link p
  refine ⟨(hlink.masked cls).trans (by rw [hclear]), fun hcase => ?_⟩
  have hkept : (t.port p).notices.get cls = (g.port p).notices.get cls := by
    rcases hcase with ht | hcls | hnone
    · rw [hlink.atT ht]
    · exact hlink.others cls hcls
    · have hquiet : State.NoneAdopted g := fun n => by
        rw [hg, (State.ordersReset_all _ _ _).berth, State.berth_withRunning]
        exact hnone n
      rw [State.port, hb.quiet hquiet, State.port]
  rw [hkept, hclear]
  exact ⟨rfl, rfl⟩

/-- Port T is sent the acceptance of PANEL_RESET and its completion (R154, R167). -/
theorem transmit_terminal_of_panelReset (h : PortReady s .t)
    (hg : g = (s.withRunning .t o).ordersReset (s.nextRef .t) st) (hb : BlocksReset g t) :
    (t.port .t).transmit = (s.port .t).transmit ++
      [.accept (s.orders .t).rolling (s.freeSlots - 1), .completion (s.orders .t).rolling [st]] := by
  have hport : (s.withRunning .t o).port .t = answered (s.port .t) (.accept (s.orders .t).rolling (s.freeSlots - 1)) := by
    rw [State.port, State.withRunning, PortMap.get_set_same, State.port]
  have hopen : ((s.withRunning .t o).port .t).isOpen = true := by rw [hport]; exact h.isOpen
  rw [(hb.link .t).atT rfl, hg, (State.ordersReset_at _ _ .t _).transmit hopen, queue_endOrder_withRunning, hport]
  simp only [List.map_cons, List.map_nil, cancelRest_ended, answered, List.append_assoc, List.cons_append, List.nil_append]

/-- A vessel port is sent the completions of its chains, and GRANT notices besides (R154, R167). -/
theorem transmit_vessel_of_panelReset (hg : g = (s.withRunning .t o).ordersReset (s.nextRef .t) st) (hb : BlocksReset g t)
    (n : Ix) (hopen : (s.port (.v n)).isOpen = true) :
    answersOf (t.port (.v n)).transmit = answersOf (s.port (.v n)).transmit ++
      (s.orders (.v n)).queue.map fun c => .completion c.count ((c.cancelRest .reset).orders.map Slot.statusRecord) := by
  have hne : Port.v n ≠ .t := nofun
  have hport := port_withRunning_ne s o hne
  have hqueue : (((s.withRunning .t o).endOrder (s.nextRef .t) st).orders (.v n)).queue = (s.orders (.v n)).queue := by
    rw [orders_endOrder_ne (r := s.nextRef .t) st hne, orders_withRunning_ne s o hne]
  have hsent := (State.ordersReset_at (s.nextRef .t) st (.v n) (s.withRunning .t o)).transmit (by rw [hport]; exact hopen)
  calc answersOf (t.port (.v n)).transmit
    _ = answersOf (g.port (.v n)).transmit := (hb.link _).answers
    _ = _ := by
      rw [hg, hsent, hqueue, hport, answersOf, List.filter_append]
      exact congrArg _ (answersOf_completions _ _ _)

/-- Every queue of orders is empty (R154, R167). -/
theorem orders_of_panelReset (hg : g = (s.withRunning .t o).ordersReset (s.nextRef .t) st) (hb : BlocksReset g t) (p : Port) :
    (t.orders p).queue = [] ∧ (t.orders p).timer = none ∧ (p ≠ .t → (t.orders p).rolling = (s.orders p).rolling) := by
  have hkept : t.orders p = g.orders p := by rw [State.orders, hb.oe, State.orders]
  obtain ⟨hqueue, htimer, hrolling⟩ : OrdersReset _ p (s.withRunning .t o) g := hg ▸ State.ordersReset_at _ _ p _
  rw [hkept]
  exact ⟨hqueue, htimer, fun hp => by rw [hrolling, orders_withRunning_ne s o hp]⟩

end

/-- Settles O31: PANEL_RESET clears the orders and the notices first (`OrdersReset`), and then the other blocks (`BlocksReset`),
which answer no order and give no notice but GRANT. -/
theorem panelResetClears : Obligations.PanelResetClears := by
  intro s stop h
  obtain ⟨w, g, t, st, hw, hst, hg, hb, hexec⟩ := panelReset_taken (stop := stop) h
  subst hw
  have hall : OrdersResetAll (s.withRunning .t ⟨.panelReset, stop, 0⟩) g := hg ▸ State.ordersReset_all _ _ _
  have hpru : g.pru = s.pru := hall.pru
  have href : ReferenceRests s t := hb.reference.of_start hpru
  refine ⟨t, hexec, by rw [hb.oe]; exact hall.held, orders_of_panelReset hg hb, notice_of_panelReset hg hb,
    fun n second => ?_, fun n => ?_, hb.grants, hb.scanner, by rw [hb.cp, hall.cp]; rfl, href.mode, href.frequency, href.phase,
    href.holder, href.waiting, fun n => ⟨href.window n, href.side n⟩, hst ▸ transmit_terminal_of_panelReset h hg hb,
    transmit_vessel_of_panelReset hg hb, ?_⟩
  · rw [State.flag, hb.oe]
    exact hall.flags n second
  · rw [hb.consenting, hall.berth]
  · simp only [untouched_cons, Part.same]
    exact ⟨hb.powered.trans hall.powered, hb.now.trans hall.now, hb.pending.trans hall.pending, hb.table.trans hall.table,
      hb.inputs.trans hall.inputs, hb.gi.trans hall.gi, untouched_nil _ _⟩

end Sys2Proof.Machine

/-! Support for the obligations about the Converter Pool: the counts of the six modules, the start test, and what a module's fault,
its end and the trim of a fallen KB leave. -/

namespace Sys2Proof.Machine

/-! ### Counts of six -/

/-- Two tests that differ at one name at most. -/
theorem countSix_change {f g : Ix → Bool} (n : Ix) (h : ∀ m, m ≠ n → f m = g m) :
    countSix f + (g n).toNat = countSix g + (f n).toNat := by
  have hone : ∀ b : Bool, (if b = true then 1 else 0) = b.toNat := fun b => by cases b <;> rfl
  simp only [countSix, sumSix, hone]
  cases n
  case i0 => rw [h .i1, h .i2, h .i3, h .i4, h .i5] <;> first | omega | decide
  case i1 => rw [h .i0, h .i2, h .i3, h .i4, h .i5] <;> first | omega | decide
  case i2 => rw [h .i0, h .i1, h .i3, h .i4, h .i5] <;> first | omega | decide
  case i3 => rw [h .i0, h .i1, h .i2, h .i4, h .i5] <;> first | omega | decide
  case i4 => rw [h .i0, h .i1, h .i2, h .i3, h .i5] <;> first | omega | decide
  case i5 => rw [h .i0, h .i1, h .i2, h .i3, h .i4] <;> first | omega | decide

theorem Ix.nodup_circle (n : Ix) : n.circle.Nodup := by cases n <;> decide

/-- The states that the available count counts (R73, R75). -/
def ModuleState.isAvailable (x : ModuleState) : Bool := decide (x ≠ .faulted) && decide (x ≠ .outOfService)

/-- A module enters STARTING (R77). -/
def Converter.start (c : Converter) : Converter :=
  { c with state := .starting, seconds := 0, startLimit := some Config.startLimit }

namespace State

/-! ### One module among six -/

theorem converter_modConverter (m k : Ix) (f : Converter → Converter) (s : State) :
    (s.modConverter m f).converter k = if k = m then f (s.converter m) else s.converter k := by
  simp [converter, Six.get_set]

@[simp] theorem converter_modConverter_same (m : Ix) (f : Converter → Converter) (s : State) :
    (s.modConverter m f).converter m = f (s.converter m) := by simp [converter]

@[simp] theorem converter_modConverter_ne {m k : Ix} (f : Converter → Converter) (s : State) (h : k ≠ m) :
    (s.modConverter m f).converter k = s.converter k := by simp [converter, h]

theorem converter_of_cp {s t : State} (h : t.cp = s.cp) (m : Ix) : t.converter m = s.converter m := by rw [converter, h, converter]

theorem moduleInputs_of_inputs {s t : State} (h : t.inputs = s.inputs) (m : Ix) : t.moduleInputs m = s.moduleInputs m := by
  rw [moduleInputs, h, moduleInputs]

@[simp] theorem moduleInputs_modModuleInputs (m : Ix) (f : ModuleInputs → ModuleInputs) (s : State) :
    (s.modModuleInputs m f).moduleInputs m = f (s.moduleInputs m) := by simp [moduleInputs]

theorem online_of_modules {s t : State} (h : t.cp.modules = s.cp.modules) : t.online = s.online := by
  unfold online converter
  rw [h]

theorem starting_of_modules {s t : State} (h : t.cp.modules = s.cp.modules) : t.starting = s.starting := by
  unfold starting converter
  rw [h]

theorem available_of_modules {s t : State} (h : t.cp.modules = s.cp.modules) : t.available = s.available := by
  unfold available converter
  rw [h]

/-- The modules ONLINE, when one module's record changes (R73, R75). -/
theorem online_modConverter (m : Ix) (f : Converter → Converter) (s : State) : (s.modConverter m f).online +
    (decide ((s.converter m).state = .online)).toNat = s.online + (decide ((f (s.converter m)).state = .online)).toNat := by
  have := countSix_change (f := fun k => decide (((s.modConverter m f).converter k).state = .online))
    (g := fun k => decide ((s.converter k).state = .online)) m fun k hk => by simp [hk]
  simpa [online] using this

/-- The modules STARTING, when one module's record changes. -/
theorem starting_modConverter (m : Ix) (f : Converter → Converter) (s : State) : (s.modConverter m f).starting +
    (decide ((s.converter m).state = .starting)).toNat = s.starting + (decide ((f (s.converter m)).state = .starting)).toNat := by
  have := countSix_change (f := fun k => decide (((s.modConverter m f).converter k).state = .starting))
    (g := fun k => decide ((s.converter k).state = .starting)) m fun k hk => by simp [hk]
  simpa [starting] using this

/-- Where a change leaves a module neither ONLINE before nor after, KB stands. -/
theorem online_modConverter_eq {m : Ix} {f : Converter → Converter} {s : State} (h : (s.converter m).state ≠ .online)
    (h' : (f (s.converter m)).state ≠ .online) : (s.modConverter m f).online = s.online := by
  have := s.online_modConverter m f
  rw [decide_eq_false h, decide_eq_false h'] at this
  exact this

/-- A module that was ONLINE and is not takes one from the count. -/
theorem online_modConverter_lost {m : Ix} {f : Converter → Converter} {s : State} (h : (s.converter m).state = .online)
    (h' : (f (s.converter m)).state ≠ .online) : (s.modConverter m f).online + 1 = s.online := by
  have := s.online_modConverter m f
  rw [decide_eq_true h, decide_eq_false h'] at this
  exact this

/-- A module that stays out of STARTING. -/
theorem starting_modConverter_eq {m : Ix} {f : Converter → Converter} {s : State} (h : (s.converter m).state ≠ .starting)
    (h' : (f (s.converter m)).state ≠ .starting) : (s.modConverter m f).starting = s.starting := by
  have := s.starting_modConverter m f
  rw [decide_eq_false h, decide_eq_false h'] at this
  exact this


theorem available_modConverter_eq {m : Ix} {f : Converter → Converter} {s : State}
    (h : (f (s.converter m)).state.isAvailable = (s.converter m).state.isAvailable) :
    (s.modConverter m f).available = s.available := by
  have := countSix_change (f := fun k => ((s.modConverter m f).converter k).state.isAvailable)
    (g := fun k => (s.converter k).state.isAvailable) m fun k hk => by simp [hk]
  simp only [converter_modConverter_same, h] at this
  exact Nat.add_right_cancel this

/-! ### The start test (R77) -/

/-- The module that the start test takes enters STARTING, and the pointer moves past it. -/
def startModule (m : Ix) (s : State) : State :=
  (s.modConverter m Converter.start).modCp fun u => { u with pointer := m.next }

theorem modules_startModule (m : Ix) (s : State) : (s.startModule m).cp.modules = (s.modConverter m Converter.start).cp.modules :=
  rfl

/-- The start test takes a module: the target is not reached and the start circuit is free. -/
def StartDue (s : State) : Prop := s.online + s.starting < s.cp.target ∧ s.starting = 0

theorem startTest_of_find {s : State} {m : Ix} (hdue : s.StartDue)
    (hm : s.cp.pointer.circle.find? (fun k => decide ((s.converter k).state = .off)) = some m) :
    s.startTest = s.startModule m := by
  obtain ⟨hlt, hfree⟩ := hdue
  unfold startTest
  rw [if_pos ⟨hlt, hfree⟩, hm]
  rfl

/-- Nothing starts where no start is due or no module is OFF. -/
theorem startTest_quiet {s : State} (h : ¬ s.StartDue ∨ ∀ k, (s.converter k).state ≠ .off) : s.startTest = s := by
  by_cases hdue : s.StartDue
  · have hnone : s.cp.pointer.circle.find? (fun k => decide ((s.converter k).state = .off)) = none := by
      rw [List.find?_eq_none]
      intro k _
      simpa using h.resolve_left (not_not_intro hdue) k
    obtain ⟨hlt, hfree⟩ := hdue
    unfold startTest
    rw [if_pos ⟨hlt, hfree⟩, hnone]
  · exact if_neg hdue

/-- The start test leaves the state as it is, or starts one module that is OFF. -/
theorem startTest_cases (s : State) : s.startTest = s ∨ ∃ m, (s.converter m).state = .off ∧ s.startTest = s.startModule m := by
  by_cases hdue : s.StartDue
  · cases hf : s.cp.pointer.circle.find? (fun k => decide ((s.converter k).state = .off)) with
    | none =>
      refine .inl (startTest_quiet (.inr fun k => ?_))
      simpa using List.find?_eq_none.mp hf k (Ix.mem_circle _ _)
    | some m => exact .inr ⟨m, by simpa using List.find?_some hf, startTest_of_find hdue hf⟩
  · exact .inl (startTest_quiet (.inl hdue))

/-- The first module that is OFF, from the pointer on, starts. -/
theorem startTest_starts {s : State} {m : Ix} {before behind : List Ix} (hdue : s.StartDue)
    (hc : s.cp.pointer.circle = before ++ m :: behind) (hb : ∀ x ∈ before, (s.converter x).state ≠ .off)
    (hm : (s.converter m).state = .off) : s.startTest = s.startModule m := by
  refine startTest_of_find hdue ?_
  rw [hc, List.find?_append, List.find?_eq_none.mpr (by simpa using hb), List.find?_cons_of_pos (by simp [hm])]
  rfl

/-- A module does not start where one that stands nearer to the pointer is OFF. -/
theorem startTest_starts_nearer {s : State} {m : Ix} {before behind : List Ix} (hdue : s.StartDue)
    (hc : s.cp.pointer.circle = before ++ m :: behind) (hb : ∃ x ∈ before, (s.converter x).state = .off) :
    ∃ x ∈ before, s.startTest = s.startModule x := by
  obtain ⟨x, hx, hoff⟩ := hb
  obtain ⟨y, hy⟩ := Option.isSome_iff_exists.mp
    (List.find?_isSome (p := fun k => decide ((s.converter k).state = .off)).mpr ⟨x, hx, by simp [hoff]⟩)
  refine ⟨y, List.mem_of_find?_eq_some hy, startTest_of_find hdue ?_⟩
  rw [hc, List.find?_append, hy]
  rfl

@[simp] theorem converter_startModule_same (m : Ix) (s : State) : (s.startModule m).converter m =
    { s.converter m with state := .starting, seconds := 0, startLimit := some 30 } := by
  simp [startModule, converter, Converter.start]

@[simp] theorem converter_startModule_ne {m k : Ix} (s : State) (h : k ≠ m) : (s.startModule m).converter k = s.converter k := by
  simp [startModule, converter, h]

theorem cp_startModule (m : Ix) (s : State) : (s.startModule m).cp =
    { s.cp with modules := (s.startModule m).cp.modules, pointer := m.next } := rfl

/-- The start test leaves a module that is not OFF as it is. -/
theorem converter_startTest {s : State} {m : Ix} (h : (s.converter m).state ≠ .off) : s.startTest.converter m = s.converter m := by
  obtain he | ⟨k, hk, he⟩ := s.startTest_cases
  · rw [he]
  · rw [he, converter_startModule_ne]
    rintro rfl
    exact h hk

/-- The start test moves no module into or out of ONLINE. -/
@[simp] theorem online_startTest (s : State) : s.startTest.online = s.online := by
  obtain he | ⟨m, hm, he⟩ := s.startTest_cases
  · rw [he]
  · rw [he]
    exact (online_of_modules (modules_startModule m s)).trans (online_modConverter_eq (by rw [hm]; decide) (by simp [Converter.start]))

@[simp] theorem busBCapacity_startTest (s : State) : s.startTest.busBCapacity = s.busBCapacity := by
  simp [busBCapacity]

/-- A module that starts was available before (R73). -/
@[simp] theorem available_startTest (s : State) : s.startTest.available = s.available := by
  obtain he | ⟨m, hm, he⟩ := s.startTest_cases
  · rw [he]
  · rw [he]
    exact (available_of_modules (modules_startModule m s)).trans (available_modConverter_eq (by rw [hm]; rfl))

/-- Nothing but the pool differs after a start test. -/
theorem onlyTouches_startTest (s : State) : OnlyTouches [.pool] s s.startTest := by
  apply onlyTouches_of_fields <;> simp +contextual

/-! ### The trim of a fallen KB (R75, R118) -/

@[simp] theorem fields_trimAfterFall (k : Nat) (s : State) : OnlyGeLink s (s.trimAfterFall k) := by
  unfold trimAfterFall
  split <;> simp [OnlyGeLink]

@[simp] theorem link_trimAfterFall_t (k : Nat) (s : State) : (s.trimAfterFall k).link.get .t = s.link.get .t := by
  unfold trimAfterFall
  split <;> simp

@[simp] theorem online_trimAfterFall (k : Nat) (s : State) : (s.trimAfterFall k).online = s.online :=
  online_of_modules (by simp)

@[simp] theorem busBCapacity_trimAfterFall (k : Nat) (s : State) : (s.trimAfterFall k).busBCapacity = s.busBCapacity := by
  simp [busBCapacity]

theorem trimAfterFall_quiet {k : Nat} {s : State} (h : k ≤ s.online) : s.trimAfterFall k = s := if_neg (Nat.not_lt.mpr h)

/-- At a fall of KB both sets are trimmed to it. -/
theorem ge_trimAfterFall {k : Nat} {s : State} (h : s.online < k) : (s.trimAfterFall k).ge =
    { s.ge with active := s.ge.active.trim s.busBCapacity, staged := s.ge.staged.trim s.busBCapacity } := by
  rw [trimAfterFall, if_pos h, ge_trimBoth]

end State

end Sys2Proof.Machine

namespace Sys2Proof.Machine

/-- A frame that leaves the Link Unit's records of all ports open, field by field. -/
theorem onlyTouches_allLinks {l : List Part} {s t : State} (power : Part.power ∉ l → t.powered = s.powered)
    (time : Part.time ∉ l → t.now = s.now) (waiting : Part.waiting ∉ l → t.pending = s.pending)
    (table : Part.table ∉ l → t.table = s.table) (inputs : Part.inputs ∉ l → t.inputs = s.inputs)
    (orders : ∀ p, Part.orders p ∉ l → t.oe.ports.get p = s.oe.ports.get p)
    (flags : Part.flags ∉ l → t.oe.flags = s.oe.flags) (held : Part.held ∉ l → t.oe.held = s.oe.held)
    (berth : ∀ n, Part.berth n ∉ l → t.berths.get n = s.berths.get n)
    (reference : Part.reference ∉ l → t.pru = s.pru) (scanner : Part.scanner ∉ l → t.cs = s.cs)
    (pool : Part.pool ∉ l → t.cp = s.cp) (grid : Part.grid ∉ l → t.gi = s.gi)
    (grants : Part.grants ∉ l → t.ge = s.ge) : OnlyTouches (l ++ allLinks) s t := by
  have out : ∀ b, b ∉ l ++ allLinks → b ∉ l := fun b h h' => h (List.mem_append_left _ h')
  exact onlyTouches_of_fields (fun h => power (out _ h)) (fun h => time (out _ h)) (fun h => waiting (out _ h))
    (fun h => table (out _ h)) (fun h => inputs (out _ h))
    (fun p h => absurd (List.mem_append_right _ (mem_allLinks p)) h) (fun p h => orders p (out _ h)) (fun h => flags (out _ h))
    (fun h => held (out _ h)) (fun n h => berth n (out _ h)) (fun h => reference (out _ h)) (fun h => scanner (out _ h))
    (fun h => pool (out _ h)) (fun h => grid (out _ h)) (fun h => grants (out _ h))

/-! ### Faults of a module (R78, R81, R82) -/

namespace State

/-- A MODULE notice at port T (R181). -/
theorem module_notifyModule (m : Ix) (c : Nat) {s : State} (h : (s.link.get .t).isOpen = true) :
    ((s.notifyModule m c).link.get .t).notices.module.latest =
      some { berth := none, code := some c, value := m.toNat, period := s.ge.period } :=
  congrArg NoticeSlot.latest (s.notices_notify .t .module none c m.toNat h)

theorem isOpen_notifyModule (m : Ix) (c : Nat) (q : Port) (s : State) :
    ((s.notifyModule m c).link.get q).isOpen = (s.link.get q).isOpen := isOpen_notify s .t q .module none c m.toNat

theorem onlyTouches_notifyModule (m : Ix) (c : Nat) (s : State) : OnlyTouches [.link .t] s (s.notifyModule m c) :=
  onlyTouches_post _ _ _

@[simp] theorem online_notifyModule (m : Ix) (c : Nat) (s : State) : (s.notifyModule m c).online = s.online :=
  online_of_modules (by simp)

@[simp] theorem busBCapacity_notifyModule (m : Ix) (c : Nat) (s : State) : (s.notifyModule m c).busBCapacity = s.busBCapacity := by
  simp [busBCapacity]

/-- What the entry of a module to FAULTED leaves in the other blocks. -/
@[simp] theorem fields_enterFault (m : Ix) (c : FaultCause) (k : Nat) (s : State) :
    (s.enterFault m c k).powered = s.powered ∧ (s.enterFault m c k).now = s.now ∧ (s.enterFault m c k).table = s.table ∧
    (s.enterFault m c k).inputs = s.inputs ∧ (s.enterFault m c k).oe = s.oe ∧ (s.enterFault m c k).berths = s.berths ∧
    (s.enterFault m c k).pru = s.pru ∧ (s.enterFault m c k).cs = s.cs ∧ (s.enterFault m c k).gi = s.gi ∧
    (s.enterFault m c k).pending = s.pending := by
  simp [enterFault]

@[simp] theorem converter_enterFault (m : Ix) (c : FaultCause) (k : Nat) (s : State) :
    (s.enterFault m c k).converter m = .rest .faulted (some c) := by
  simp [enterFault, converter]

/-- The notice of a module that enters FAULTED is the latest at port T. -/
theorem link_enterFault_t (m : Ix) (c : FaultCause) (k : Nat) (s : State) : (s.enterFault m c k).link.get .t =
    (s.notifyModule m k).link.get .t := by
  rw [enterFault, link_trimAfterFall_t]
  rfl

theorem module_enterFault (m : Ix) (c : FaultCause) (k : Nat) {s : State} (h : (s.link.get .t).isOpen = true) :
    ((s.enterFault m c k).link.get .t).notices.module.latest =
      some { berth := none, code := some k, value := m.toNat, period := s.ge.period } := by
  rw [link_enterFault_t]
  exact module_notifyModule m k h

theorem isOpen_enterFault_t (m : Ix) (c : FaultCause) (k : Nat) (s : State) :
    ((s.enterFault m c k).link.get .t).isOpen = (s.link.get .t).isOpen := by
  rw [link_enterFault_t, isOpen_notifyModule]

/-- A module that was not ONLINE takes nothing from KB, and no trim follows. -/
theorem enterFault_offline {m : Ix} {s : State} (c : FaultCause) (k : Nat) (h : (s.converter m).state ≠ .online) :
    s.enterFault m c k = (s.modConverter m fun _ => .rest .faulted (some c)).notifyModule m k := by
  refine trimAfterFall_quiet (Nat.le_of_eq ?_)
  rw [online_notifyModule]
  exact (online_modConverter_eq h (by simp [Converter.rest])).symm

/-- A module that was ONLINE takes itself from KB, and both sets are trimmed to what is left (R75, R118). -/
theorem enterFault_online {m : Ix} {s : State} (c : FaultCause) (k : Nat) (h : (s.converter m).state = .online) :
    (s.enterFault m c k).online + 1 = s.online ∧ (s.enterFault m c k).ge = { s.ge with
      active := s.ge.active.trim (s.enterFault m c k).busBCapacity
      staged := s.ge.staged.trim (s.enterFault m c k).busBCapacity } := by
  obtain ⟨u, hu⟩ : ∃ u, u = (s.modConverter m fun _ => Converter.rest .faulted (some c)).notifyModule m k := ⟨_, rfl⟩
  have he : s.enterFault m c k = u.trimAfterFall s.online := by rw [hu]; rfl
  have hfall : u.online + 1 = s.online := by
    rw [hu, online_notifyModule]
    exact online_modConverter_lost h (by simp [Converter.rest])
  have hge : u.ge = s.ge := by rw [hu]; simp
  rw [he, online_trimAfterFall, busBCapacity_trimAfterFall, ge_trimAfterFall (by omega), hge]
  exact ⟨hfall, rfl⟩

/-- The module of which both inputs are clear enters OUT_OF_SERVICE, with its notice (R82). -/
def faultCleared (m : Ix) (s : State) : State := (s.modConverter m fun c => .rest .outOfService c.cause).notifyModule m 3

theorem clearFault_stays {m : Ix} {s : State}
    (h : (s.converter m).state ≠ .faulted ∨ (s.moduleInputs m).fault = true ∨ (s.moduleInputs m).ready = true) :
    s.clearFault m = s := by
  refine if_neg fun hc => ?_
  obtain ⟨hst, hfault, hready⟩ := hc
  rcases h with h | h | h
  · exact h hst
  · rw [hfault] at h; cases h
  · rw [hready] at h; cases h

theorem clearFault_clears {m : Ix} {s : State} (h : (s.converter m).state = .faulted) (hf : (s.moduleInputs m).fault = false)
    (hr : (s.moduleInputs m).ready = false) : s.clearFault m = (s.faultCleared m).startTest := if_pos ⟨h, hf, hr⟩

@[simp] theorem converter_faultCleared (m : Ix) (s : State) : (s.faultCleared m).converter m =
    .rest .outOfService (s.converter m).cause := by
  simp [faultCleared, converter]

@[simp] theorem ge_faultCleared (m : Ix) (s : State) : (s.faultCleared m).ge = s.ge := by simp [faultCleared]

theorem online_faultCleared {m : Ix} {s : State} (h : (s.converter m).state = .faulted) : (s.faultCleared m).online = s.online := by
  rw [faultCleared, online_notifyModule]
  exact online_modConverter_eq (by rw [h]; decide) (by simp [Converter.rest])

theorem module_faultCleared (m : Ix) {s : State} (h : (s.link.get .t).isOpen = true) :
    ((s.faultCleared m).link.get .t).notices.module.latest =
      some { berth := none, code := some 3, value := m.toNat, period := s.ge.period } :=
  module_notifyModule (s := s.modConverter m _) m 3 h

theorem onlyTouches_faultCleared (m : Ix) (s : State) : OnlyTouches [.link .t, .pool] s (s.faultCleared m) := by
  apply onlyTouches_of_fields <;> simp +contextual [faultCleared, notifyModule, link_notify_ne]

/-- With an input still asserted a module that faults stays FAULTED. -/
theorem faultModule_stays {m : Ix} {c : FaultCause} {k : Nat} {s : State}
    (h : (s.moduleInputs m).fault = true ∨ (s.moduleInputs m).ready = true) :
    s.faultModule m c k = (s.enterFault m c k).startTest := by
  have hin := moduleInputs_of_inputs (s := s) (t := s.enterFault m c k) (by simp) m
  rw [faultModule, clearFault_stays (.inr (by rwa [hin]))]

/-- With both inputs clear it is OUT_OF_SERVICE at once. -/
theorem faultModule_clears {m : Ix} {c : FaultCause} {k : Nat} {s : State} (hf : (s.moduleInputs m).fault = false)
    (hr : (s.moduleInputs m).ready = false) :
    s.faultModule m c k = ((s.enterFault m c k).faultCleared m).startTest.startTest := by
  have hin := moduleInputs_of_inputs (s := s) (t := s.enterFault m c k) (by simp) m
  rw [faultModule, clearFault_clears (by simp [Converter.rest]) (by rwa [hin]) (by rwa [hin])]

/-- What a module's entry to FAULTED leaves (R78, R81), with R82 behind it where both inputs are clear (`cleared`). -/
structure Faulted (m : Ix) (c : FaultCause) (k : Nat) (cleared : Bool) (s t : State) : Prop where
  converter : t.converter m = .rest (if cleared then .outOfService else .faulted) (some c)
  notice : (s.port .t).isOpen = true → (t.port .t).notices.module.latest =
    some { berth := none, code := some (if cleared then 3 else k), value := m.toNat, period := s.ge.period }
  offline : (s.converter m).state ≠ .online → t.ge = s.ge ∧ OnlyTouches [.link .t, .pool] s t
  online : (s.converter m).state = .online → t.online + 1 = s.online ∧ t.ge = { s.ge with
    active := s.ge.active.trim t.busBCapacity, staged := s.ge.staged.trim t.busBCapacity }
  inputs : t.inputs = s.inputs
  frame : OnlyTouches ([.pool, .grants] ++ allLinks) s t

theorem faulted_enterFault (m : Ix) (c : FaultCause) (k : Nat) (s : State) : Faulted m c k false s (s.enterFault m c k) where
  converter := converter_enterFault m c k s
  notice h := module_enterFault m c k h
  offline h := by
    rw [enterFault_offline c k h]
    refine ⟨by simp, ?_⟩
    apply onlyTouches_of_fields <;> simp +contextual [notifyModule, link_notify_ne]
  online h := enterFault_online c k h
  inputs := by simp
  frame := by
    apply onlyTouches_allLinks <;> simp +contextual

theorem faulted_faultCleared (m : Ix) (c : FaultCause) (k : Nat) (s : State) :
    Faulted m c k true s ((s.enterFault m c k).faultCleared m) := by
  obtain ⟨u, hu⟩ : ∃ u, u = s.enterFault m c k := ⟨_, rfl⟩
  have h : Faulted m c k false s u := hu ▸ faulted_enterFault m c k s
  have hst : (u.converter m).state = .faulted := by rw [h.converter]; rfl
  have hopen : (u.link.get .t).isOpen = (s.link.get .t).isOpen := by rw [hu, isOpen_enterFault_t]
  have hper : u.ge.period = s.ge.period := by
    by_cases hon : (s.converter m).state = .online
    · rw [(h.online hon).2]
    · rw [(h.offline hon).1]
  rw [← hu]
  refine ⟨?_, fun ho => ?_, fun hoff => ⟨?_, ?_⟩, fun hon => ?_, ?_, ?_⟩
  · rw [converter_faultCleared, h.converter]
    rfl
  · exact (module_faultCleared m (hopen.trans ho)).trans (by rw [hper]; rfl)
  · rw [ge_faultCleared, (h.offline hoff).1]
  · exact onlyTouches_trans (h.offline hoff).2 (onlyTouches_faultCleared m u)
  · obtain ⟨hcount, hge⟩ := h.online hon
    have hsame := online_faultCleared hst
    rw [busBCapacity, hsame, ge_faultCleared]
    exact ⟨hcount, hge⟩
  · exact (by simp [faultCleared] : (u.faultCleared m).inputs = u.inputs).trans h.inputs
  · refine onlyTouches_trans h.frame (onlyTouches_mono (onlyTouches_faultCleared m u) fun b hb => ?_)
    simp only [List.mem_cons, List.not_mem_nil, or_false] at hb
    rcases hb with rfl | rfl
    · exact List.mem_append_right _ (mem_allLinks _)
    · simp

/-- The start test comes behind it. -/
theorem Faulted.startTest {m : Ix} {c : FaultCause} {k : Nat} {cleared : Bool} {s t : State} (h : Faulted m c k cleared s t) :
    Faulted m c k cleared s t.startTest where
  converter := by
    rw [converter_startTest, h.converter]
    rw [h.converter]
    cases cleared <;> simp [Converter.rest]
  notice ho := by
    rw [port, (fields_startTest t).2.2.2.2.1]
    exact h.notice ho
  offline hoff := ⟨by simpa using (h.offline hoff).1, onlyTouches_trans (h.offline hoff).2
    (onlyTouches_mono t.onlyTouches_startTest (by simp))⟩
  online hon := by simpa using h.online hon
  inputs := by simpa using h.inputs
  frame := onlyTouches_trans h.frame (onlyTouches_mono t.onlyTouches_startTest (by simp))

theorem faulted_stays {m : Ix} {c : FaultCause} {k : Nat} {s : State}
    (h : (s.moduleInputs m).fault = true ∨ (s.moduleInputs m).ready = true) : Faulted m c k false s (s.faultModule m c k) := by
  rw [faultModule_stays h]
  exact (faulted_enterFault m c k s).startTest

theorem faulted_clears {m : Ix} {c : FaultCause} {k : Nat} {s : State} (hf : (s.moduleInputs m).fault = false)
    (hr : (s.moduleInputs m).ready = false) : Faulted m c k true s (s.faultModule m c k) := by
  rw [faultModule_clears hf hr]
  exact (faulted_faultCleared m c k s).startTest.startTest

end State

end Sys2Proof.Machine

namespace Sys2Proof.Machine

/-! ### A module that becomes ready, fails to start, or stops -/

namespace State

/-- The ready report of a STARTING module (R74, R78). -/
theorem moduleReadyInput_starting {m : Ix} {s : State} (h : (s.converter m).state = .starting) : s.moduleReadyInput m =
    ((s.modModuleInputs m fun i => { i with ready := true }).modConverter m fun c =>
      { c with state := .online, startLimit := none }).startTest := if_pos h

theorem moduleReadyInput_other {m : Ix} {s : State} (h : (s.converter m).state ≠ .starting) : s.moduleReadyInput m =
    s.modModuleInputs m fun i => { i with ready := true } := if_neg h

theorem onlyTouches_modModuleInputs (m : Ix) (f : ModuleInputs → ModuleInputs) (s : State) :
    OnlyTouches [.inputs] s (s.modModuleInputs m f) := onlyTouches_modInputs _

/-- With its ready report at the same instant a module that fails to start stays FAULTED, and also with an input asserted; else
R82 takes it on (log entry 31). -/
theorem faulted_startFails {m : Ix} {s : State}
    (h : (s.moduleInputs m).fault = true ∨ (s.moduleInputs m).ready = true ∨ s.pending.head? = some (.moduleReady m)) :
    Faulted m .startFail 1 false s (s.startFails m) := by
  by_cases hr : s.pending.head? = some (.moduleReady m)
  · have he : s.startFails m = (s.enterFault m .startFail 1).startTest := if_pos (by simpa [readyFollows] using hr)
    rw [he]
    exact (faulted_enterFault m .startFail 1 s).startTest
  · have he : s.startFails m = s.faultModule m .startFail 1 := if_neg (by simpa [readyFollows] using hr)
    rw [he]
    refine faulted_stays ?_
    rcases h with h | h | h
    · exact .inl h
    · exact .inr h
    · exact absurd h hr

theorem faulted_startFails_clear {m : Ix} {s : State} (hf : (s.moduleInputs m).fault = false)
    (hr : (s.moduleInputs m).ready = false) (hp : s.pending.head? ≠ some (.moduleReady m)) :
    Faulted m .startFail 1 true s (s.startFails m) := by
  have he : s.startFails m = s.faultModule m .startFail 1 := if_neg (by simpa [readyFollows] using hp)
  rw [he]
  exact faulted_clears hf hr

/-- A stop timer's end brings its module to rest, and a start test follows (R77, R80). -/
theorem onlyTouches_stopEnds (m : Ix) (s : State) : OnlyTouches [.pool] s (s.stopEnds m) :=
  onlyTouches_trans (onlyTouches_modCp _) (onlyTouches_startTest _)

end State

/-- MODULE_READY (R74, R78). -/
theorem moduleReady_answers {s : State} {m : Ix} (h : s.powered = true) :
    ((s.converter m).state = .starting →
      ∃ t : State, exec (.moduleReady m) s = .next t.settle ∧
        t.converter m = { s.converter m with state := .online, startLimit := none } ∧
        (t.moduleInputs m).ready = true ∧ OnlyTouches [.inputs, .pool] s t) ∧
    ((s.converter m).state ≠ .starting →
      ∃ t : State, exec (.moduleReady m) s = .next t.settle ∧ (t.moduleInputs m).ready = true ∧ OnlyTouches [.inputs] s t) := by
  refine ⟨fun hst => ?_, fun hst => ?_⟩
  · refine ⟨_, event_next_eq h (State.moduleReadyInput_starting hst), ?_, ?_, ?_⟩
    · rw [State.converter_startTest] <;> simp [State.converter]
    · simp [State.moduleInputs]
    · refine onlyTouches_trans ?_ (onlyTouches_mono (State.onlyTouches_startTest _) (by simp))
      apply onlyTouches_of_fields <;> simp +contextual
  · exact ⟨_, event_next_eq h (State.moduleReadyInput_other hst), by simp, State.onlyTouches_modModuleInputs _ _ _⟩

/-- START_LIMIT_EXPIRY (R78, R82). -/
theorem startLimit_answers {s : State} {m : Ix} (h : s.powered = true) (hst : (s.converter m).state = .starting)
    (hl : (s.converter m).startLimit.isSome = true) :
    (((s.moduleInputs m).fault = true ∨ (s.moduleInputs m).ready = true ∨ s.pending.head? = some (.moduleReady m)) →
      ∃ t : State, exec (.startLimitExpiry m) s = .next t.settle ∧
        t.converter m = { state := .faulted, seconds := 0, cause := some .startFail, outPending := false
                          startLimit := none, stopTimer := none } ∧ t.runCommand m = false ∧
        ((s.port .t).isOpen = true → (t.port .t).notices.module.latest =
          some { berth := none, code := some 1, value := m.toNat, period := s.ge.period }) ∧
        OnlyTouches [.link .t, .pool] s t) ∧
    ((s.moduleInputs m).fault = false → (s.moduleInputs m).ready = false → s.pending.head? ≠ some (.moduleReady m) →
      ∃ t : State, exec (.startLimitExpiry m) s = .next t.settle ∧ (t.converter m).state = .outOfService ∧
        (t.converter m).cause = some .startFail ∧ t.runCommand m = false ∧
        ((s.port .t).isOpen = true → (t.port .t).notices.module.latest =
          some { berth := none, code := some 3, value := m.toNat, period := s.ge.period }) ∧
        OnlyTouches [.link .t, .pool] s t) := by
  have hexec := event_next_eq (f := State.startExpires m) h (if_pos hl)
  have hoff : (s.converter m).state ≠ .online := by rw [hst]; decide
  refine ⟨fun hin => ?_, fun hf hr hp => ?_⟩
  · have ht := State.faulted_startFails hin
    exact ⟨_, hexec, ht.converter, by rw [State.runCommand, ht.converter]; rfl, ht.notice, (ht.offline hoff).2⟩
  · have ht := State.faulted_startFails_clear hf hr hp
    refine ⟨_, hexec, ?_, ?_, ?_, ht.notice, (ht.offline hoff).2⟩
    · rw [ht.converter]; rfl
    · rw [ht.converter]; rfl
    · rw [State.runCommand, ht.converter]; rfl

/-- STOP_TIMER_EXPIRY of a module marked for service (R80). -/
theorem stopTimer_out {s : State} {m : Ix} (h : s.powered = true) (ht : (s.converter m).stopTimer.isSome = true)
    (ho : (s.converter m).outPending = true) :
    ∃ t : State, exec (.stopTimerExpiry m) s = .next t.settle ∧ (t.converter m).state = .outOfService ∧
      (t.converter m).seconds = 0 ∧ (t.converter m).stopTimer = none ∧ OnlyTouches [.pool] s t := by
  have hc : (s.stopEnds m).converter m = .rest .outOfService (s.converter m).cause := by
    rw [State.stopEnds, State.converter_startTest] <;> simp [ho, Converter.rest]
  refine ⟨_, event_next_eq (f := State.stopExpires m) h (if_pos ht), ?_, ?_, ?_, State.onlyTouches_stopEnds m s⟩ <;>
    rw [hc] <;> rfl

/-- STOP_TIMER_EXPIRY of a module that is not: it is OFF, or STARTING again where the start test takes it (R77, R80). -/
theorem stopTimer_off {s : State} {m : Ix} (h : s.powered = true) (hst : (s.converter m).state = .stopping)
    (ht : (s.converter m).stopTimer.isSome = true) (ho : (s.converter m).outPending = false) :
    ∃ t : State, exec (.stopTimerExpiry m) s = .next t.settle ∧ (t.converter m).stopTimer = none ∧ OnlyTouches [.pool] s t ∧
      (s.cp.target ≤ s.online + s.starting ∨ 0 < s.starting →
        (t.converter m).state = .off ∧ t.runCommand m = false ∧ t.cp.pointer = s.cp.pointer) ∧
      (∀ before behind, s.online + s.starting < s.cp.target → s.starting = 0 →
        s.cp.pointer.circle = before ++ m :: behind →
        ((∃ x ∈ before, (s.converter x).state = .off) → (t.converter m).state = .off) ∧
        ((∀ x ∈ before, (s.converter x).state ≠ .off) → (t.converter m).state = .starting ∧
          (t.converter m).seconds = 0 ∧ (t.converter m).startLimit = some 30 ∧ t.runCommand m = true ∧
          t.cp.pointer = m.next)) := by
  obtain ⟨u, hu⟩ : ∃ u, u = s.modConverter m fun c => Converter.rest (if c.outPending then .outOfService else .off) c.cause :=
    ⟨_, rfl⟩
  have hends : s.stopEnds m = u.startTest := by rw [hu]; rfl
  have hm : u.converter m = .rest .off (s.converter m).cause := by rw [hu]; simp [ho]
  have hk : ∀ k, k ≠ m → u.converter k = s.converter k := fun k hne => by rw [hu]; simp [hne]
  have hcp : u.cp.target = s.cp.target ∧ u.cp.pointer = s.cp.pointer := by rw [hu]; exact ⟨rfl, rfl⟩
  have hon : u.online = s.online := by
    rw [hu]
    exact State.online_modConverter_eq (by rw [hst]; decide) (by simp [ho, Converter.rest])
  have hstart : u.starting = s.starting := by
    rw [hu]
    exact State.starting_modConverter_eq (by rw [hst]; decide) (by simp [ho, Converter.rest])
  refine ⟨_, event_next_eq (f := State.stopExpires m) h (if_pos ht), ?_, State.onlyTouches_stopEnds m s, fun hq => ?_,
    fun before behind hlt hz hc => ⟨fun hb => ?_, fun hb => ?_⟩⟩
  · rw [hends]
    obtain he | ⟨x, -, he⟩ := u.startTest_cases
    · rw [he, hm]; rfl
    · rw [he]
      by_cases hx : m = x
      · subst hx
        rw [State.converter_startModule_same, hm]; rfl
      · rw [State.converter_startModule_ne _ hx, hm]; rfl
  · have hquiet : u.startTest = u := State.startTest_quiet (.inl fun hdue => by
      obtain ⟨hlt, hz⟩ := hdue
      rw [hon, hstart, hcp.1] at hlt
      omega)
    rw [hends, hquiet, State.runCommand, hm]
    exact ⟨rfl, rfl, hcp.2⟩
  all_goals
    have hdue : u.StartDue := ⟨by rw [hon, hstart, hcp.1]; exact hlt, hstart.trans hz⟩
    have hc' : u.cp.pointer.circle = before ++ m :: behind := by rw [hcp.2, hc]
    have hne : ∀ x ∈ before, x ≠ m := fun x hx he => by
      have hnodup := Ix.nodup_circle s.cp.pointer
      rw [hc, List.nodup_append] at hnodup
      exact hnodup.2.2 x hx m List.mem_cons_self he
  · obtain ⟨x, hx, hoff⟩ := hb
    obtain ⟨y, hy, he⟩ := State.startTest_starts_nearer hdue hc' ⟨x, hx, by rwa [hk x (hne x hx)]⟩
    rw [hends, he, State.converter_startModule_ne _ (Ne.symm (hne y hy)), hm]
    rfl
  · have he := State.startTest_starts hdue hc' (fun x hx => by rw [hk x (hne x hx)]; exact hb x hx) (by rw [hm]; rfl)
    rw [hends, he, State.runCommand, State.converter_startModule_same]
    exact ⟨rfl, rfl, rfl, rfl, rfl⟩

end Sys2Proof.Machine

namespace Sys2Proof.Machine

/-! ### A module's inputs -/

/-- The inputs with one of a module's two set aside: what a fault input or a ready input does first. -/
theorem State.Faulted.of_inputs {m : Ix} {c : FaultCause} {k : Nat} {cleared : Bool} {s t : State} {f : ModuleInputs → ModuleInputs}
    (h : Faulted m c k cleared (s.modModuleInputs m f) t) : t.moduleInputs m = f (s.moduleInputs m) ∧
      OnlyTouches ([.inputs, .pool, .grants] ++ allLinks) s t := by
  refine ⟨?_, ?_⟩
  · rw [moduleInputs_of_inputs h.inputs, moduleInputs_modModuleInputs]
  · exact onlyTouches_trans (onlyTouches_mono (onlyTouches_modModuleInputs m f s) (by simp))
      (onlyTouches_mono h.frame fun b hb => List.mem_cons_of_mem _ hb)

/-- MODULE_FAULT by the fault input (R81). -/
theorem faultInput_answers {s : State} {m : Ix} (h : s.powered = true) :
    ((s.converter m).state ≠ .faulted →
      ∃ t : State, exec (.moduleFault m .faultInput) s = .next t.settle ∧
        t.converter m = { state := .faulted, seconds := 0, cause := some .tripped, outPending := false
                          startLimit := none, stopTimer := none } ∧
        (t.moduleInputs m).fault = true ∧ t.runCommand m = false ∧
        ((s.port .t).isOpen = true → (t.port .t).notices.module.latest =
          some { berth := none, code := some 2, value := m.toNat, period := s.ge.period }) ∧
        ((s.converter m).state ≠ .online → t.ge = s.ge) ∧
        ((s.converter m).state = .online → t.online + 1 = s.online ∧ t.ge = { s.ge with
          active := s.ge.active.trim t.busBCapacity, staged := s.ge.staged.trim t.busBCapacity }) ∧
        OnlyTouches ([.inputs, .pool, .grants] ++ allLinks) s t) ∧
    ((s.converter m).state = .faulted →
      ∃ t : State, exec (.moduleFault m .faultInput) s = .next t.settle ∧ (t.moduleInputs m).fault = true ∧
        OnlyTouches [.inputs] s t) := by
  refine ⟨fun hst => ?_, fun hst => ?_⟩
  · have ht : State.Faulted m .tripped 2 false (s.modModuleInputs m fun i => { i with fault := true }) _ :=
      State.faulted_stays (.inl (by simp))
    obtain ⟨hin, hframe⟩ := ht.of_inputs
    exact ⟨_, event_next_eq (f := State.moduleFaults m .faultInput) h (if_neg hst), ht.converter, by rw [hin],
      by rw [State.runCommand, ht.converter]; rfl, ht.notice, fun hon => (ht.offline hon).1, ht.online, hframe⟩
  · exact ⟨_, event_next_eq (f := State.moduleFaults m .faultInput) h (if_pos hst), by simp,
      State.onlyTouches_modModuleInputs _ _ _⟩

/-- MODULE_FAULT by the ready input of a module that is not FAULTED (R74, R81, R82). -/
theorem readyLost_answers {s : State} {m : Ix} (h : s.powered = true) :
    ((s.converter m).state = .online →
      ∃ t : State, exec (.moduleFault m .readyInput) s = .next t.settle ∧ (t.moduleInputs m).ready = false ∧
        (t.converter m).cause = some .tripped ∧ (t.converter m).seconds = 0 ∧ t.runCommand m = false ∧
        (t.converter m).state = (if (s.moduleInputs m).fault then .faulted else .outOfService) ∧
        ((s.port .t).isOpen = true → (t.port .t).notices.module.latest =
          some { berth := none, code := some (if (s.moduleInputs m).fault then 2 else 3), value := m.toNat,
                 period := s.ge.period }) ∧
        t.online + 1 = s.online ∧ t.ge = { s.ge with
          active := s.ge.active.trim t.busBCapacity, staged := s.ge.staged.trim t.busBCapacity } ∧
        OnlyTouches ([.inputs, .pool, .grants] ++ allLinks) s t) ∧
    ((s.converter m).state ∉ [.online, .faulted] →
      ∃ t : State, exec (.moduleFault m .readyInput) s = .next t.settle ∧ (t.moduleInputs m).ready = false ∧
        OnlyTouches [.inputs] s t) := by
  refine ⟨fun hst => ?_, fun hst => ?_⟩
  · have ht : State.Faulted m .tripped 2 (!(s.moduleInputs m).fault) (s.modModuleInputs m fun i => { i with ready := false })
        ((s.modModuleInputs m fun i => { i with ready := false }).faultModule m .tripped 2) := by
      cases hf : (s.moduleInputs m).fault
      · exact State.faulted_clears (by simpa using hf) (by simp)
      · exact State.faulted_stays (.inl (by simpa using hf))
    obtain ⟨hin, hframe⟩ := ht.of_inputs
    obtain ⟨hcount, hge⟩ := ht.online hst
    refine ⟨_, event_next_eq (f := State.moduleFaults m .readyInput) h (if_pos hst), by rw [hin], by rw [ht.converter]; rfl,
      by rw [ht.converter]; rfl, ?_, ?_, fun hopen => (ht.notice hopen).trans ?_, hcount, hge, hframe⟩
    · rw [State.runCommand, ht.converter]
      cases (s.moduleInputs m).fault <;> rfl
    · rw [ht.converter]
      cases (s.moduleInputs m).fault <;> rfl
    · cases (s.moduleInputs m).fault <;> rfl
  · simp only [List.mem_cons, List.not_mem_nil, or_false, not_or] at hst
    obtain ⟨hon, hfaulted⟩ := hst
    refine ⟨_, event_next_eq (f := State.moduleFaults m .readyInput) h ((if_neg hon).trans (State.clearFault_stays (.inl hfaulted))),
      by simp, State.onlyTouches_modModuleInputs _ _ _⟩

/-- What becomes of a FAULTED module when an input of it clears: it is OUT_OF_SERVICE once both are clear (R82). -/
theorem clearFault_answers {s : State} {m : Ix} {f : ModuleInputs → ModuleInputs} {i : ModuleInputs} {u : State}
    (hu : u = s.modModuleInputs m f) (hi : i = f (s.moduleInputs m)) (hst : (s.converter m).state = .faulted) :
    ((u.clearFault m).moduleInputs m) = i ∧ ((u.clearFault m).converter m).cause = (s.converter m).cause ∧
      ((u.clearFault m).converter m).state = (if i.fault || i.ready then .faulted else .outOfService) ∧
      ((s.port .t).isOpen = true → i.fault = false → i.ready = false → ((u.clearFault m).port .t).notices.module.latest =
        some { berth := none, code := some 3, value := m.toNat, period := s.ge.period }) ∧
      (i.fault = true ∨ i.ready = true → OnlyTouches [.inputs] s (u.clearFault m)) ∧
      OnlyTouches [.inputs, .link .t, .pool] s (u.clearFault m) := by
  have hin : u.moduleInputs m = i := by rw [hu, hi, State.moduleInputs_modModuleInputs]
  have hc : u.converter m = s.converter m := State.converter_of_cp (by rw [hu]; rfl) m
  have hframe : OnlyTouches [.inputs] s u := hu ▸ State.onlyTouches_modModuleInputs m f s
  by_cases hclear : i.fault = false ∧ i.ready = false
  · obtain ⟨hf, hr⟩ := hclear
    have he : u.clearFault m = (u.faultCleared m).startTest := State.clearFault_clears (by rw [hc, hst]) (by rw [hin, hf])
      (by rw [hin, hr])
    have hm : (u.clearFault m).converter m = .rest .outOfService (s.converter m).cause := by
      rw [he, State.converter_startTest] <;> simp [hc, Converter.rest]
    rw [hm]
    refine ⟨?_, rfl, by rw [hf, hr]; rfl, fun hopen _ _ => ?_, fun hset => ?_, ?_⟩
    · rw [State.moduleInputs_of_inputs (s := u) (by rw [he]; simp [State.faultCleared]), hin]
    · rw [he, State.port, (State.fields_startTest _).2.2.2.2.1]
      have hper : u.ge.period = s.ge.period := by rw [hu]; rfl
      exact (State.module_faultCleared m (s := u) (by rw [hu]; exact hopen)).trans (by rw [hper])
    · rw [hf, hr] at hset
      simp at hset
    · rw [he]
      exact onlyTouches_trans (onlyTouches_mono hframe (by simp)) (onlyTouches_trans
        (onlyTouches_mono (State.onlyTouches_faultCleared m u) (by simp)) (onlyTouches_mono (State.onlyTouches_startTest _) (by simp)))
  · have hset : i.fault = true ∨ i.ready = true := by
      cases hf : i.fault <;> cases hr : i.ready <;> simp_all
    have he : u.clearFault m = u := State.clearFault_stays (.inr (by rwa [hin]))
    rw [he, hc, hst]
    refine ⟨hin, rfl, ?_, fun _ hf hr => absurd ⟨hf, hr⟩ hclear, fun _ => hframe, onlyTouches_mono hframe (by simp)⟩
    rw [if_pos (by simpa using hset)]

/-- MODULE_FAULT_CLEARED (R82). -/
theorem moduleFaultCleared_answers {s : State} {m : Ix} (h : s.powered = true) :
    ((s.converter m).state = .faulted →
      (∃ t : State, exec (.moduleFaultCleared m .faultInput) s = .next t.settle ∧ (t.moduleInputs m).fault = false ∧
        (t.converter m).cause = (s.converter m).cause ∧
        (t.converter m).state = (if (s.moduleInputs m).ready then .faulted else .outOfService) ∧
        ((s.port .t).isOpen = true → (s.moduleInputs m).ready = false → (t.port .t).notices.module.latest =
          some { berth := none, code := some 3, value := m.toNat, period := s.ge.period }) ∧
        ((s.moduleInputs m).ready = true → OnlyTouches [.inputs] s t) ∧
        OnlyTouches [.inputs, .link .t, .pool] s t) ∧
      (∃ t : State, exec (.moduleFaultCleared m .readyInput) s = .next t.settle ∧ (t.moduleInputs m).ready = false ∧
        (t.converter m).cause = (s.converter m).cause ∧
        (t.converter m).state = (if (s.moduleInputs m).fault then .faulted else .outOfService) ∧
        ((s.port .t).isOpen = true → (s.moduleInputs m).fault = false → (t.port .t).notices.module.latest =
          some { berth := none, code := some 3, value := m.toNat, period := s.ge.period }) ∧
        ((s.moduleInputs m).fault = true → OnlyTouches [.inputs] s t) ∧
        OnlyTouches [.inputs, .link .t, .pool] s t)) ∧
    ((s.converter m).state ≠ .faulted →
      ∃ t : State, exec (.moduleFaultCleared m .faultInput) s = .next t.settle ∧ (t.moduleInputs m).fault = false ∧
        OnlyTouches [.inputs] s t) := by
  refine ⟨fun hst => ⟨?_, ?_⟩, fun hst => ?_⟩
  · obtain ⟨hin, hcause, hstate, hnotice, hquiet, hframe⟩ :=
      clearFault_answers (f := fun i => { i with fault := false }) rfl rfl hst
    exact ⟨_, event_next_eq (f := State.moduleClears m .faultInput) h
      (show _ = (s.modModuleInputs m fun i => { i with fault := false }).clearFault m from rfl), congrArg ModuleInputs.fault hin, hcause,
      by simpa using hstate, fun hopen hr => hnotice hopen rfl hr, fun hr => hquiet (.inr hr), hframe⟩
  · obtain ⟨hin, hcause, hstate, hnotice, hquiet, hframe⟩ :=
      clearFault_answers (f := fun i => { i with ready := false }) rfl rfl hst
    exact ⟨_, event_next_eq (f := State.moduleClears m .readyInput) h (if_neg (by rw [hst]; decide)),
      congrArg ModuleInputs.ready hin, hcause, by simpa using hstate, fun hopen hf => hnotice hopen hf rfl,
      fun hf => hquiet (.inl hf), hframe⟩
  · have he : State.moduleClears m .faultInput s = s.modModuleInputs m fun i => { i with fault := false } :=
      State.clearFault_stays (.inl hst)
    exact ⟨_, event_next_eq h he, by simp, State.onlyTouches_modModuleInputs _ _ _⟩

/-- A live berth on bus B without capacity is tripped before anything else that it does (R83; log entry 5). -/
theorem busLost_trips {s : State} {n : Ix} (hlive : s.isLive n = true) (hbus : (s.berth n).bus = .b) (hon : s.online = 0)
    (hbr : (s.berth n).breaker = .closed) : ∃ t : State, s.berthNext n = some t ∧ Tripped s n .busLost t ∧
      Consented s n .failed .tripped 0 t ∧ OnlyTouches (tripParts n) s t := by
  have htrip : s.trip n .busLost = s.tripTo n .busLost 0 .tripped none := by
    refine s.trip_eq (fun hst => ?_) (fun hst => ?_) <;>
      simp [State.isLive, State.berth, hst, BerthState.isLive] at hlive
  refine ⟨s.trip n .busLost, if_pos (by simp [State.busLost, hlive, hbus, hon]), ?_⟩
  rw [htrip]
  exact ⟨tripped_tripTo (by rw [hbr]; decide), s.consented_tripTo n .busLost 0 _ _, s.onlyTouches_tripTo n _ _ _ _⟩

/-- Settles O56: the start and the stop of a module, its inputs, and the trip of a berth that no module feeds. -/
theorem moduleEvents : Obligations.ModuleEvents := by
  refine ⟨fun s m h => ?_, fun s m h => ?_, fun s n => busLost_trips⟩
  · obtain ⟨hready, hready'⟩ := moduleReady_answers (m := m) h
    refine ⟨⟨?_, rfl⟩, hready, hready', fun hst hl => (startLimit_answers h hst hl).1, fun hst hl => (startLimit_answers h hst hl).2,
      fun _ => stopTimer_out h, fun hst => stopTimer_off h hst⟩
    unfold State.runCommand
    cases (s.converter m).state <;> simp [ModuleState.runCommand]
  · obtain ⟨hfault, hfault'⟩ := faultInput_answers (m := m) h
    obtain ⟨hlost, hlost'⟩ := readyLost_answers (m := m) h
    obtain ⟨hclear, hclear'⟩ := moduleFaultCleared_answers (m := m) h
    exact ⟨hfault, hfault', hlost, hlost', hclear, hclear'⟩

end Sys2Proof.Machine

namespace Sys2Proof.Machine

/-! ### MODULE_SERVICE (R84, R85, R164) -/

namespace State

/-- What a service order leaves in the other blocks. -/
@[simp] theorem fields_serveModule (m : Ix) (f : Converter → Converter) (s : State) :
    (s.serveModule m f).powered = s.powered ∧ (s.serveModule m f).now = s.now ∧ (s.serveModule m f).table = s.table ∧
    (s.serveModule m f).inputs = s.inputs ∧ (s.serveModule m f).oe = s.oe ∧ (s.serveModule m f).berths = s.berths ∧
    (s.serveModule m f).pru = s.pru ∧ (s.serveModule m f).cs = s.cs ∧ (s.serveModule m f).gi = s.gi ∧
    (s.serveModule m f).pending = s.pending := by
  simp [serveModule]

/-- The record of a module that a service order does not leave OFF. -/
theorem converter_serveModule {m : Ix} {f : Converter → Converter} {s : State} (h : (f (s.converter m)).state ≠ .off) :
    (s.serveModule m f).converter m = f (s.converter m) := by
  have hc : ((s.modConverter m f).trimAfterFall s.online).converter m = f (s.converter m) := by simp [converter]
  rw [serveModule, converter_startTest, hc]
  rwa [hc]

/-- A module may start at once behind a service order (R77, R84). -/
theorem converter_serveModule_cases (m : Ix) (f : Converter → Converter) (s : State) :
    (s.serveModule m f).converter m = f (s.converter m) ∨ (s.serveModule m f).converter m = (f (s.converter m)).start := by
  obtain ⟨u, hu⟩ : ∃ u, u = (s.modConverter m f).trimAfterFall s.online := ⟨_, rfl⟩
  have hc : u.converter m = f (s.converter m) := by rw [hu]; simp [converter]
  have he : s.serveModule m f = u.startTest := by rw [hu]; rfl
  rw [he, ← hc]
  obtain h1 | ⟨x, -, h1⟩ := u.startTest_cases
  · rw [h1]
    exact .inl rfl
  · rw [h1]
    by_cases hx : m = x
    · subst hx
      exact .inr (converter_startModule_same m u)
    · exact .inl (converter_startModule_ne u hx)

@[simp] theorem online_serveModule (m : Ix) (f : Converter → Converter) (s : State) :
    (s.serveModule m f).online = (s.modConverter m f).online := by
  simp [serveModule]

@[simp] theorem available_serveModule (m : Ix) (f : Converter → Converter) (s : State) :
    (s.serveModule m f).available = (s.modConverter m f).available := by
  rw [serveModule, available_startTest]
  exact available_of_modules (by simp)

/-- What MODULE_SERVICE leaves in the other blocks. -/
structure Serviced (s t : State) : Prop where
  powered : t.powered = s.powered
  now : t.now = s.now
  table : t.table = s.table
  inputs : t.inputs = s.inputs
  oe : t.oe = s.oe
  berths : t.berths = s.berths
  pru : t.pru = s.pru
  cs : t.cs = s.cs
  gi : t.gi = s.gi
  pending : t.pending = s.pending

theorem serviced_refl (s : State) : Serviced s s := ⟨rfl, rfl, rfl, rfl, rfl, rfl, rfl, rfl, rfl, rfl⟩

theorem serviced_modConverter (m : Ix) (f : Converter → Converter) (s : State) : Serviced s (s.modConverter m f) :=
  ⟨rfl, rfl, rfl, rfl, rfl, rfl, rfl, rfl, rfl, rfl⟩

theorem serviced_serveModule (m : Ix) (f : Converter → Converter) (s : State) : Serviced s (s.serveModule m f) := by
  constructor <;> simp

theorem serviced_moduleIn (m : Ix) (s : State) : Serviced s (s.moduleIn m).1 := by
  unfold moduleIn
  simp only
  split
  · exact serviced_refl s
  · split
    · exact serviced_serveModule _ _ _
    · dsimp only
      exact serviced_modConverter _ _ _
    · exact serviced_refl s
    · exact serviced_refl s
    · exact serviced_refl s
    · exact serviced_refl s

theorem serviced_moduleOut (m : Ix) (s : State) : Serviced s (s.moduleOut m).1 := by
  unfold moduleOut
  simp only
  split
  · exact serviced_refl s
  · split
    · exact serviced_serveModule _ _ _
    · exact serviced_serveModule _ _ _
    · split
      · exact serviced_serveModule _ _ _
      · exact serviced_refl s
    · dsimp only
      exact serviced_modConverter _ _ _
    · exact serviced_refl s
    · exact serviced_refl s

/-- MODULE_SERVICE IN of a module that is not FAULTED ends DONE with the counts after it (R84, R164). -/
theorem status_moduleIn {m : Ix} {s : State} (h : (s.converter m).state ≠ .faulted) :
    (s.moduleIn m).2 = doneWith (s.moduleIn m).1.available (s.moduleIn m).1.online := by
  unfold moduleIn
  simp only [h, if_false]
  rfl

/-- MODULE_SERVICE IN, by the state of the module (R84). -/
theorem converter_moduleIn (m : Ix) (s : State) :
    ((s.converter m).state = .outOfService →
      ((s.moduleIn m).1.converter m).state ∈ [.off, .starting] ∧ ((s.moduleIn m).1.converter m).cause = none) ∧
    ((s.converter m).state = .stopping → (s.moduleIn m).1.converter m = { s.converter m with outPending := false }) ∧
    ((s.converter m).state ∈ [.off, .starting, .online] → (s.moduleIn m).1.converter m = s.converter m) := by
  refine ⟨fun hst => ?_, fun hst => ?_, fun hst => ?_⟩
  · have he : (s.moduleIn m).1 = s.serveModule m fun _ => .rest .off none := by simp [moduleIn, hst]
    rw [he]
    obtain hc | hc := s.converter_serveModule_cases m fun _ => .rest .off none <;>
      rw [hc] <;> simp [Converter.rest, Converter.start]
  · simp [moduleIn, hst]
  · simp only [List.mem_cons, List.not_mem_nil, or_false] at hst
    rcases hst with hst | hst | hst <;> simp [moduleIn, hst]

theorem canSpare_iff {s : State} : s.canSpare = true ↔ s.heldFirmB ≤ Config.moduleKw * (s.online - 1) := decide_eq_true_iff

/-- MODULE_SERVICE OUT that the capacity allows ends DONE with the counts after it (R85, R164). -/
theorem status_moduleOut {m : Ix} {s : State} (h : (s.converter m).state = .online → s.canSpare = true) :
    (s.moduleOut m).2 = doneWith (s.moduleOut m).1.available (s.moduleOut m).1.online := by
  have hno : ¬ ((s.converter m).state = .online ∧ s.canSpare = false) := fun hc => by
    rw [h hc.1] at hc
    cases hc.2
  unfold moduleOut
  simp only [if_neg hno]
  rfl

/-- A module taken from service while it runs stops (R85). -/
theorem moduleOut_stops {m : Ix} {s : State} (hst : (s.converter m).state ∈ [.starting, .online])
    (h : (s.converter m).state = .online → s.canSpare = true) :
    (s.moduleOut m).1 = s.serveModule m (Converter.stop true) := by
  simp only [List.mem_cons, List.not_mem_nil, or_false] at hst
  rcases hst with hst | hst
  · simp [moduleOut, hst]
  · simp [moduleOut, hst, h hst]

/-- MODULE_SERVICE OUT, by the state of the module (R85). -/
theorem converter_moduleOut {m : Ix} {s : State} (h : (s.converter m).state = .online → s.canSpare = true) :
    ((s.converter m).state = .off → ((s.moduleOut m).1.converter m).state = .outOfService) ∧
    ((s.converter m).state ∈ [.starting, .online] → (s.moduleOut m).1.converter m = { s.converter m with
      state := .stopping, outPending := true, startLimit := none, stopTimer := some 10 }) ∧
    ((s.converter m).state = .stopping → (s.moduleOut m).1.converter m = { s.converter m with outPending := true }) ∧
    ((s.converter m).state ∈ [.outOfService, .faulted] → (s.moduleOut m).1.converter m = s.converter m) := by
  refine ⟨fun hst => ?_, fun hst => ?_, fun hst => ?_, fun hst => ?_⟩
  · have he : (s.moduleOut m).1 = s.serveModule m fun c => .rest .outOfService c.cause := by simp [moduleOut, hst]
    rw [he, converter_serveModule] <;> simp [Converter.rest]
  · rw [moduleOut_stops hst h, converter_serveModule] <;> simp [Converter.stop]
  · simp [moduleOut, hst]
  · simp only [List.mem_cons, List.not_mem_nil, or_false] at hst
    rcases hst with hst | hst <;> simp [moduleOut, hst]

/-- An ONLINE module taken from service takes one from KB and none from the available count (R73, R85). -/
theorem counts_moduleOut {m : Ix} {s : State} (hst : (s.converter m).state = .online) (h : s.canSpare = true) :
    (s.moduleOut m).1.online + 1 = s.online ∧ (s.moduleOut m).1.available = s.available := by
  rw [moduleOut_stops (by simp [hst]) fun _ => h, online_serveModule, available_serveModule]
  exact ⟨online_modConverter_lost hst (by simp [Converter.stop]), available_modConverter_eq (by simp [hst, Converter.stop]; rfl)⟩

end State

end Sys2Proof.Machine

namespace Sys2Proof.Machine

/-! ### The orders at port T -/

theorem Ix.ofNat_toNat (n : Ix) : Ix.ofNat? n.toNat = some n := by cases n <;> rfl

/-- A MODULE_SERVICE order at a ready port T ends with the record of its take (R164). -/
theorem moduleService_taken {s w u : State} {m : Ix} {stop : Bool} {module d : Byte} {c : Instr} {st : Status}
    (hc : orderRow c = some (.t, ⟨.moduleService module d, stop, 0⟩)) (h : PortReady s .t) (hd : d.toNat ≤ 1)
    (hm : module.toNat = m.toNat) (hw : w = s.withRunning .t ⟨.moduleService module d, stop, 0⟩)
    (hu : w.takeModuleService module d = (u, some st)) (hserved : State.Serviced w u) :
    ∃ t : State, t = u.endOrder (s.nextRef .t) st ∧ exec c s = .next t.settle ∧ OrderEnds c s st t ∧
      OnlyTouches ([.orders .t, .pool, .grants] ++ allLinks) s t := by
  have hk : (OrderRec.mk (.moduleService module d) stop 0).commonCheck .t = none :=
    commonCheck_terminal (n := .i0) rfl rfl (by have := Ix.toNat_le m; simp [Order.badArgument]; omega)
  obtain ⟨he, hends⟩ := order_ends hc h hk (by rw [← hw]; exact hu)
    (by rw [State.orders, hserved.oe, hw]; exact queue_withRunning)
  have htaken : OnlyTouches ([.orders .t, .pool, .grants] ++ allLinks) w (u.endOrder (s.nextRef .t) st) := by
    apply onlyTouches_allLinks <;>
      simp +contextual [hserved.powered, hserved.now, hserved.table, hserved.inputs, hserved.oe, hserved.berths, hserved.pru,
        hserved.cs, hserved.gi, hserved.pending, State.endOrder, State.nextRef]
  exact ⟨_, rfl, he, hends, onlyTouches_taken hw (List.mem_append_right _ (mem_allLinks _)) (by simp) htaken⟩

section

variable {s : State} {m : Ix} {stop : Bool} {module : Byte}

theorem State.takeModuleService_in (hm : module.toNat = m.toNat) (w : State) :
    w.takeModuleService module 0 = ((w.moduleIn m).1, some (w.moduleIn m).2) := by
  simp [takeModuleService, hm, Ix.ofNat_toNat]

theorem State.takeModuleService_out (hm : module.toNat = m.toNat) (w : State) :
    w.takeModuleService module 1 = ((w.moduleOut m).1, some (w.moduleOut m).2) := by
  simp [takeModuleService, hm, Ix.ofNat_toNat]

/-- The module and the counts after a MODULE_SERVICE IN are those of its take (R84, R164). -/
theorem moduleIn_taken (h : PortReady s .t) (hm : module.toNat = m.toNat) :
    ∃ w t : State, w.cp = s.cp ∧ t.cp = (w.moduleIn m).1.cp ∧ exec (.moduleServiceIn .t stop module) s = .next t.settle ∧
      OrderEnds (.moduleServiceIn .t stop module) s (w.moduleIn m).2 t ∧
      OnlyTouches ([.orders .t, .pool, .grants] ++ allLinks) s t := by
  obtain ⟨w, hw⟩ : ∃ w, w = s.withRunning .t ⟨.moduleService module 0, stop, 0⟩ := ⟨_, rfl⟩
  obtain ⟨t, ht, he, hends, hframe⟩ := moduleService_taken (c := .moduleServiceIn .t stop module) rfl h (by decide) hm hw
    (State.takeModuleService_in hm w) (State.serviced_moduleIn m w)
  exact ⟨w, t, by rw [hw]; rfl, by rw [ht]; rfl, he, hends, hframe⟩

/-- The module and the counts after a MODULE_SERVICE OUT are those of its take (R85, R164). -/
theorem moduleOut_taken (h : PortReady s .t) (hm : module.toNat = m.toNat) :
    ∃ w t : State, w.cp = s.cp ∧ w.heldFirmB = s.heldFirmB ∧ t.cp = (w.moduleOut m).1.cp ∧
      exec (.moduleServiceOut .t stop module) s = .next t.settle ∧
      OrderEnds (.moduleServiceOut .t stop module) s (w.moduleOut m).2 t ∧
      OnlyTouches ([.orders .t, .pool, .grants] ++ allLinks) s t := by
  obtain ⟨w, hw⟩ : ∃ w, w = s.withRunning .t ⟨.moduleService module 1, stop, 0⟩ := ⟨_, rfl⟩
  obtain ⟨t, ht, he, hends, hframe⟩ := moduleService_taken (c := .moduleServiceOut .t stop module) rfl h (by decide) hm hw
    (State.takeModuleService_out hm w) (State.serviced_moduleOut m w)
  exact ⟨w, t, by rw [hw]; rfl, by rw [hw]; rfl, by rw [ht]; rfl, he, hends, hframe⟩

/-- MODULE_SERVICE IN is refused for a FAULTED module (R84). -/
theorem moduleIn_refused (h : PortReady s .t) (hm : module.toNat = m.toNat) (hst : (s.converter m).state = .faulted) :
    Refuses (.moduleServiceIn .t stop module) s .badState := by
  have hk : (OrderRec.mk (.moduleService module 0) stop 0).commonCheck .t = none :=
    commonCheck_terminal (n := .i0) rfl rfl (by have := Ix.toNat_le m; simp [Order.badArgument]; omega)
  refine order_refuses rfl h hk ((State.takeModuleService_in hm _).trans ?_)
  have hst' : ((s.withRunning .t ⟨.moduleService module 0, stop, 0⟩).converter m).state = .faulted := hst
  unfold State.moduleIn
  simp only [hst', if_true]
  rfl

/-- MODULE_SERVICE OUT is refused where the capacity left would not carry the FirmB held (R85). -/
theorem moduleOut_refused (h : PortReady s .t) (hm : module.toNat = m.toNat) (hst : (s.converter m).state = .online)
    (hfirm : Config.moduleKw * (s.online - 1) < s.heldFirmB) :
    ∃ t : State, exec (.moduleServiceOut .t stop module) s = .next t.settle ∧
      OrderEnds (.moduleServiceOut .t stop module) s
        { verdict := .refused, code := .capacityNeeded, d1 := s.heldFirmB, d2 := s.busBCapacity } t ∧
      OnlyTouches [.link .t, .orders .t] s t := by
  have hk : (OrderRec.mk (.moduleService module 1) stop 0).commonCheck .t = none :=
    commonCheck_terminal (n := .i0) rfl rfl (by have := Ix.toNat_le m; simp [Order.badArgument]; omega)
  obtain ⟨w, hw⟩ : ∃ w, w = s.withRunning .t ⟨.moduleService module 1, stop, 0⟩ := ⟨_, rfl⟩
  have hspare : w.canSpare = false := by
    rw [hw]
    exact decide_eq_false (Nat.not_le.mpr hfirm)
  have hout : w.moduleOut m = (w, { verdict := .refused, code := .capacityNeeded, d1 := s.heldFirmB, d2 := s.busBCapacity }) := by
    have hst' : (w.converter m).state = .online := by rw [hw]; exact hst
    have hfirm' : w.heldFirmB = s.heldFirmB := by rw [hw]; rfl
    have hkb : w.busBCapacity = s.busBCapacity := by rw [hw]; rfl
    unfold State.moduleOut
    simp only [hst', hspare, hfirm', hkb, and_self, if_true]
  have htake := State.takeModuleService_out hm w
  rw [hout] at htake
  obtain ⟨he, hends⟩ := order_ends (c := .moduleServiceOut .t stop module) rfl h hk (by rw [← hw]; exact htake)
    (by rw [hw]; exact queue_withRunning)
  exact ⟨_, he, hends, onlyTouches_taken hw (by simp) (by simp)
    (onlyTouches_mono (onlyTouches_endOrder _ _) (by simp [State.nextRef]))⟩

end

/-! ### The FirmB that the Grant Engine holds (log entry 50) -/

/-- A berth with a firm figure on a bus is live or admitted (R109). -/
theorem State.holds_of_firmFigure {s : State} {n : Ix} (h : (s.firmFigure n).2 = .b) : s.isLive n = true ∨ s.isAdmitted n = true := by
  unfold firmFigure Berth.firmFromMeter Berth.firmFromDeclaration at h
  unfold isLive
  cases hst : (s.berth n).state <;> simp [hst, BerthState.isLive] at h ⊢
  all_goals
    by_contra hno
    simp [hno] at h

/-- The bus of a berth's firm figure (R109). -/
theorem State.firmFigure_bus (s : State) (n : Ix) : (s.firmFigure n).2 = if (s.berth n).firmFromMeter then (s.berth n).bus
    else if (s.berth n).firmFromDeclaration (s.isAdmitted n) then (s.berth n).declaredBus else .none := by
  simp only [firmFigure, apply_ite Prod.snd]

/-- It depends on the berth's state, its markers, its bus, its declared frequency and its admission. -/
theorem State.firmFigure_bus_congr {s t : State} {n : Ix} (hst : (t.berth n).state = (s.berth n).state)
    (hmark : (t.berth n).markerSet = (s.berth n).markerSet) (hbus : (t.berth n).bus = (s.berth n).bus)
    (hdecl : (t.berth n).declaredBus = (s.berth n).declaredBus) (hadm : t.isAdmitted n = s.isAdmitted n) :
    (t.firmFigure n).2 = (s.firmFigure n).2 := by
  have hmeter : (t.berth n).firmFromMeter = (s.berth n).firmFromMeter := by
    unfold Berth.firmFromMeter
    rw [hst, hmark]
  have hdeclared : ∀ a, (t.berth n).firmFromDeclaration a = (s.berth n).firmFromDeclaration a := fun a => by
    unfold Berth.firmFromDeclaration
    rw [hst, hmark]
  rw [firmFigure_bus, firmFigure_bus, hmeter, hdeclared, hadm, hbus, hdecl]

/-- The FirmB held depends on the buses of the firm figures and on the figures held. -/
theorem State.heldFirmB_congr {s t : State} (hbus : ∀ m, (t.firmFigure m).2 = (s.firmFigure m).2)
    (hfirm : ∀ m, (t.grantBerth m).firm = (s.grantBerth m).firm) : t.heldFirmB = s.heldFirmB := by
  unfold heldFirmB heldOnBut
  simp only [hbus, hfirm]

/-- A new O, H or reading alone does not move the FirmB held (R85, R129, R160). -/
theorem State.heldFirmB_of_figures {s : State} {n : Ix} (rating h : Nat) (x : Option (Nat × Nat)) {d : Declaration}
    (hd : (s.berth n).declaration = some d) :
    ((s.modBerth n fun b => { b with rating, declaration := some { d with h } }).modGrantBerth n fun g =>
      { g with reading := x }).heldFirmB = s.heldFirmB := by
  obtain ⟨t, ht⟩ : ∃ t, t = (s.modBerth n fun b => { b with rating, declaration := some { d with h } }).modGrantBerth n fun g =>
    { g with reading := x } := ⟨_, rfl⟩
  rw [← ht]
  refine heldFirmB_congr (fun m => ?_) fun m => ?_
  · by_cases hm : m = n
    · subst hm
      refine firmFigure_bus_congr ?_ ?_ ?_ ?_ ?_
      case refine_4 =>
        rw [Berth.declaredBus_of hd, Berth.declaredBus_of (d := { d with h }) (by rw [ht]; simp [berth])]
      all_goals simp [ht, berth, isAdmitted, grantBerth, Berth.markerSet]
    · have hb : t.berth m = s.berth m := by rw [ht]; simp [berth, hm]
      refine firmFigure_bus_congr (by rw [hb]) (by rw [hb]) (by rw [hb]) (by rw [hb]) ?_
      rw [ht]
      simp [isAdmitted, grantBerth, hm]
  · rw [ht]
    by_cases hm : m = n
    · subst hm
      simp [grantBerth]
    · simp [grantBerth, hm]

/-- Settles O26: what the two orders answer, what they do to their module, and the FirmB that they weigh. -/
theorem moduleServiceAnswers : Obligations.ModuleServiceAnswers := by
  refine ⟨fun s m stop module h hm => ⟨fun hst => ?_, moduleIn_refused h hm, moduleOut_refused h hm, fun hspare => ?_⟩,
    fun s m stop module h hm => ⟨?_, fun hspare => ?_⟩, fun s n => ⟨?_, State.holds_of_firmFigure,
      fun rating x r d hd => State.heldFirmB_of_figures rating x r hd⟩⟩
  · obtain ⟨w, t, hw, ht, he, hends, -⟩ := moduleIn_taken (stop := stop) h hm
    rw [State.status_moduleIn (by rw [State.converter_of_cp hw]; exact hst)] at hends
    rw [← State.available_of_modules (congrArg Pool.modules ht), ← State.online_of_modules (congrArg Pool.modules ht)] at hends
    exact ⟨t, he, hends⟩
  · obtain ⟨w, t, hw, hfirm, ht, he, hends, -⟩ := moduleOut_taken (stop := stop) h hm
    have hon := State.online_of_modules (congrArg Pool.modules hw)
    have hspare' : (w.converter m).state = .online → w.canSpare = true := fun hst => by
      rw [State.canSpare_iff, hon, hfirm]
      exact hspare (by rwa [State.converter_of_cp hw] at hst)
    have htav := State.available_of_modules (congrArg Pool.modules ht)
    have hton := State.online_of_modules (congrArg Pool.modules ht)
    rw [State.status_moduleOut hspare', ← htav, ← hton] at hends
    refine ⟨t, he, hends, fun hst => ?_⟩
    have hst' : (w.converter m).state = .online := by rw [State.converter_of_cp hw, hst]
    obtain ⟨hcount, havail⟩ := State.counts_moduleOut hst' (hspare' hst')
    rw [hton, htav, hcount, havail, hon]
    exact ⟨rfl, State.available_of_modules (congrArg Pool.modules hw)⟩
  · obtain ⟨w, t, hw, ht, he, -, hframe⟩ := moduleIn_taken (stop := stop) h hm
    have hc := State.converter_moduleIn m w
    rw [State.converter_of_cp hw, ← State.converter_of_cp ht] at hc
    obtain ⟨hout, hstop, hother⟩ := hc
    exact ⟨t, he, hout, hstop, hother, hframe⟩
  · obtain ⟨w, t, hw, hfirm, ht, he, -, hframe⟩ := moduleOut_taken (stop := stop) h hm
    have hc := State.converter_moduleOut (s := w) (m := m) fun hst => by
      rw [State.canSpare_iff, State.online_of_modules (congrArg Pool.modules hw), hfirm]
      exact hspare (by rwa [State.converter_of_cp hw] at hst)
    rw [State.converter_of_cp hw, ← State.converter_of_cp ht] at hc
    obtain ⟨hoff, hstop, hmark, hother⟩ := hc
    exact ⟨t, he, hoff, hstop, hmark, hother, hframe⟩
  · simp [State.heldFirmB, State.heldOnBut]

end Sys2Proof.Machine

/-! Support for the obligation about the period expiry: the choice of one berth or module among several, the publication, the
computation with its notices, and the switch of the grant sets with what it does to the flags. -/

namespace Sys2Proof.Machine

/-! ### The choice of one name among several -/

/-- One step of a choice: a candidate takes the place of the best so far where it stands over it. -/
def better (beats : Ix → Ix → Prop) [DecidableRel beats] (best : Option Ix) (m : Ix) : Option Ix :=
  match best with
  | none => some m
  | some n => if beats m n then some m else some n

theorem foldl_better_stays {beats : Ix → Ix → Prop} [DecidableRel beats] {n : Ix} {l : List Ix} (h : ∀ m ∈ l, ¬ beats m n) :
    l.foldl (better beats) (some n) = some n := by
  induction l with
  | nil => rfl
  | cons m l ih =>
    have hstep : better beats (some n) m = some n := if_neg (h m List.mem_cons_self)
    rw [List.foldl_cons, hstep]
    exact ih fun k hk => h k (List.mem_cons_of_mem _ hk)

theorem mem_foldl_better {beats : Ix → Ix → Prop} [DecidableRel beats] {x : Ix} {l : List Ix} :
    ∀ {best : Option Ix}, l.foldl (better beats) best = some x → best = some x ∨ x ∈ l := by
  induction l with
  | nil => exact fun h => .inl h
  | cons m l ih =>
    intro best h
    obtain hstep | hmem := ih h
    · cases best with
      | none =>
        simp only [better, Option.some.injEq] at hstep
        exact .inr (by simp [hstep])
      | some n =>
        simp only [better] at hstep
        split at hstep
        · exact .inr (by simp [Option.some.inj hstep])
        · exact .inl hstep
    · exact .inr (List.mem_cons_of_mem _ hmem)

/-- The list of the names below and above one of them. -/
theorem Ix.all_below_above (n : Ix) : ∃ before after, Ix.all = before ++ n :: after ∧ (∀ m ∈ before, m.toNat < n.toNat) ∧
    ∀ m ∈ after, n.toNat < m.toNat := by
  cases n
  case i0 => exact ⟨[], [.i1, .i2, .i3, .i4, .i5], by decide⟩
  case i1 => exact ⟨[.i0], [.i2, .i3, .i4, .i5], by decide⟩
  case i2 => exact ⟨[.i0, .i1], [.i3, .i4, .i5], by decide⟩
  case i3 => exact ⟨[.i0, .i1, .i2], [.i4, .i5], by decide⟩
  case i4 => exact ⟨[.i0, .i1, .i2, .i3], [.i5], by decide⟩
  case i5 => exact ⟨[.i0, .i1, .i2, .i3, .i4], [], by decide⟩

/-- The choice falls on the candidate that stands over every lower one and over which no higher one stands. -/
theorem choice_eq {beats : Ix → Ix → Prop} [DecidableRel beats] {test : Ix → Bool} {n : Ix} (hn : test n = true)
    (hb : ∀ m, test m = true → m.toNat < n.toNat → beats n m) (ha : ∀ m, test m = true → n.toNat < m.toNat → ¬ beats m n) :
    (Ix.all.filter test).foldl (better beats) none = some n := by
  obtain ⟨before, after, hall, hbefore, hafter⟩ := Ix.all_below_above n
  rw [hall, List.filter_append, List.filter_cons_of_pos hn, List.foldl_append, List.foldl_cons]
  have hstep : better beats ((before.filter test).foldl (better beats) none) n = some n := by
    cases hf : (before.filter test).foldl (better beats) none with
    | none => rfl
    | some x =>
      obtain hx | hx := mem_foldl_better hf
      · cases hx
      · obtain ⟨hmem, htest⟩ := List.mem_filter.mp hx
        exact if_pos (hb x htest (hbefore x hmem))
  rw [hstep]
  refine foldl_better_stays fun m hm => ?_
  obtain ⟨hmem, htest⟩ := List.mem_filter.mp hm
  exact ha m htest (hafter m hmem)

theorem Ix.mem_all (n : Ix) : n ∈ Ix.all := by cases n <;> decide

/-! ### The publication (R76, R77, R79) -/

namespace State

/-- The module with the most running seconds, the lower number between equals (R79). -/
theorem longestRunning_eq {s : State} {m : Ix} (hm : (s.converter m).state = .online)
    (h : ∀ k, (s.converter k).state = .online → k ≠ m → (s.converter k).seconds < (s.converter m).seconds ∨
      ((s.converter k).seconds = (s.converter m).seconds ∧ m.toNat < k.toNat)) : s.longestRunning = some m := by
  refine choice_eq (beats := fun k x => (s.converter x).seconds < (s.converter k).seconds)
    (test := fun k => decide ((s.converter k).state = .online)) (by simp [hm]) (fun k hk hlt => ?_) fun k hk hlt => ?_
  all_goals
    have hne : k ≠ m := fun he => by rw [he] at hlt; exact Nat.lt_irrefl _ hlt
    have := h k (by simpa using hk) hne
    omega

theorem tryStop_stops {s : State} {m : Ix} (hcount : s.cp.stopCount = 6) (hspare : s.heldFirmB ≤ 800 * (s.online - 1))
    (hm : s.longestRunning = some m) : s.tryStop =
      ((s.modConverter m (Converter.stop false)).modCp fun u => { u with stopCount := 0 }).trimAfterFall s.online := by
  unfold tryStop
  rw [if_pos ⟨hcount, canSpare_iff.mpr hspare⟩, hm]

theorem tryStop_quiet {s : State} (h : s.cp.stopCount ≠ 6 ∨ 800 * (s.online - 1) < s.heldFirmB) : s.tryStop = s := by
  refine if_neg fun hc => ?_
  obtain ⟨hcount, hspare⟩ := hc
  rcases h with h | h
  · exact h hcount
  · exact absurd (canSpare_iff.mp hspare) (Nat.not_le.mpr h)

/-- The target and the stop count of a publication (R76, R79). -/
def published (demand : Nat) (s : State) : State :=
  s.modCp fun u => { u with
    target := s.targetFor demand, stopCount := if s.targetFor demand < s.online then min 6 (u.stopCount + 1) else 0 }

theorem publish_eq (demand : Nat) (s : State) : s.publish demand =
    (if s.targetFor demand < s.online then (s.published demand).tryStop else s.published demand).startTest := rfl

theorem converter_published (demand : Nat) (s : State) (m : Ix) : (s.published demand).converter m = s.converter m := rfl

theorem counts_published (demand : Nat) (s : State) : (s.published demand).online = s.online ∧
    (s.published demand).starting = s.starting ∧ (s.published demand).heldFirmB = s.heldFirmB := ⟨rfl, rfl, rfl⟩

/-- A publication that stops nothing is the start test on the target published (R77). -/
theorem publish_keeps {demand : Nat} {s : State} (h : s.online ≤ s.targetFor demand ∨ (s.published demand).cp.stopCount ≠ 6 ∨
    800 * (s.online - 1) < s.heldFirmB) : s.publish demand = (s.published demand).startTest := by
  rw [publish_eq]
  split
  · rename_i hlt
    rw [tryStop_quiet (h.resolve_left (Nat.not_le.mpr hlt))]
  · rfl

/-- What the hysteresis stop leaves in the other blocks. -/
@[simp] theorem fields_tryStop (s : State) : s.tryStop.powered = s.powered ∧ s.tryStop.now = s.now ∧
    s.tryStop.table = s.table ∧ s.tryStop.inputs = s.inputs ∧ s.tryStop.link.get .t = s.link.get .t ∧ s.tryStop.oe = s.oe ∧
    s.tryStop.berths = s.berths ∧ s.tryStop.pru = s.pru ∧ s.tryStop.cs = s.cs ∧ s.tryStop.gi = s.gi ∧
    s.tryStop.pending = s.pending ∧ s.tryStop.cp.target = s.cp.target := by
  unfold tryStop
  split
  · split
    · simp
    · simp
  · simp

@[simp] theorem target_startTest (s : State) : s.startTest.cp.target = s.cp.target := by
  obtain he | ⟨m, -, he⟩ := s.startTest_cases <;> rw [he]
  rfl

@[simp] theorem fields_publish (demand : Nat) (s : State) : (s.publish demand).powered = s.powered ∧
    (s.publish demand).now = s.now ∧ (s.publish demand).table = s.table ∧ (s.publish demand).inputs = s.inputs ∧
    (s.publish demand).link.get .t = s.link.get .t ∧ (s.publish demand).oe = s.oe ∧ (s.publish demand).berths = s.berths ∧
    (s.publish demand).pru = s.pru ∧ (s.publish demand).cs = s.cs ∧ (s.publish demand).gi = s.gi ∧
    (s.publish demand).pending = s.pending ∧ (s.publish demand).cp.target = s.targetFor demand := by
  rw [publish_eq]
  split <;> simp [published]

end State

/-- The hysteresis stop (R79): the module with the most running seconds stops, and both sets are trimmed to what is left. -/
theorem publish_stops {s : State} {demand : Nat} {m : Ix} (hlt : s.targetFor demand < s.online) (hcount : s.cp.stopCount + 1 ≥ 6)
    (hspare : s.heldFirmB ≤ 800 * (s.online - 1)) (hm : (s.converter m).state = .online)
    (hmost : ∀ k, (s.converter k).state = .online → k ≠ m → (s.converter k).seconds < (s.converter m).seconds ∨
      ((s.converter k).seconds = (s.converter m).seconds ∧ m.toNat < k.toNat)) :
    (s.publish demand).cp = { s.cp with
      target := s.targetFor demand, stopCount := 0, modules := (s.publish demand).cp.modules } ∧
    (s.publish demand).converter m = { s.converter m with
      state := .stopping, outPending := false, startLimit := none, stopTimer := some 10 } ∧
    (∀ k, k ≠ m → (s.publish demand).converter k = s.converter k) ∧ (s.publish demand).runCommand m = false ∧
    (s.publish demand).online + 1 = s.online ∧
    (s.publish demand).ge = { s.ge with
      active := s.ge.active.trim (s.publish demand).busBCapacity
      staged := s.ge.staged.trim (s.publish demand).busBCapacity } ∧
    OnlyTouches ([.pool, .grants] ++ Ix.all.map fun n => .link (.v n)) s (s.publish demand) := by
  obtain ⟨v, hv⟩ : ∃ v, v = ((s.published demand).modConverter m (Converter.stop false)).modCp
    fun u => { u with stopCount := 0 } := ⟨_, rfl⟩
  have hfall : v.online + 1 = s.online := by
    rw [hv]
    exact State.online_modConverter_lost (s := s.published demand) hm (by simp [Converter.stop])
  have htarget : v.cp.target = s.targetFor demand := by rw [hv]; rfl
  have hstop : (s.published demand).tryStop = v.trimAfterFall s.online := by
    rw [hv, State.tryStop_stops (s := s.published demand) ?_ hspare (State.longestRunning_eq hm hmost)]
    · rfl
    · show (if s.targetFor demand < s.online then min 6 (s.cp.stopCount + 1) else 0) = 6
      rw [if_pos hlt]
      omega
  have hquiet : (v.trimAfterFall s.online).startTest = v.trimAfterFall s.online := by
    refine State.startTest_quiet (.inl fun hdue => ?_)
    obtain ⟨hdue, -⟩ := hdue
    rw [State.online_trimAfterFall, (State.fields_trimAfterFall s.online v).2.2.2.2.2.2.2.2.1, htarget] at hdue
    omega
  have he : s.publish demand = v.trimAfterFall s.online := by
    rw [State.publish_eq, if_pos hlt, hstop, hquiet]
  have hcp : (v.trimAfterFall s.online).cp = v.cp := by simp
  have hlink : ∀ p, (∀ n, p ≠ .v n) → (v.trimAfterFall s.online).link.get p = s.link.get p := fun p hp => by
    cases p with
    | t => rw [State.link_trimAfterFall_t, hv]; rfl
    | v n => exact absurd rfl (hp n)
  rw [he, State.runCommand, State.converter_of_cp hcp, State.online_trimAfterFall, State.busBCapacity_trimAfterFall, hcp,
    State.ge_trimAfterFall (by omega)]
  refine ⟨by rw [hv]; rfl, ?_, fun k hk => ?_, ?_, hfall, by rw [hv]; rfl, ?_⟩
  · rw [hv]
    simp [State.converter, Converter.stop, State.published]
  · rw [State.converter_of_cp hcp, hv]
    simp [State.converter, hk, State.published]
  · rw [hv]
    simp [State.converter, Converter.stop, ModuleState.runCommand]
  · apply onlyTouches_of_fields
    case link =>
      refine fun p hp => hlink p fun n hn => hp ?_
      rw [hn]
      exact List.mem_append_right _ (List.mem_map_of_mem (Ix.mem_all n))
    all_goals simp [hv, State.published]

/-- A publication that stops nothing, and what the start test does behind it (R76, R77). -/
theorem publish_quiet {s : State} {demand : Nat} {m : Ix} (h : s.publish demand = (s.published demand).startTest) :
    OnlyTouches [.pool] s (s.publish demand) ∧
    (s.targetFor demand ≤ s.online + s.starting ∨ 0 < s.starting ∨ (∀ k, (s.converter k).state ≠ .off) →
      (s.publish demand).cp = (s.published demand).cp) ∧
    (∀ before behind, s.online + s.starting < s.targetFor demand → s.starting = 0 →
      s.cp.pointer.circle = before ++ m :: behind →
      (∀ x ∈ before, (s.converter x).state ≠ .off) → (s.converter m).state = .off →
      (s.publish demand).cp = { (s.published demand).cp with pointer := m.next, modules := (s.publish demand).cp.modules } ∧
      (s.publish demand).converter m = { s.converter m with state := .starting, seconds := 0, startLimit := some 30 } ∧
      (s.publish demand).runCommand m = true ∧ ∀ k, k ≠ m → (s.publish demand).converter k = s.converter k) := by
  rw [h]
  refine ⟨onlyTouches_trans (onlyTouches_modCp _) (State.onlyTouches_startTest _), fun hno => ?_,
    fun before behind hlt hz hc hb hm => ?_⟩
  · have hquiet : (s.published demand).startTest = s.published demand := by
      refine State.startTest_quiet ?_
      by_cases hoff : ∀ k, (s.converter k).state ≠ .off
      · exact .inr hoff
      · refine .inl fun hdue => ?_
        obtain ⟨hdue, hfree⟩ := hdue
        have hdue' : s.online + s.starting < s.targetFor demand := hdue
        have hfree' : s.starting = 0 := hfree
        rcases hno with h | h | h
        · omega
        · omega
        · exact hoff h
    rw [hquiet]
  · rw [State.startTest_starts (s := s.published demand) ⟨hlt, hz⟩ hc hb hm, State.runCommand, State.converter_startModule_same]
    exact ⟨rfl, rfl, rfl, fun k hk => State.converter_startModule_ne _ hk⟩

end Sys2Proof.Machine

namespace Sys2Proof.Machine

/-! ### Notices and nothing else -/

/-- The same part with another Link Unit. -/
def State.withLink (l : PortMap LinkPort) (s : State) : State := { s with link := l }

/-- From `s` to `t` notices have been posted, and nothing else has changed (R179). -/
structure NoticesOnly (s t : State) : Prop where
  rest : t = s.withLink t.link
  isOpen : ∀ p, (t.port p).isOpen = (s.port p).isOpen
  masked : ∀ p c, ((t.port p).notices.get c).masked = ((s.port p).notices.get c).masked

/-- A notice class of a port reads as before. -/
def NoticeKept (p : Port) (c : NoticeClass) (s t : State) : Prop := (t.port p).notices.get c = (s.port p).notices.get c

theorem NoticeKept.refl (p : Port) (c : NoticeClass) (s : State) : NoticeKept p c s s := rfl

theorem NoticeKept.trans {p : Port} {c : NoticeClass} {s t u : State} (h : NoticeKept p c s t) (h' : NoticeKept p c t u) :
    NoticeKept p c s u := Eq.trans h' h

theorem NoticesOnly.refl (s : State) : NoticesOnly s s := ⟨rfl, fun _ => rfl, fun _ _ => rfl⟩

theorem NoticesOnly.trans {s t u : State} (h : NoticesOnly s t) (h' : NoticesOnly t u) : NoticesOnly s u := by
  refine ⟨?_, fun p => (h'.isOpen p).trans (h.isOpen p), fun p c => (h'.masked p c).trans (h.masked p c)⟩
  have hu := h'.rest
  rw [h.rest] at hu
  exact hu

theorem NoticesOnly.ge {s t : State} (h : NoticesOnly s t) : t.ge = s.ge := by rw [h.rest]; rfl

theorem noticesOnly_notify (p : Port) (c : NoticeClass) (b : Option Ix) (k v : Nat) (s : State) :
    NoticesOnly s (s.notify p c b k v) :=
  ⟨rfl, fun q => s.isOpen_notify p q c b k v, fun _ _ => State.masked_notify⟩

theorem noticesOnly_notifyGrant (n : Ix) (c v k : Nat) (s : State) : NoticesOnly s (s.notifyGrant n c v k) :=
  ⟨rfl, fun p => (grantsNoticed_notifyGrant n c v k p s).isOpen, fun p => (grantsNoticed_notifyGrant n c v k p s).masked⟩

theorem noticesOnly_forEach {α : Type} {f : α → State → State} {s : State} (hf : ∀ a u, NoticesOnly u (f a u)) (l : List α) :
    NoticesOnly s (s.forEach l f) :=
  keep_forEach (P := NoticesOnly s) (fun a u hu => hu.trans (hf a u)) l (.refl s)

/-- A notice of another port leaves a port. -/
theorem noticeKept_notify_ne {p q : Port} (c c' : NoticeClass) (b : Option Ix) (k v : Nat) (s : State) (h : q ≠ p) :
    NoticeKept q c' s (s.notify p c b k v) := by
  rw [NoticeKept, State.port, State.link_notify_ne s c b k v h, State.port]

/-- A notice given behind others, with nothing of its class at its port behind it (R179). -/
theorem noticed_of_notify {s u t : State} {p : Port} {c : NoticeClass} {b : Option Ix} {k v : Nat} (hu : NoticesOnly s u)
    (ht : NoticesOnly (u.notify p c b k v) t) (hk : NoticeKept p c (u.notify p c b k v) t) : Noticed s t p c b k v := by
  intro hopen
  rw [ht.isOpen, State.port, State.isOpen_notify] at hopen
  rw [hk, State.port, u.notices_notify p c b k v hopen, hu.ge]
  have hm := hu.masked p c
  rw [State.port] at hm
  cases hy : (u.link.get p).notices.get c
  cases hs : (s.port p).notices.get c
  rw [hy, hs] at hm
  simp only at hm ⊢
  rw [hm]

/-! ### Firm figures (R109) -/

/-- A berth's firm figure depends on its record, its admission and its reading. -/
theorem State.firmFigure_congr {s t : State} {n : Ix} (hb : t.berth n = s.berth n) (ha : t.isAdmitted n = s.isAdmitted n)
    (hs : (t.grantBerth n).sinceAdoption = (s.grantBerth n).sinceAdoption) (hr : (t.grantBerth n).reading = (s.grantBerth n).reading) :
    t.firmFigure n = s.firmFigure n := by
  have hadopted : t.adoptedFirm n = s.adoptedFirm n := by
    unfold adoptedFirm
    rw [hb, hs, hr]
  unfold firmFigure
  rw [hb, ha, hadopted]

theorem State.firmOnBut_congr {s t : State} (h : ∀ n, t.firmFigure n = s.firmFigure n) (bus : Bus) (skip : Option Ix) :
    t.firmOnBut bus skip = s.firmOnBut bus skip := by
  unfold firmOnBut
  simp only [h]

theorem State.firmB_congr {s t : State} (h : ∀ n, t.firmFigure n = s.firmFigure n) : t.firmB = s.firmB := firmOnBut_congr h .b none

theorem State.firmImport_congr {s t : State} (h : ∀ n, t.firmFigure n = s.firmFigure n) (ht : t.table = s.table) :
    t.firmImport = s.firmImport := by
  unfold firmImport firmA efficiency param
  rw [firmOnBut_congr h, firmB_congr h, ht]

/-! ### The choice of R127 -/

namespace State

/-- The berths that may be advised to return: ON_SHORE or ADOPTED (R127). -/
def canReturn (s : State) (n : Ix) : Bool := decide ((s.berth n).state = .onShore) || decide ((s.berth n).state = .adopted)

/-- Those of them on bus B. -/
def canReturnB (s : State) (n : Ix) : Bool := s.canReturn n && decide ((s.berth n).bus = .b)

theorem canReturn_iff {s : State} {n : Ix} : s.canReturn n = true ↔ (s.berth n).state ∈ [.onShore, .adopted] := by
  simp [canReturn]

theorem canReturnB_iff {s : State} {n : Ix} :
    s.canReturnB n = true ↔ (s.berth n).state ∈ [.onShore, .adopted] ∧ (s.berth n).bus = .b := by
  simp [canReturnB, canReturn]

theorem advised_eq (s : State) (test : Ix → Bool) :
    s.advised test = (Ix.all.filter test).foldl (better fun m n => s.advisedOver m n = true) none := rfl

theorem advisedOver_iff {s : State} {m n : Ix} : s.advisedOver m n = true ↔ s.adviceRank n < s.adviceRank m ∨
    (s.adviceRank n = s.adviceRank m ∧ (s.grantBerth n).connected ≤ (s.grantBerth m).connected) := by
  simp [advisedOver]

/-- The berth of R127 is the one advised. -/
theorem advised_of_next {s : State} {test : Ix → Bool} {n : Ix} (h : AdvisedNext s (fun m => test m = true) n) :
    s.advised test = some n := by
  obtain ⟨hn, hover⟩ := h
  rw [advised_eq]
  refine choice_eq hn (fun m hm hlt => ?_) fun m hm hlt => ?_
  all_goals
    have hne : m ≠ n := fun he => by rw [he] at hlt; exact Nat.lt_irrefl _ hlt
    have := hover m hm hne
    rw [advisedOver_iff]
    omega

/-- Where there is a candidate there is a berth of R127: the candidate that is last by rank, connection time and number. -/
theorem exists_advisedNext {s : State} {test : Ix → Bool} {m : Ix} (hm : test m = true) :
    ∃ n, AdvisedNext s (fun k => test k = true) n := by
  have hne : (Ix.all.filter test).toFinset.Nonempty := ⟨m, List.mem_toFinset.mpr (List.mem_filter.mpr ⟨Ix.mem_all m, hm⟩)⟩
  obtain ⟨n, hn, hmax⟩ := (Ix.all.filter test).toFinset.exists_max_image
    (fun k => toLex (s.adviceRank k, toLex ((s.grantBerth k).connected, k.toNat))) hne
  simp only [List.mem_toFinset, List.mem_filter, Ix.mem_all, true_and] at hn hmax
  refine ⟨n, hn, fun k hk hkn => ?_⟩
  have hle := hmax k hk
  have hnum : k.toNat ≠ n.toNat := fun he => hkn (toNat_injective he)
  simp only [Prod.Lex.le_iff, ofLex_toLex] at hle
  omega

theorem advised_none {s : State} {test : Ix → Bool} (h : ∀ m, test m = false) : s.advised test = none := by
  rw [advised_eq, List.filter_eq_nil_iff.mpr (by simp [h])]
  rfl

/-- The berth advised is that of R127. -/
theorem advised_iff {s : State} {test : Ix → Bool} {n : Ix} :
    s.advised test = some n ↔ AdvisedNext s (fun m => test m = true) n := by
  refine ⟨fun h => ?_, advised_of_next⟩
  by_cases hno : ∀ m, test m = false
  · rw [advised_none hno] at h
    cases h
  · push Not at hno
    obtain ⟨m, hm⟩ := hno
    obtain ⟨k, hk⟩ := exists_advisedNext (s := s) (Bool.eq_true_of_not_eq_false hm)
    rw [advised_of_next hk, Option.some.injEq] at h
    rwa [← h]

theorem advised_congr {s t : State} (hr : ∀ n, t.adviceRank n = s.adviceRank n)
    (hc : ∀ n, (t.grantBerth n).connected = (s.grantBerth n).connected) (test : Ix → Bool) : t.advised test = s.advised test := by
  have hover : t.advisedOver = s.advisedOver := by
    funext m n
    simp only [advisedOver, hr, hc]
  unfold advised
  rw [hover]

/-! ### The steps of a computation (R105, R106, R110, R126, R127) -/

/-- The Grant Engine as a computation leaves it: the new pending set, the firm figures held, and the over flags. -/
def withComputation (s : State) : State :=
  s.modGe fun g => { g with
    staged := s.stagedSet, berths := s.formedFigures
    overCeiling := decide (s.ge.active.a < s.firmImport), overCapacity := decide (s.busBCapacity < s.firmB) }

/-- The return advice to a berth, and to port T (R127). -/
def adviseTo (chosen : Option Ix) (code deficit : Nat) (s : State) : State :=
  match chosen with
  | some n => (s.notify (.v n) .returnAdvice (some n) code deficit).notify .t .returnAdvice (some n) code deficit
  | none => s

theorem advise_eq (test : Ix → Bool) (code deficit : Nat) (s : State) :
    s.advise test code deficit = s.adviseTo (s.advised test) code deficit := rfl

/-- The CEILING notices of a computation (R126). -/
def ceilingJudged (s : State) : State :=
  (s.withComputation.judgeFlag s.ge.overCeiling s.firmImport s.ge.active.a .overCeilingOn .overCeilingOff).judgeFlag
    s.ge.overCapacity s.firmB s.busBCapacity .overCapacityOn .overCapacityOff

/-- The return advice for OVER_CEILING (R127). -/
def ceilingAdvised (s : State) : State :=
  if s.ge.active.a < s.firmImport then
    s.ceilingJudged.adviseTo (s.advised s.canReturn) 3 (s.firmImport - s.ge.active.a)
  else s.ceilingJudged

/-- The return advice for OVER_CAPACITY (R127). -/
def capacityAdvised (s : State) : State :=
  if s.busBCapacity < s.firmB then
    s.ceilingAdvised.adviseTo (s.advised s.canReturnB) 4 (s.firmB - s.busBCapacity)
  else s.ceilingAdvised

theorem judgeFlag_on {s : State} {need room : Nat} {on off : CeilingCode} (h : room < need) :
    s.judgeFlag false need room on off = s.notifyCeiling on (need - room) := if_pos ⟨rfl, h⟩

theorem judgeFlag_off {s : State} {need room : Nat} {on off : CeilingCode} (h : need ≤ room) :
    s.judgeFlag true need room on off = s.notifyCeiling off (room - need) :=
  (if_neg fun hc => Bool.noConfusion hc.1).trans (if_pos ⟨rfl, h⟩)

/-- A flag that does not change gives no notice. -/
theorem judgeFlag_same {s : State} {old : Bool} {need room : Nat} {on off : CeilingCode} (h : decide (room < need) = old) :
    s.judgeFlag old need room on off = s := by
  unfold judgeFlag
  cases old with
  | false =>
    have := of_decide_eq_false h
    rw [if_neg fun hc => this hc.2, if_neg fun hc => Bool.noConfusion hc.1]
  | true =>
    have := of_decide_eq_true h
    rw [if_neg fun hc => Bool.noConfusion hc.1, if_neg fun hc => Nat.not_le.mpr this hc.2]

theorem noticesOnly_judgeFlag (old : Bool) (need room : Nat) (on off : CeilingCode) (s : State) :
    NoticesOnly s (s.judgeFlag old need room on off) := by
  unfold judgeFlag
  split
  · exact noticesOnly_notify _ _ _ _ _ s
  · split
    · exact noticesOnly_notify _ _ _ _ _ s
    · exact .refl s

/-- The over flags give CEILING notices at port T alone. -/
theorem noticeKept_judgeFlag {p : Port} {c : NoticeClass} (h : c ≠ .ceiling) (old : Bool) (need room : Nat) (on off : CeilingCode)
    (s : State) : NoticeKept p c s (s.judgeFlag old need room on off) := by
  unfold judgeFlag
  split
  · exact notify_other_class h
  · split
    · exact notify_other_class h
    · exact .refl p c s

theorem noticesOnly_adviseTo (chosen : Option Ix) (code deficit : Nat) (s : State) :
    NoticesOnly s (s.adviseTo chosen code deficit) := by
  unfold adviseTo
  split
  · exact (noticesOnly_notify _ _ _ _ _ s).trans (noticesOnly_notify _ _ _ _ _ _)
  · exact .refl s

theorem noticeKept_adviseTo_class {p : Port} {c : NoticeClass} (h : c ≠ .returnAdvice) (chosen : Option Ix) (code deficit : Nat)
    (s : State) : NoticeKept p c s (s.adviseTo chosen code deficit) := by
  unfold adviseTo
  split
  · exact .trans (notify_other_class h) (notify_other_class h)
  · exact .refl p c s

/-- A berth that is not the one advised gets no advice. -/
theorem noticeKept_adviseTo_ne {n : Ix} {c : NoticeClass} {chosen : Option Ix} (h : chosen ≠ some n) (code deficit : Nat)
    (s : State) : NoticeKept (.v n) c s (s.adviseTo chosen code deficit) := by
  unfold adviseTo
  split
  · rename_i m
    exact (noticeKept_notify_ne _ _ _ _ _ _ fun he => h (by cases he; rfl)).trans (noticeKept_notify_ne _ _ _ _ _ _ (by simp))
  · exact .refl _ c s

/-- The advice reaches its berth and port T. -/
theorem noticed_adviseTo {s u t : State} {n : Ix} {p : Port} {k v : Nat} (hu : NoticesOnly s u)
    (ht : NoticesOnly (u.adviseTo (some n) k v) t) (hk : NoticeKept p .returnAdvice (u.adviseTo (some n) k v) t)
    (hp : p = .t ∨ p = .v n) : Noticed s t p .returnAdvice (some n) k v := by
  rcases hp with rfl | rfl
  · exact noticed_of_notify (hu.trans (noticesOnly_notify _ _ _ _ _ u)) ht hk
  · exact noticed_of_notify hu ((noticesOnly_notify _ _ _ _ _ _).trans ht)
      ((noticeKept_notify_ne _ _ _ _ _ _ (by simp)).trans hk)

theorem noticesOnly_announceStaged (s : State) : NoticesOnly s s.announceStaged :=
  noticesOnly_forEach (fun n u => by
    split
    · exact noticesOnly_notifyGrant _ _ _ _ u
    · exact .refl u) _

theorem noticeKept_announceStaged {p : Port} {c : NoticeClass} (h : c ≠ .grant) (s : State) : NoticeKept p c s s.announceStaged :=
  keep_forEach (P := NoticeKept p c s) (fun n u hu => by
    split
    · exact hu.trans ((grantsNoticed_notifyGrant n _ _ _ p u).others c h)
    · exact hu) _ rfl

theorem noticesOnly_ceilingJudged (s : State) : NoticesOnly s.withComputation s.ceilingJudged :=
  (noticesOnly_judgeFlag _ _ _ _ _ _).trans (noticesOnly_judgeFlag _ _ _ _ _ _)

theorem noticesOnly_ceilingAdvised (s : State) : NoticesOnly s.ceilingJudged s.ceilingAdvised := by
  unfold ceilingAdvised
  split
  · exact noticesOnly_adviseTo _ _ _ _
  · exact .refl _

theorem noticesOnly_capacityAdvised (s : State) : NoticesOnly s.ceilingAdvised s.capacityAdvised := by
  unfold capacityAdvised
  split
  · exact noticesOnly_adviseTo _ _ _ _
  · exact .refl _

/-! ### A computation is its steps -/

/-- The new sets and figures leave every firm figure as it is formed. -/
theorem firmFigure_of_staged {s t : State} (h : t = s.modGe fun g => { g with staged := s.stagedSet, berths := s.formedFigures })
    (n : Ix) : t.firmFigure n = s.firmFigure n := by
  refine firmFigure_congr (by rw [h]; rfl) ?_ ?_ ?_ <;>
    simp [h, isAdmitted, grantBerth, formedFigures]

theorem firmFigure_withComputation (s : State) (n : Ix) : s.withComputation.firmFigure n = s.firmFigure n := by
  refine firmFigure_congr rfl ?_ ?_ ?_ <;>
    simp [withComputation, isAdmitted, grantBerth, formedFigures]

theorem connected_withComputation (s : State) (n : Ix) :
    (s.withComputation.grantBerth n).connected = (s.grantBerth n).connected := by
  simp [withComputation, grantBerth, formedFigures]

/-- The flags are judged by the figures formed at the computation. -/
theorem judgeFlags_of_staged {s t : State} (h : t = s.modGe fun g => { g with staged := s.stagedSet, berths := s.formedFigures }) :
    t.judgeFlags = s.ceilingJudged := by
  have hfig := firmFigure_of_staged h
  have htab : t.table = s.table := by rw [h]; rfl
  have hkb : t.busBCapacity = s.busBCapacity := by rw [h]; rfl
  have hold : t.ge.overCeiling = s.ge.overCeiling ∧ t.ge.overCapacity = s.ge.overCapacity ∧ t.ge.active = s.ge.active := by
    rw [h]; exact ⟨rfl, rfl, rfl⟩
  obtain ⟨hoc, hok, hact⟩ := hold
  have hset : (t.modGe fun g => { g with
      overCeiling := decide (s.ge.active.a < s.firmImport), overCapacity := decide (s.busBCapacity < s.firmB) }) =
      s.withComputation := by rw [h]; rfl
  unfold judgeFlags ceilingJudged
  simp only [firmImport_congr hfig htab, firmB_congr hfig, hkb, hoc, hok, hact, hset]

/-- What the Link Unit holds has no part in the choice and the deficits of the advice. -/
theorem adviseReturns_of_judged {s t : State} (h : NoticesOnly s.withComputation t) (hz : t = s.ceilingJudged) :
    t.adviseReturns = s.capacityAdvised := by
  have hfig : ∀ n, t.firmFigure n = s.firmFigure n := fun n => by
    rw [h.rest]
    exact s.firmFigure_withComputation n
  have htab : t.table = s.table := by rw [h.rest]; rfl
  have hkb : t.busBCapacity = s.busBCapacity := by rw [h.rest]; rfl
  have hrank : ∀ l n, (s.withComputation.withLink l).adviceRank n = s.adviceRank n := fun _ _ => rfl
  have hchosen : ∀ (u : State) (test : Ix → Bool), NoticesOnly s.withComputation u → u.advised test = s.advised test := by
    intro u test hu
    rw [hu.rest]
    exact advised_congr (hrank _) (s.connected_withComputation) test
  have hge : t.ge = s.withComputation.ge := h.ge
  have hover : t.ge.overCeiling = decide (s.ge.active.a < s.firmImport) ∧
      t.ge.overCapacity = decide (s.busBCapacity < s.firmB) ∧ t.ge.active = s.ge.active := by rw [hge]; exact ⟨rfl, rfl, rfl⟩
  obtain ⟨hoc, hok, hact⟩ := hover
  have hcand : (fun n => decide ((t.berth n).state = .onShore) || decide ((t.berth n).state = .adopted)) = s.canReturn := by
    rw [h.rest]; rfl
  have hcandB : (fun n => (decide ((t.berth n).state = .onShore) || decide ((t.berth n).state = .adopted)) &&
      decide ((t.berth n).bus = .b)) = s.canReturnB := by
    rw [h.rest]; rfl
  have hfirst : (if t.ge.overCeiling then t.advise s.canReturn 3 (t.firmImport - t.ge.active.a) else t) = s.ceilingAdvised := by
    unfold ceilingAdvised
    rw [advise_eq, hchosen t _ h, firmImport_congr hfig htab, hact, hoc, ← hz]
    simp only [decide_eq_true_eq]
  unfold adviseReturns
  simp only [hcand, hcandB]
  rw [hfirst]
  unfold capacityAdvised
  rw [advise_eq, hchosen _ _ (h.trans (hz ▸ s.noticesOnly_ceilingAdvised)), firmB_congr hfig, hkb, hok]
  simp only [decide_eq_true_eq]

theorem compute_eq (s : State) : s.compute = s.capacityAdvised.announceStaged := by
  unfold compute
  rw [judgeFlags_of_staged rfl, adviseReturns_of_judged s.noticesOnly_ceilingJudged rfl]

/-- A computation gives the Grant Engine its new set, figures and flags, and posts notices (R105, R106, R126, R127). -/
theorem noticesOnly_compute (s : State) : NoticesOnly s.withComputation s.compute := by
  rw [compute_eq]
  exact ((s.noticesOnly_ceilingJudged.trans s.noticesOnly_ceilingAdvised).trans s.noticesOnly_capacityAdvised).trans
    (noticesOnly_announceStaged _)

theorem ge_compute (s : State) : s.compute.ge = s.withComputation.ge := s.noticesOnly_compute.ge

end State

end Sys2Proof.Machine

namespace Sys2Proof.Machine

/-! ### The notices of a computation -/

namespace State

/-- Behind the over flags only the other classes of port T change. -/
theorem noticeKept_behindJudged {c : NoticeClass} (h : c ≠ .returnAdvice) (h' : c ≠ .grant) (p : Port) (s : State) :
    NoticeKept p c s.ceilingJudged s.compute := by
  have hceiling : NoticeKept p c s.ceilingJudged s.ceilingAdvised := by
    unfold ceilingAdvised
    split
    · exact noticeKept_adviseTo_class h _ _ _ _
    · exact .refl _ _ _
  have hcapacity : NoticeKept p c s.ceilingAdvised s.capacityAdvised := by
    unfold capacityAdvised
    split
    · exact noticeKept_adviseTo_class h _ _ _ _
    · exact .refl _ _ _
  rw [compute_eq]
  exact hceiling.trans (hcapacity.trans (noticeKept_announceStaged h' _))

theorem noticesOnly_behindJudged (s : State) : NoticesOnly s.ceilingJudged s.compute := by
  rw [compute_eq]
  exact (s.noticesOnly_ceilingAdvised.trans s.noticesOnly_capacityAdvised).trans (noticesOnly_announceStaged _)

/-- A CEILING notice that the judging of the flags ends with is the latest of the computation. -/
theorem noticed_ceiling {s u : State} {k : CeilingCode} {v : Nat} (hu : NoticesOnly s.withComputation u)
    (hj : s.ceilingJudged = u.notifyCeiling k v) : Noticed s s.compute .t .ceiling none k.number v := by
  have hrest := s.noticesOnly_behindJudged
  have hkept := s.noticeKept_behindJudged (c := .ceiling) (by decide) (by decide) .t
  rw [hj] at hrest hkept
  exact noticed_of_notify (s := s.withComputation) hu hrest hkept

/-- OVER_CAPACITY has changed: its notice comes last. -/
theorem noticed_capacity_on {s : State} (hold : s.ge.overCapacity = false) (h : s.busBCapacity < s.firmB) :
    Noticed s s.compute .t .ceiling none 7 (s.firmB - s.busBCapacity) := by
  refine noticed_ceiling (k := .overCapacityOn)
    (noticesOnly_judgeFlag s.ge.overCeiling s.firmImport s.ge.active.a .overCeilingOn .overCeilingOff _) ?_
  rw [ceilingJudged, hold, judgeFlag_on h]

theorem noticed_capacity_off {s : State} (hold : s.ge.overCapacity = true) (h : s.firmB ≤ s.busBCapacity) :
    Noticed s s.compute .t .ceiling none 8 (s.busBCapacity - s.firmB) := by
  refine noticed_ceiling (k := .overCapacityOff)
    (noticesOnly_judgeFlag s.ge.overCeiling s.firmImport s.ge.active.a .overCeilingOn .overCeilingOff _) ?_
  rw [ceilingJudged, hold, judgeFlag_off h]

/-- With OVER_CAPACITY as it was, a change of OVER_CEILING gives the last CEILING notice. -/
theorem noticed_ceiling_on {s : State} (hsame : decide (s.busBCapacity < s.firmB) = s.ge.overCapacity)
    (hold : s.ge.overCeiling = false) (h : s.ge.active.a < s.firmImport) :
    Noticed s s.compute .t .ceiling none 5 (s.firmImport - s.ge.active.a) := by
  refine noticed_ceiling (k := .overCeilingOn) (.refl _) ?_
  rw [ceilingJudged, judgeFlag_same hsame, hold, judgeFlag_on h]

theorem noticed_ceiling_off {s : State} (hsame : decide (s.busBCapacity < s.firmB) = s.ge.overCapacity)
    (hold : s.ge.overCeiling = true) (h : s.firmImport ≤ s.ge.active.a) :
    Noticed s s.compute .t .ceiling none 6 (s.ge.active.a - s.firmImport) := by
  refine noticed_ceiling (k := .overCeilingOff) (.refl _) ?_
  rw [ceilingJudged, judgeFlag_same hsame, hold, judgeFlag_off h]

/-- Flags that stand give no CEILING notice. -/
theorem noticeKept_ceiling {s : State} (hsame : decide (s.busBCapacity < s.firmB) = s.ge.overCapacity)
    (hsame' : decide (s.ge.active.a < s.firmImport) = s.ge.overCeiling) : NoticeKept .t .ceiling s s.compute := by
  have hj : s.ceilingJudged = s.withComputation := by
    rw [ceilingJudged, judgeFlag_same hsame', judgeFlag_same hsame]
  have hkept := s.noticeKept_behindJudged (c := .ceiling) (by decide) (by decide) .t
  rw [hj] at hkept
  exact hkept

/-- Before the advice nothing of its class has been given. -/
theorem noticeKept_beforeAdvice (p : Port) (s : State) : NoticeKept p .returnAdvice s s.ceilingJudged :=
  (noticeKept_judgeFlag (c := .returnAdvice) (s := s.withComputation) (by decide) _ _ _ _ _).trans
    (noticeKept_judgeFlag (by decide) _ _ _ _ _ _)

theorem noticeKept_afterAdvice (p : Port) (s : State) : NoticeKept p .returnAdvice s.capacityAdvised s.compute := by
  rw [compute_eq]
  exact noticeKept_announceStaged (by decide) _

theorem noticesOnly_afterAdvice (s : State) : NoticesOnly s.capacityAdvised s.compute := by
  rw [compute_eq]
  exact noticesOnly_announceStaged _

/-- The advice for OVER_CAPACITY comes last (R127). -/
theorem noticed_capacityAdvice {s : State} {n : Ix} {p : Port} (h : s.busBCapacity < s.firmB)
    (hn : s.advised s.canReturnB = some n) (hp : p = .t ∨ p = .v n) :
    Noticed s s.compute p .returnAdvice (some n) 4 (s.firmB - s.busBCapacity) := by
  have hz : s.capacityAdvised = s.ceilingAdvised.adviseTo (some n) 4 (s.firmB - s.busBCapacity) := by
    rw [capacityAdvised, if_pos h, hn]
  exact noticed_adviseTo (s := s.withComputation) (s.noticesOnly_ceilingJudged.trans s.noticesOnly_ceilingAdvised)
    (hz ▸ s.noticesOnly_afterAdvice) (hz ▸ s.noticeKept_afterAdvice p) hp

/-- The advice for OVER_CEILING stands where that for OVER_CAPACITY leaves its port (R127). -/
theorem noticed_ceilingAdvice {s : State} {n : Ix} {p : Port} (h : s.ge.active.a < s.firmImport)
    (hn : s.advised s.canReturn = some n) (hp : p = .t ∨ p = .v n)
    (hkept : NoticeKept p .returnAdvice s.ceilingAdvised s.capacityAdvised) :
    Noticed s s.compute p .returnAdvice (some n) 3 (s.firmImport - s.ge.active.a) := by
  have hz : s.ceilingAdvised = s.ceilingJudged.adviseTo (some n) 3 (s.firmImport - s.ge.active.a) := by
    rw [ceilingAdvised, if_pos h, hn]
  have hrest := hkept.trans (s.noticeKept_afterAdvice p)
  exact noticed_adviseTo (s := s.withComputation) s.noticesOnly_ceilingJudged
    (hz ▸ s.noticesOnly_capacityAdvised.trans s.noticesOnly_afterAdvice) (hz ▸ hrest) hp

/-- Port T has no second advice where bus B's capacity suffices or no berth on bus B can return. -/
theorem noticeKept_capacityAdvised_t {s : State} (h : s.firmB ≤ s.busBCapacity ∨ ∀ m, s.canReturnB m = false) :
    NoticeKept .t .returnAdvice s.ceilingAdvised s.capacityAdvised := by
  unfold capacityAdvised
  split
  · rename_i hlt
    rw [advised_none (h.resolve_left (Nat.not_le.mpr hlt))]
    exact .refl _ _ _
  · exact .refl _ _ _

/-- A berth has no second advice where it is not the one chosen on bus B. -/
theorem noticeKept_capacityAdvised_v {s : State} {n : Ix} (h : s.firmB ≤ s.busBCapacity ∨ s.advised s.canReturnB ≠ some n) :
    NoticeKept (.v n) .returnAdvice s.ceilingAdvised s.capacityAdvised := by
  unfold capacityAdvised
  split
  · rename_i hlt
    exact noticeKept_adviseTo_ne (h.resolve_left (Nat.not_le.mpr hlt)) _ _ _
  · exact .refl _ _ _

/-- A berth chosen by neither advice has none. -/
theorem noticeKept_advice {s : State} {n : Ix} (h : s.ge.active.a < s.firmImport → s.advised s.canReturn ≠ some n)
    (h' : s.busBCapacity < s.firmB → s.advised s.canReturnB ≠ some n) : NoticeKept (.v n) .returnAdvice s s.compute := by
  have hceiling : NoticeKept (.v n) .returnAdvice s.ceilingJudged s.ceilingAdvised := by
    unfold ceilingAdvised
    split
    · rename_i hlt
      exact noticeKept_adviseTo_ne (h hlt) _ _ _
    · exact .refl _ _ _
  have hcapacity : NoticeKept (.v n) .returnAdvice s.ceilingAdvised s.capacityAdvised := by
    by_cases hlt : s.busBCapacity < s.firmB
    · exact noticeKept_capacityAdvised_v (.inr (h' hlt))
    · exact noticeKept_capacityAdvised_v (.inl (Nat.not_lt.mp hlt))
  exact ((s.noticeKept_beforeAdvice _).trans hceiling).trans (hcapacity.trans (s.noticeKept_afterAdvice _))

theorem onlyTouches_compute (s : State) : OnlyTouches (.grants :: allLinks) s s.compute := by
  have h := s.noticesOnly_compute.rest
  refine onlyTouches_allLinks (l := [.grants]) ?_ ?_ ?_ ?_ ?_ ?_ ?_ ?_ ?_ ?_ ?_ ?_ ?_ ?_ <;> rw [h] <;>
    simp +contextual [withLink, withComputation]

/-- The candidates of R127, in the words of the statement. -/
theorem advisedNext_canReturn {s : State} {n : Ix} : AdvisedNext s (fun m => (s.berth m).state ∈ [.onShore, .adopted]) n ↔
    s.advised s.canReturn = some n := by
  rw [advised_iff]
  simp only [canReturn_iff]

theorem advisedNext_canReturnB {s : State} {n : Ix} :
    AdvisedNext s (fun m => (s.berth m).state ∈ [.onShore, .adopted] ∧ (s.berth m).bus = .b) n ↔
      s.advised s.canReturnB = some n := by
  rw [advised_iff]
  simp only [canReturnB_iff]

theorem canReturnB_eq_false {s : State} {m : Ix} (h : (s.berth m).state ∈ [.onShore, .adopted] → (s.berth m).bus ≠ .b) :
    s.canReturnB m = false := by
  rw [Bool.eq_false_iff]
  intro hc
  rw [ne_eq, canReturnB_iff] at *
  exact h hc.1 hc.2

end State

/-- A computation: the over flags, their notices, and the return advice (R110, R126, R127). -/
theorem compute_answers {s t : State} {a kb needA needB : Nat} (ht : t = s.compute) (ha : a = s.ge.active.a)
    (hkb : kb = s.busBCapacity) (hA : needA = s.firmImport) (hB : needB = s.firmB) :
    t.ge.overCeiling = decide (a < needA) ∧ t.ge.overCapacity = decide (kb < needB) ∧
    (s.ge.overCapacity = false → kb < needB → Noticed s t .t .ceiling none 7 (needB - kb)) ∧
    (s.ge.overCapacity = true → needB ≤ kb → Noticed s t .t .ceiling none 8 (kb - needB)) ∧
    (t.ge.overCapacity = s.ge.overCapacity → s.ge.overCeiling = false → a < needA →
      Noticed s t .t .ceiling none 5 (needA - a)) ∧
    (t.ge.overCapacity = s.ge.overCapacity → s.ge.overCeiling = true → needA ≤ a →
      Noticed s t .t .ceiling none 6 (a - needA)) ∧
    (t.ge.overCapacity = s.ge.overCapacity → t.ge.overCeiling = s.ge.overCeiling →
      (t.port .t).notices.ceiling = (s.port .t).notices.ceiling) ∧
    (∀ n, s.adviceRank n = match (s.berth n).authorization with | some x => if x.withdrawn then 4 else x.prio | none => 4) ∧
    (∀ n, kb < needB → AdvisedNext s (fun m => (s.berth m).state ∈ [.onShore, .adopted] ∧ (s.berth m).bus = .b) n →
      ∀ p, p = .t ∨ p = .v n → Noticed s t p .returnAdvice (some n) 4 (needB - kb)) ∧
    (∀ n, a < needA → AdvisedNext s (fun m => (s.berth m).state ∈ [.onShore, .adopted]) n →
      (needB ≤ kb ∨ (∀ m, (s.berth m).state ∈ [.onShore, .adopted] → (s.berth m).bus ≠ .b) →
        Noticed s t .t .returnAdvice (some n) 3 (needA - a)) ∧
      (needB ≤ kb ∨ ¬ AdvisedNext s (fun m => (s.berth m).state ∈ [.onShore, .adopted] ∧ (s.berth m).bus = .b) n →
        Noticed s t (.v n) .returnAdvice (some n) 3 (needA - a))) ∧
    (∀ n, (a < needA → ¬ AdvisedNext s (fun m => (s.berth m).state ∈ [.onShore, .adopted]) n) →
      (kb < needB → ¬ AdvisedNext s (fun m => (s.berth m).state ∈ [.onShore, .adopted] ∧ (s.berth m).bus = .b) n) →
      (t.port (.v n)).notices.returnAdvice = (s.port (.v n)).notices.returnAdvice) ∧
    OnlyTouches (.grants :: allLinks) s t := by
  subst ht ha hkb hA hB
  have hceiling : s.compute.ge.overCeiling = decide (s.ge.active.a < s.firmImport) := by rw [State.ge_compute]; rfl
  have hcapacity : s.compute.ge.overCapacity = decide (s.busBCapacity < s.firmB) := by rw [State.ge_compute]; rfl
  rw [hceiling, hcapacity]
  simp only [State.advisedNext_canReturn, State.advisedNext_canReturnB]
  refine ⟨trivial, trivial, State.noticed_capacity_on, State.noticed_capacity_off, State.noticed_ceiling_on, State.noticed_ceiling_off,
    State.noticeKept_ceiling, fun n => rfl, fun n h hn p => State.noticed_capacityAdvice h hn,
    fun n h hn => ⟨fun hno => ?_, fun hno => ?_⟩, fun n => State.noticeKept_advice, s.onlyTouches_compute⟩
  · exact State.noticed_ceilingAdvice h hn (.inl rfl) (State.noticeKept_capacityAdvised_t
      (hno.imp_right fun hb m => State.canReturnB_eq_false (hb m)))
  · exact State.noticed_ceilingAdvice h hn (.inr rfl) (State.noticeKept_capacityAdvised_v hno)

end Sys2Proof.Machine

namespace Sys2Proof.Machine

/-! ### One event at the flags of several berths (R150, R151) -/

/-- An event leaves the running order of every port as it is, or ends it DONE: a flag has been handed over to it. -/
def RunsOnOrDone (s t : State) : Prop :=
  ∀ p r sl, s.running? p = some (r, sl) → t.orders p = s.orders p ∨ Finished s r .done .none 0 t

namespace State

theorem runsOnOrDone_flagEvent (s : State) (n : Ix) (b : Bool) : RunsOnOrDone s (s.flagEvent n b) := by
  intro p r sl hr
  by_cases h : ∀ w rest, (s.flag n b).isSet = false → (s.flag n b).waiters = w :: rest → w.port ≠ p
  · exact .inl (orders_flagEvent_ne h)
  · push Not at h
    obtain ⟨w, rest, hset, hw, hp⟩ := h
    subst hp
    exact .inr (finished_flagEvent hset hw hr)

end State

/-- Steps in a row, the second of which keeps what has ENDED. -/
theorem RunsOnOrDone.trans {s t u : State} (h : RunsOnOrDone s t) (h' : RunsOnOrDone t u) (hn : t.now = s.now)
    (hk : KeepsEnded t u) : RunsOnOrDone s u := by
  intro p r sl hr
  obtain ho | hdone := h p r sl hr
  · obtain ho' | hdone := h' p r sl ((State.running_of_orders ho).trans hr)
    · exact .inl (ho'.trans ho)
    · refine .inr fun o k hs => ?_
      obtain ⟨hport, -, -⟩ := State.running_slot hr
      have := hdone o k ((State.slot_of_orders (by rw [hport, ho])).trans hs)
      rwa [hn] at this
  · exact .inr fun o k hs => hk r _ (hdone o k hs) rfl

theorem State.runsOnOrDone_postSource (s : State) (n : Ix) (src : FlagSource) : RunsOnOrDone s (s.postSource n src) := by
  have keeps : ∀ u : State, KeepsEnded u (u.flagEvent n true) := fun u _ _ hs he => slot_flagEvent_ended _ _ hs he
  have first : ∀ u : State, RunsOnOrDone u (if u.flagSource n true = src.index then u.flagEvent n true else u) := fun u => by
    split
    · exact u.runsOnOrDone_flagEvent n true
    · exact fun _ _ _ _ => .inl rfl
  unfold postSource
  simp only
  split
  · refine (s.runsOnOrDone_flagEvent n false).trans (first _) (by simp) ?_
    split
    · exact keeps _
    · exact fun _ _ hs _ => hs
  · exact first s

/-- No flag has been reached. -/
theorem FlagsReached.refl (s : State) : FlagsReached (fun _ _ => False) s s :=
  ⟨fun _ _ h => h.elim, fun _ _ h => h.elim, fun _ _ _ _ h => h.elim, fun _ _ _ => rfl⟩

/-- Two events on different flags, one behind the other. -/
theorem FlagsReached.trans {s t u : State} {first second : Ix → Bool → Prop} (h : FlagsReached first s t)
    (h' : FlagsReached second t u) (hapart : ∀ n b, first n b → ¬ second n b) (hrun : RunsOnOrDone s t) (hk : KeepsEnded t u)
    (hn : t.now = s.now) (hb : t.berths = s.berths) : FlagsReached (fun n b => first n b ∨ second n b) s u := by
  have hsame : ∀ n b, second n b → t.flag n b = s.flag n b := fun n b hs => h.others n b fun hf => hapart n b hf hs
  refine ⟨fun n b hr hset => ?_, fun n b hr hset hw => ?_, fun n b w rest hr hset hw => ?_, fun n b hr => ?_⟩
  · rcases hr with hr | hr
    · rw [h'.others n b (hapart n b hr), h.stays n b hr hset]
    · rw [h'.stays n b hr (by rw [hsame n b hr, hset]), hsame n b hr]
  · rcases hr with hr | hr
    · rw [h'.others n b (hapart n b hr), h.becomesSet n b hr hset hw]
    · exact h'.becomesSet n b hr (by rw [hsame n b hr, hset]) (by rw [hsame n b hr, hw])
  · rcases hr with hr | hr
    · obtain ⟨hflag, hdone⟩ := h.handedOver n b w rest hr hset hw
      exact ⟨(h'.others n b (hapart n b hr)).trans hflag, fun hcons r sl hrunning o k hs =>
        hk r _ (hdone hcons r sl hrunning o k hs) rfl⟩
    · obtain ⟨hflag, hdone⟩ := h'.handedOver n b w rest hr (by rw [hsame n b hr, hset]) (by rw [hsame n b hr, hw])
      refine ⟨hflag, fun hcons r sl hrunning o k hs => ?_⟩
      obtain ho | hended := hrun w.port r sl hrunning
      · obtain ⟨hport, -, -⟩ := State.running_slot hrunning
        have := hdone (fun m c hc => hcons m c (by rwa [State.berth, hb] at hc)) r sl
          ((State.running_of_orders ho).trans hrunning) o k ((State.slot_of_orders (by rw [hport, ho])).trans hs)
        rwa [hn] at this
      · exact hk r _ (hended o k hs) rfl
  · rw [h'.others n b fun hr' => hr (.inr hr'), h.others n b fun hr' => hr (.inl hr')]

theorem FlagsReached.congr {s t : State} {raised raised' : Ix → Bool → Prop} (h : FlagsReached raised s t)
    (he : ∀ n b, raised n b ↔ raised' n b) : FlagsReached raised' s t := by
  have : raised = raised' := by
    funext n b
    exact propext (he n b)
  rwa [← this]

/-- What an event does from `u` it does from `s`, where the two differ in nothing that an event depends on. -/
theorem FlagsReached.of_same {s u t : State} {raised : Ix → Bool → Prop} (h : FlagsReached raised u t) (ho : u.oe = s.oe)
    (hn : u.now = s.now) (hb : u.berths = s.berths) : FlagsReached raised s t := by
  have hfl : ∀ n b, u.flag n b = s.flag n b := State.flag_of_flags (by rw [ho])
  have hslot : ∀ r, u.slot? r = s.slot? r := State.slot_of_ports (by rw [ho])
  have hrun : ∀ p, u.running? p = s.running? p := fun p => State.running_of_orders (by rw [State.orders, ho, State.orders])
  have hberth : ∀ m, u.berth m = s.berth m := fun m => by rw [State.berth, hb, State.berth]
  obtain ⟨h1, h2, h3, h4⟩ := h
  simp only [hfl] at h1 h2 h3 h4
  refine ⟨h1, h2, fun n b w rest hr hs hw => ?_, h4⟩
  obtain ⟨hflag, hdone⟩ := h3 n b w rest hr hs hw
  simp only [Finished, hslot, hrun, hberth, hn] at hdone
  exact ⟨hflag, hdone⟩

namespace State

/-- A source event reaches the flags of those berths of a list for which a test holds. -/
def sourceAt (test : Ix → Prop) [DecidablePred test] (src : FlagSource) (n : Ix) (s : State) : State :=
  if test n then s.postSource n src else s

@[simp] theorem fields_sourceAt (test : Ix → Prop) [DecidablePred test] (src : FlagSource) (n : Ix) (s : State) :
    OnlyOrders s (s.sourceAt test src n) := by
  unfold sourceAt
  split <;> simp [OnlyOrders]

theorem keepsEnded_sourceAt (test : Ix → Prop) [DecidablePred test] (src : FlagSource) (n : Ix) (s : State) :
    KeepsEnded s (s.sourceAt test src n) := by
  unfold sourceAt
  split
  · exact keepsEnded_postSource s n src
  · exact fun _ _ hs _ => hs

theorem keepsEnded_forEach {α : Type} {f : α → State → State} (hf : ∀ a u, KeepsEnded u (f a u)) (l : List α) (s : State) :
    KeepsEnded s (s.forEach l f) :=
  keep_forEach (P := KeepsEnded s) (fun a u hu => hu.trans (hf a u)) l fun _ _ hs _ => hs

theorem reached_sourceAt (test : Ix → Prop) [DecidablePred test] (src : FlagSource) (n : Ix) (s : State) :
    FlagsReached (fun m b => (m = n ∧ test n) ∧ s.flagSource m b = src.index) s (s.sourceAt test src n) ∧
      RunsOnOrDone s (s.sourceAt test src n) := by
  unfold sourceAt
  split
  · rename_i h
    exact ⟨(postSource_reaches s n src).congr fun m b => by simp [h], s.runsOnOrDone_postSource n src⟩
  · rename_i h
    exact ⟨(FlagsReached.refl s).congr fun m b => by simp [h], fun _ _ _ _ => .inl rfl⟩

/-- An event at the flags of several berths reaches each of them once. -/
theorem reached_sources (test : Ix → Prop) [DecidablePred test] (src : FlagSource) {l : List Ix} (hl : l.Nodup) :
    ∀ s : State, FlagsReached (fun m b => (m ∈ l ∧ test m) ∧ s.flagSource m b = src.index) s
      (s.forEach l (sourceAt test src)) := by
  induction l with
  | nil => exact fun s => (FlagsReached.refl s).congr fun m b => by simp
  | cons a l ih =>
    intro s
    obtain ⟨hnot, hl'⟩ := List.nodup_cons.mp hl
    obtain ⟨hfirst, hrun⟩ := reached_sourceAt test src a s
    obtain ⟨v, hv⟩ : ∃ v, v = s.sourceAt test src a := ⟨_, rfl⟩
    have hfields : OnlyOrders s v := hv ▸ fields_sourceAt test src a s
    obtain ⟨-, hnow, htab, -, -, -, hberths, -⟩ := hfields
    have hsrc : ∀ m b, v.flagSource m b = s.flagSource m b := flagSource_of_table htab
    have hrest := ih hl' v
    simp only [hsrc] at hrest
    rw [← hv] at hfirst hrun
    have hstep : s.forEach (a :: l) (sourceAt test src) = v.forEach l (sourceAt test src) := by rw [hv]; rfl
    rw [hstep]
    refine (hfirst.trans hrest (fun m b hf hs => ?_) hrun (keepsEnded_forEach (fun n u => keepsEnded_sourceAt test src n u) l v)
      hnow hberths).congr fun m b => ?_
    · obtain ⟨⟨rfl, -⟩, -⟩ := hf
      exact hnot hs.1.1
    · constructor
      · rintro (⟨⟨rfl, ht⟩, hs⟩ | ⟨⟨hm, ht⟩, hs⟩)
        · exact ⟨⟨List.mem_cons_self, ht⟩, hs⟩
        · exact ⟨⟨List.mem_cons_of_mem _ hm, ht⟩, hs⟩
      · rintro ⟨⟨hm, ht⟩, hs⟩
        obtain rfl | hm := List.mem_cons.mp hm
        · exact .inl ⟨⟨rfl, ht⟩, hs⟩
        · exact .inr ⟨⟨hm, ht⟩, hs⟩

end State

end Sys2Proof.Machine

namespace Sys2Proof.Machine

/-! ### The switch of the grant sets (R103, R104) -/

@[simp] theorem GrantSet.a_trimB (kb : Nat) (g : GrantSet) : (g.trimB kb).a = g.a := by
  unfold trimB
  simp only
  split <;> rfl

/-- A trim leaves the A of its set. -/
@[simp] theorem GrantSet.a_trim (kb : Nat) (g : GrantSet) : (g.trim kb).a = g.a := by
  unfold trim trimImport
  split <;> simp

namespace State

/-- A new period: its number and its lengths, and a mark for every berth meter (R103, R128). -/
def withPeriod (s : State) : State :=
  s.modGe fun g =>
    { g with period := nextPeriod g.period, periodLeft := s.allocation, lastLength := g.periodLength,
             periodLength := s.allocation, berths := g.berths.map fun b => { b with due := true } }

/-- The set in force: the pending one, or the active one kept, with the A in force (R104). -/
def withSets (s : State) : State :=
  s.modGe fun g =>
    if g.staged.pending then
      { g with active := { g.staged with a := s.importAvailable, pending := false }, staged := { g.staged with pending := false } }
    else { g with active := { g.active with a := s.importAvailable } }

/-- GRANT_SWITCHED at the flags of each berth that has a total in the set switched in or in the one it replaced (R104, R150). -/
def withSwitched (s : State) : State :=
  if s.ge.staged.pending then
    s.withSets.forEach Ix.all (sourceAt (fun n =>
      0 < (s.withSets.ge.active.recs.get n).total ∨ 0 < (s.ge.active.recs.get n).total) .grantSwitched)
  else s.withSets

theorem switchSets_eq (s : State) : s.switchSets = s.withSwitched.trimActive := rfl

theorem active_withSets_pending {s : State} (h : s.ge.staged.pending = true) :
    s.withSets.ge.active = { s.ge.staged with a := s.importAvailable, pending := false } := by
  simp [withSets, h]

theorem active_withSets_kept {s : State} (h : s.ge.staged.pending = false) :
    s.withSets.ge.active = { s.ge.active with a := s.importAvailable } := by
  simp [withSets, h]

theorem a_withSets (s : State) : s.withSets.ge.active.a = s.importAvailable := by
  cases h : s.ge.staged.pending
  · rw [active_withSets_kept h]
  · rw [active_withSets_pending h]

/-- The sets and no other field of the Grant Engine change (R104). -/
theorem ge_withSets (s : State) : s.withSets.ge =
    { s.ge with active := s.withSets.ge.active, staged := s.withSets.ge.staged } := by
  unfold withSets
  simp only [ge_modGe]
  split <;> rfl

theorem fields_withSwitched (s : State) : OnlyOrders s.withSets s.withSwitched := by
  unfold withSwitched
  split
  · exact fields_forEach _ (fun n u => fields_sourceAt _ _ n u) _
  · simp [OnlyOrders]

/-- A trim of the active set gives GRANT notices at most. -/
theorem grantsNoticed_trimActive (p : Port) (s : State) : GrantsNoticed s s.trimActive p := by
  unfold trimActive cutActive
  refine keep_forEach (P := fun t => GrantsNoticed s t p) (fun n t ht => ?_) Ix.all (.of_link (link_modGe s _) p)
  split
  · exact ht.trans (grantsNoticed_notifyGrant _ _ _ _ p t)
  · exact ht

/-- What the switch leaves in the other blocks. -/
theorem fields_switchSets (s : State) : s.switchSets.powered = s.powered ∧ s.switchSets.now = s.now ∧
    s.switchSets.table = s.table ∧ s.switchSets.inputs = s.inputs ∧ s.switchSets.oe = s.withSwitched.oe ∧
    s.switchSets.oe.held = s.oe.held ∧ s.switchSets.berths = s.berths ∧ s.switchSets.pru = s.pru ∧
    s.switchSets.cs = s.cs ∧ s.switchSets.cp = s.cp ∧ s.switchSets.gi = s.gi ∧ s.switchSets.pending = s.pending := by
  obtain ⟨h1, h2, h3, h4, -, h5, h6, h7, h8, h9, h10, -, h11⟩ := s.fields_withSwitched
  rw [switchSets_eq]
  simp only [fields_trimActive, h1, h2, h3, h4, h5, h6, h7, h8, h9, h10, h11]
  simp [withSets]

/-- The set in force is trimmed against the present KB (R104). -/
theorem ge_switchSets (s : State) : s.switchSets.ge =
    { s.withSets.ge with active := s.withSets.ge.active.trim s.busBCapacity } := by
  obtain ⟨-, -, -, -, -, -, -, -, -, hcp, -, hge, -⟩ := s.fields_withSwitched
  have hkb : s.withSwitched.busBCapacity = s.busBCapacity := by
    rw [busBCapacity, online_of_modules (congrArg Pool.modules hcp)]
    rfl
  rw [switchSets_eq, ge_trimActive, hkb, hge]

theorem grantsNoticed_switchSets (p : Port) (s : State) : GrantsNoticed s s.switchSets p := by
  obtain ⟨-, -, -, -, hlink, -⟩ := s.fields_withSwitched
  rw [switchSets_eq]
  exact (GrantsNoticed.of_link (s := s) hlink p).trans (grantsNoticed_trimActive p _)

/-- With a pending set the switch reaches the flags of its berths (R104, R150, R151). -/
theorem reached_switchSets {s : State} (h : s.ge.staged.pending = true) :
    FlagsReached (fun n b => s.flagSource n b = FlagSource.grantSwitched.index ∧
      (0 < (s.ge.staged.recs.get n).total ∨ 0 < (s.ge.active.recs.get n).total)) s s.switchSets := by
  have hreached := reached_sources (fun n =>
    0 < (s.withSets.ge.active.recs.get n).total ∨ 0 < (s.ge.active.recs.get n).total) .grantSwitched (l := Ix.all)
    (by decide) s.withSets
  have hz : s.withSwitched = s.withSets.forEach Ix.all (sourceAt (fun n =>
      0 < (s.withSets.ge.active.recs.get n).total ∨ 0 < (s.ge.active.recs.get n).total) .grantSwitched) := if_pos h
  rw [← hz, active_withSets_pending h] at hreached
  have hfrom : FlagsReached _ s s.withSwitched := hreached.of_same rfl rfl rfl
  refine (flagsReached_after hfrom (fields_switchSets s).2.2.2.2.1).congr fun n b => ?_
  have hsrc : s.withSets.flagSource n b = s.flagSource n b := rfl
  rw [hsrc]
  exact ⟨fun ⟨⟨_, ht⟩, hs⟩ => ⟨hs, ht⟩, fun ⟨hs, ht⟩ => ⟨⟨Ix.mem_all n, ht⟩, hs⟩⟩

/-- Without a pending set the flags have no event. -/
theorem flags_switchSets {s : State} (h : s.ge.staged.pending = false) : s.switchSets.oe.flags = s.oe.flags := by
  have hz : s.withSwitched = s.withSets := if_neg (by simp [h])
  rw [(fields_switchSets s).2.2.2.2.1, hz]
  rfl

end State

/-! ### The service of the admission queue and the publication, behind a computation -/

/-- What serving the admission queue leaves of the part (R124, R125). -/
structure QueueServed (s t : State) : Prop where
  powered : t.powered = s.powered
  now : t.now = s.now
  table : t.table = s.table
  inputs : t.inputs = s.inputs
  link : t.link.get .t = s.link.get .t
  oe : t.oe = s.oe
  pru : t.pru = s.pru
  cs : t.cs = s.cs
  gi : t.gi = s.gi
  pending : t.pending = s.pending
  period : t.ge.period = s.ge.period
  a : t.ge.active.a = s.ge.active.a
  due : ∀ n, (t.grantBerth n).due = (s.grantBerth n).due

theorem QueueServed.refl (s : State) : QueueServed s s :=
  ⟨rfl, rfl, rfl, rfl, rfl, rfl, rfl, rfl, rfl, rfl, rfl, rfl, fun _ => rfl⟩

theorem QueueServed.trans {s t u : State} (h : QueueServed s t) (h' : QueueServed t u) : QueueServed s u :=
  ⟨h'.powered.trans h.powered, h'.now.trans h.now, h'.table.trans h.table, h'.inputs.trans h.inputs, h'.link.trans h.link,
    h'.oe.trans h.oe, h'.pru.trans h.pru, h'.cs.trans h.cs, h'.gi.trans h.gi, h'.pending.trans h.pending,
    h'.period.trans h.period, h'.a.trans h.a, fun n => (h'.due n).trans (h.due n)⟩

namespace State

theorem queueServed_admission (m : Ix) (s : State) : QueueServed s (s.admission m) := by
  obtain ⟨h1, h2, h3, h4, h5, h6, -, h7, h8, -, h9, h10, -⟩ := fields_admission m s
  refine ⟨h1, h2, h3, h4, h5, h6, h7, h8, h9, h10, ?_, ?_, fun n => ?_⟩
  · simp [admission, leaveQueue, putBoth]
  · simp [admission, leaveQueue, putBoth, GrantSet.put]
  · by_cases hn : n = m
    · subst hn
      simp [admission, leaveQueue, putBoth, grantBerth]
    · simp [admission, leaveQueue, putBoth, grantBerth, hn]

theorem queueServed_serveQueue (s : State) : QueueServed s s.serveQueue := by
  have upTo : ∀ k, ∀ t : State, QueueServed t (serveUpTo k t) := by
    intro k
    induction k with
    | zero => exact .refl
    | succ k ih =>
      intro t
      unfold serveUpTo
      split
      · exact .refl t
      · split
        · exact (queueServed_admission _ t).trans (ih _)
        · exact .refl t
  exact upTo _ s

/-- A publication trims the sets at most, which leaves their A (R79, R118). -/
theorem ge_publish (demand : Nat) (s : State) : (s.publish demand).ge.period = s.ge.period ∧
    (s.publish demand).ge.active.a = s.ge.active.a ∧ (s.publish demand).ge.berths = s.ge.berths := by
  have trimmed : ∀ (k : Nat) (u : State), (u.trimAfterFall k).ge.period = u.ge.period ∧
      (u.trimAfterFall k).ge.active.a = u.ge.active.a ∧ (u.trimAfterFall k).ge.berths = u.ge.berths := fun k u => by
    unfold trimAfterFall
    split <;> simp
  have stopped : ∀ u : State, u.tryStop.ge.period = u.ge.period ∧ u.tryStop.ge.active.a = u.ge.active.a ∧
      u.tryStop.ge.berths = u.ge.berths := fun u => by
    unfold tryStop
    split
    · split
      · exact trimmed _ _
      · exact ⟨rfl, rfl, rfl⟩
    · exact ⟨rfl, rfl, rfl⟩
  rw [publish_eq, (fields_startTest _).2.2.2.2.2.2.2.2.2.2.1]
  split
  · exact stopped (s.published demand)
  · exact ⟨rfl, rfl, rfl⟩

/-- The publication leaves what the service of the queue leaves. -/
theorem queueServed_publish (demand : Nat) (s : State) : QueueServed s (s.publish demand) := by
  obtain ⟨h1, h2, h3, h4, h5, h6, -, h7, h8, h9, h10, -⟩ := fields_publish demand s
  obtain ⟨hperiod, ha, hberths⟩ := ge_publish demand s
  exact ⟨h1, h2, h3, h4, h5, h6, h7, h8, h9, h10, hperiod, ha, fun n => by rw [grantBerth, hberths, grantBerth]⟩

/-! ### What a computation gives a berth -/

/-- GRANT_STAGED is the latest GRANT notice of a berth with a total in either set (R106). -/
theorem grant_announceStaged {s : State} {n : Ix} (hopen : (s.port (.v n)).isOpen = true)
    (h : 0 < (s.ge.staged.recs.get n).total ∨ 0 < (s.ge.active.recs.get n).total) :
    (s.announceStaged.port (.v n)).notices.grant.flag = true ∧ (s.announceStaged.port (.v n)).notices.grant.latest =
      some { berth := some n, code := some 1, value := (s.ge.staged.recs.get n).total, period := s.ge.staged.effective } := by
  obtain ⟨f, hf⟩ : ∃ f : Ix → State → State, f = fun m u =>
    if 0 < (s.ge.staged.recs.get m).total ∨ 0 < (s.ge.active.recs.get m).total then
      u.notifyGrant m 1 (s.ge.staged.recs.get m).total s.ge.staged.effective
    else u := ⟨_, rfl⟩
  have hstep : ∀ m w, f m w = if 0 < (s.ge.staged.recs.get m).total ∨ 0 < (s.ge.active.recs.get m).total then
      w.notifyGrant m 1 (s.ge.staged.recs.get m).total s.ge.staged.effective else w := fun m w => by rw [hf]
  obtain ⟨before, after, hall, -, -, -, hnot, -⟩ := Ix.all_around n
  obtain ⟨u, hu⟩ : ∃ u, u = s.forEach before f := ⟨_, rfl⟩
  have hsplit : s.announceStaged = (f n u).forEach after f := by
    have : s.announceStaged = s.forEach Ix.all f := by rw [hf]; rfl
    rw [this, hall, hu]
    simp [forEach, List.foldl_append]
  have huopen : (u.link.get (.v n)).isOpen = true := by
    have hnotices : NoticesOnly s u := by
      rw [hu, hf]
      exact noticesOnly_forEach (fun m w => by
        split
        · exact noticesOnly_notifyGrant _ _ _ _ w
        · exact .refl w) _
    exact (hnotices.isOpen _).trans hopen
  have hafter : ((f n u).forEach after f).link.get (.v n) = (f n u).link.get (.v n) := by
    refine keep_forEach_mem (P := fun w => w.link.get (.v n) = (f n u).link.get (.v n)) (fun m hm w hw => ?_) rfl
    rw [hstep m w]
    split
    · rw [notifyGrant, link_post_ne _ _ _ fun he => hnot (by cases he; exact hm)]
      exact hw
    · exact hw
  have hn : f n u = u.notifyGrant n 1 (s.ge.staged.recs.get n).total s.ge.staged.effective := by
    rw [hstep, if_pos h]
  have hport : (f n u).link.get (.v n) = (u.link.get (.v n)).posted .grant
      ⟨some n, some 1, (s.ge.staged.recs.get n).total, s.ge.staged.effective⟩ := by
    rw [hn, notifyGrant, post, link_modPort, PortMap.get_set_same, if_pos huopen]
  rw [hsplit, port, hafter, hport]
  exact ⟨rfl, rfl⟩

/-- The record of a berth in the new set (R105): its firm figure, and the flexible grant and share of the computation. -/
theorem recs_stagedSet {s : State} {n : Ix} {f : Ix × Nat × Nat}
    (hf : f = (s.computed.find? fun x => decide (x.1 = n)).getD (n, 0, 0)) :
    s.stagedSet.recs.get n = { firm := (s.firmFigure n).1, flexible := f.2.1, share := f.2.2
                               bus := if (s.firmFigure n).1 = 0 ∧ f.2.1 = 0 then .none else (s.firmFigure n).2 } := by
  subst hf
  simp only [stagedSet, Six.get_ofFn, stagedRec]
  cases s.computed.find? fun x => decide (x.1 = n) <;> rfl

/-- The firm figures held after a computation add up to the FirmB that it formed (R109; log entry 50). -/
theorem heldFirmB_compute (s : State) : s.compute.heldFirmB = s.firmB := by
  have hfig : ∀ n, s.compute.firmFigure n = s.firmFigure n := fun n => by
    rw [s.noticesOnly_compute.rest]
    exact s.firmFigure_withComputation n
  have hheld : ∀ n, (s.compute.grantBerth n).firm = (s.firmFigure n).1 := fun n => by
    rw [grantBerth, ge_compute]
    simp [withComputation, formedFigures]
  unfold heldFirmB heldOnBut firmB firmOnBut
  simp only [hfig, hheld]

end State

end Sys2Proof.Machine

namespace Sys2Proof.Machine

/-! ### PERIOD_EXPIRY (R103 to R107) -/

namespace State

/-- The state in which the sets have been switched at a period's end. -/
def periodSwitched (s : State) : State := s.withPeriod.switchSets

theorem periodExpiry_eq (s : State) : s.periodExpiry = s.periodSwitched.compute.serveQueue.publish
    (s.periodSwitched.compute.serveQueue.firmB + ((s.periodSwitched.claims.filter Claim.onB).map Claim.cap).sum) := rfl

/-- The Grant Engine after the switch (R103, R104). -/
theorem ge_periodSwitched (s : State) : s.periodSwitched.ge = { s.withPeriod.ge with
    active := s.withPeriod.withSets.ge.active.trim s.busBCapacity, staged := s.withPeriod.withSets.ge.staged } := by
  have hkb : s.withPeriod.busBCapacity = s.busBCapacity := rfl
  rw [periodSwitched, ge_switchSets, ge_withSets, hkb]

theorem a_periodSwitched (s : State) : s.periodSwitched.ge.active.a = s.gi.ceiling - s.ge.reserve := by
  rw [ge_periodSwitched]
  exact (GrantSet.a_trim _ _).trans s.withPeriod.a_withSets

theorem grantBerth_periodSwitched (s : State) (n : Ix) : s.periodSwitched.grantBerth n = { s.grantBerth n with due := true } := by
  rw [grantBerth, ge_periodSwitched]
  exact Six.get_map _ _ _

/-- What a period expiry leaves of the part behind the switch (R105 to R107). -/
structure TurnedFrom (u t : State) : Prop where
  powered : t.powered = u.powered
  now : t.now = u.now
  table : t.table = u.table
  inputs : t.inputs = u.inputs
  oe : t.oe = u.oe
  pru : t.pru = u.pru
  cs : t.cs = u.cs
  gi : t.gi = u.gi
  pending : t.pending = u.pending
  period : t.ge.period = u.ge.period
  a : t.ge.active.a = u.ge.active.a
  due : ∀ n, (t.grantBerth n).due = (u.grantBerth n).due

theorem turnedFrom_compute (u : State) : TurnedFrom u u.compute := by
  have hrest := u.noticesOnly_compute.rest
  have hge := u.ge_compute
  refine ⟨?_, ?_, ?_, ?_, ?_, ?_, ?_, ?_, ?_, by rw [hge]; rfl, by rw [hge]; rfl, fun n => ?_⟩
  case refine_10 =>
    rw [grantBerth, hge]
    simp [withComputation, formedFigures]
  all_goals
    rw [hrest]
    rfl

theorem TurnedFrom.served {u v t : State} (h : TurnedFrom u v) (h' : QueueServed v t) : TurnedFrom u t :=
  ⟨h'.powered.trans h.powered, h'.now.trans h.now, h'.table.trans h.table, h'.inputs.trans h.inputs, h'.oe.trans h.oe,
    h'.pru.trans h.pru, h'.cs.trans h.cs, h'.gi.trans h.gi, h'.pending.trans h.pending, h'.period.trans h.period, h'.a.trans h.a,
    fun n => (h'.due n).trans (h.due n)⟩

/-- From the switch on a period expiry serves the queue and publishes the target. -/
theorem turnedFrom_periodExpiry (s : State) : TurnedFrom s.periodSwitched s.periodExpiry ∧
    s.periodExpiry.port .t = s.periodSwitched.compute.port .t := by
  have hserved := (queueServed_serveQueue s.periodSwitched.compute).trans (queueServed_publish
    (s.periodSwitched.compute.serveQueue.firmB + ((s.periodSwitched.claims.filter Claim.onB).map Claim.cap).sum) _)
  rw [← periodExpiry_eq] at hserved
  exact ⟨(turnedFrom_compute _).served hserved, hserved.link⟩

end State

/-- The switch (R103, R104). -/
theorem switch_answers {s u : State} (hu : u = s.periodSwitched) :
    u.ge.period = (if s.ge.period = 65535 ∨ 65535 < s.ge.period then 0 else s.ge.period + 1) ∧
    u.ge.periodLeft = s.allocation ∧ u.ge.periodLength = s.allocation ∧ u.ge.lastLength = s.ge.periodLength ∧
    (∀ n, u.grantBerth n = { s.grantBerth n with due := true }) ∧ u.port .t = s.port .t ∧
    (s.ge.staged.pending = true →
      u.ge.active = ({ s.ge.staged with
        a := s.gi.ceiling - s.ge.reserve, pending := false } : GrantSet).trim s.busBCapacity) ∧
    (s.ge.staged.pending = false →
      u.ge.active = ({ s.ge.active with a := s.gi.ceiling - s.ge.reserve } : GrantSet).trim s.busBCapacity) := by
  subst hu
  have hge := s.ge_periodSwitched
  refine ⟨?_, by rw [hge]; rfl, by rw [hge]; rfl, by rw [hge]; rfl, s.grantBerth_periodSwitched, ?_, fun hp => ?_, fun hp => ?_⟩
  · have hperiod : s.periodSwitched.ge.period = nextPeriod s.ge.period := by rw [hge]; rfl
    rw [hperiod]
    exact if_congr (by omega) rfl rfl
  · exact (State.grantsNoticed_switchSets .t s.withPeriod).atT rfl
  · rw [hge, State.active_withSets_pending (s := s.withPeriod) hp]
    rfl
  · rw [hge, State.active_withSets_kept (s := s.withPeriod) hp]
    rfl

/-- The computation behind the switch (R105, R106, R109). -/
theorem computation_answers {s u v : State} (hu : u = s.periodSwitched) (hv : v = u.compute) :
    v.ge = { u.ge with
      staged := v.ge.staged, berths := v.ge.berths, overCeiling := decide (u.ge.active.a < u.firmImport)
      overCapacity := decide (u.busBCapacity < u.firmB) } ∧
    (∀ n, v.grantBerth n = { u.grantBerth n with firm := (u.firmFigure n).1 }) ∧ v.heldFirmB = u.firmB ∧
    v.ge.staged.pending = true ∧ v.ge.staged.effective = nextPeriod u.ge.period ∧
    v.ge.staged.a = s.gi.ceiling - s.ge.reserve ∧ v.ge.staged.eta = s.efficiency ∧
    (∀ n f, f = ((flexibleGrants u.efficiency (u.ge.active.a - u.firmImport) (u.busBCapacity - u.firmB) u.claims).find?
        fun x => decide (x.1 = n)).getD (n, 0, 0) →
      v.ge.staged.recs.get n = { firm := (u.firmFigure n).1, flexible := f.2.1, share := f.2.2
                                 bus := if (u.firmFigure n).1 = 0 ∧ f.2.1 = 0 then .none else (u.firmFigure n).2 }) ∧
    (∀ n, (s.port (.v n)).isOpen = true →
      (0 < (v.ge.staged.recs.get n).total ∨ 0 < (u.ge.active.recs.get n).total) →
      (v.port (.v n)).notices.grant.flag = true ∧ (v.port (.v n)).notices.grant.latest =
        some { berth := some n, code := some 1, value := (v.ge.staged.recs.get n).total,
               period := v.ge.staged.effective }) := by
  have hge : v.ge = u.withComputation.ge := by rw [hv, State.ge_compute]
  have hstaged : v.ge.staged = u.stagedSet := by rw [hge]; rfl
  refine ⟨by rw [hge]; rfl, fun n => ?_, by rw [hv, State.heldFirmB_compute], by rw [hstaged]; rfl, by rw [hstaged]; rfl, ?_, ?_,
    fun n f hf => by rw [hstaged]; exact State.recs_stagedSet hf, fun n hopen ht => ?_⟩
  · rw [State.grantBerth, hge]
    simp [State.withComputation, State.formedFigures, State.grantBerth]
  · rw [hstaged, hu]
    exact s.a_periodSwitched
  · have htab : u.table = s.table := by rw [hu]; exact (State.fields_switchSets s.withPeriod).2.2.1
    rw [hstaged]
    show u.efficiency = s.efficiency
    rw [State.efficiency, State.param, htab]
    rfl
  · have hadvised : NoticesOnly u.withComputation u.capacityAdvised :=
      (u.noticesOnly_ceilingJudged.trans u.noticesOnly_ceilingAdvised).trans u.noticesOnly_capacityAdvised
    have hopen' : (u.capacityAdvised.port (.v n)).isOpen = true := by
      rw [hadvised.isOpen]
      show (u.port (.v n)).isOpen = true
      rw [hu]
      exact (State.grantsNoticed_switchSets (.v n) s.withPeriod).isOpen.trans hopen
    have hannounced := State.grant_announceStaged (s := u.capacityAdvised) (n := n) hopen' (by
      rw [hadvised.ge, ← hge]
      have hactive : v.ge.active = u.ge.active := by rw [hge]; rfl
      rwa [hactive])
    rw [hadvised.ge, ← hge, ← State.compute_eq, ← hv] at hannounced
    exact hannounced

/-- PERIOD_EXPIRY: the switch, the computation, the service of the queue and the publication (R103 to R107). -/
theorem periodExpiry_answers {s : State} (h : s.powered = true) :
    ∃ u v t : State, exec .periodExpiry s = .next t.settle ∧
      t = (v.serveQueue).publish (v.serveQueue.firmB + ((u.claims.filter Claim.onB).map Claim.cap).sum) ∧
      u.ge.period = (if s.ge.period = 65535 ∨ 65535 < s.ge.period then 0 else s.ge.period + 1) ∧
      u.ge.periodLeft = s.allocation ∧ u.ge.periodLength = s.allocation ∧ u.ge.lastLength = s.ge.periodLength ∧
      (∀ n, u.grantBerth n = { s.grantBerth n with due := true }) ∧
      (s.ge.staged.pending = true → FlagsReached (fun n second => s.flagSource n second = FlagSource.grantSwitched.index ∧
        (0 < (s.ge.staged.recs.get n).total ∨ 0 < (s.ge.active.recs.get n).total)) s t) ∧
      (s.ge.staged.pending = false → t.oe.flags = s.oe.flags) ∧ u.port .t = s.port .t ∧ v = u.compute ∧
      (s.ge.staged.pending = true →
        u.ge.active = ({ s.ge.staged with
          a := s.gi.ceiling - s.ge.reserve, pending := false } : GrantSet).trim s.busBCapacity) ∧
      (s.ge.staged.pending = false →
        u.ge.active = ({ s.ge.active with a := s.gi.ceiling - s.ge.reserve } : GrantSet).trim s.busBCapacity) ∧
      v.ge = { u.ge with
        staged := v.ge.staged, berths := v.ge.berths, overCeiling := decide (u.ge.active.a < u.firmImport)
        overCapacity := decide (u.busBCapacity < u.firmB) } ∧
      (∀ n, v.grantBerth n = { u.grantBerth n with firm := (u.firmFigure n).1 }) ∧ v.heldFirmB = u.firmB ∧
      v.ge.staged.pending = true ∧ v.ge.staged.effective = nextPeriod u.ge.period ∧
      v.ge.staged.a = s.gi.ceiling - s.ge.reserve ∧ v.ge.staged.eta = s.efficiency ∧
      (∀ n f, f = ((flexibleGrants u.efficiency (u.ge.active.a - u.firmImport) (u.busBCapacity - u.firmB) u.claims).find?
          fun x => decide (x.1 = n)).getD (n, 0, 0) →
        v.ge.staged.recs.get n = { firm := (u.firmFigure n).1, flexible := f.2.1, share := f.2.2
                                   bus := if (u.firmFigure n).1 = 0 ∧ f.2.1 = 0 then .none else (u.firmFigure n).2 }) ∧
      (∀ n, (s.port (.v n)).isOpen = true →
        (0 < (v.ge.staged.recs.get n).total ∨ 0 < (u.ge.active.recs.get n).total) →
        (v.port (.v n)).notices.grant.flag = true ∧ (v.port (.v n)).notices.grant.latest =
          some { berth := some n, code := some 1, value := (v.ge.staged.recs.get n).total,
                 period := v.ge.staged.effective }) ∧
      t.cp.target = v.serveQueue.targetFor (v.serveQueue.firmB + ((u.claims.filter Claim.onB).map Claim.cap).sum) ∧
      (∀ w : State, ∀ demand, w.targetFor demand =
        min w.available (if ceilDiv demand 800 = 0 ∧ w.anyOnB = true then 1 else ceilDiv demand 800)) ∧
      t.ge.period = u.ge.period ∧ t.port .t = v.port .t ∧ (∀ n, (t.grantBerth n).due = true) ∧ t.ge.active.a = s.gi.ceiling - s.ge.reserve ∧
      Untouched [.power, .time, .waiting, .table, .inputs, .held, .reference, .scanner, .grid] s t := by
  obtain ⟨u, hu⟩ : ∃ u, u = s.periodSwitched := ⟨_, rfl⟩
  obtain ⟨v, hv⟩ : ∃ v, v = u.compute := ⟨_, rfl⟩
  obtain ⟨t, ht⟩ : ∃ t, t = s.periodExpiry := ⟨_, rfl⟩
  have hteq : t = v.serveQueue.publish (v.serveQueue.firmB + ((u.claims.filter Claim.onB).map Claim.cap).sum) := by
    rw [ht, hv, hu, State.periodExpiry_eq]
  obtain ⟨hperiod, hleft, hlength, hlast, hmarks, hport, hswitched, hkept⟩ := switch_answers hu
  obtain ⟨hge, hfirm, hheld, hpending, heffective, hA, heta, hrecs, hstaged⟩ := computation_answers hu hv
  obtain ⟨hturned, hporttv⟩ := s.turnedFrom_periodExpiry
  rw [← ht, ← hu] at hturned
  rw [← ht, ← hu, ← hv] at hporttv
  obtain ⟨hpow, hnow, htab, hin, hoe, hheldflag, -, hpru, hcs, -, hgi, hpend⟩ := State.fields_switchSets s.withPeriod
  have huoe : t.oe = s.withPeriod.switchSets.oe := by rw [hturned.oe, hu]; rfl
  refine ⟨u, v, t, ht ▸ event_next (f := State.periodExpiry) h, hteq, hperiod, hleft, hlength, hlast, hmarks, fun hp => ?_,
    fun hp => ?_, hport, hv, hswitched, hkept, hge, hfirm, hheld, hpending, heffective, hA, heta, hrecs, hstaged, ?_,
    fun _ _ => rfl, hturned.period, hporttv, fun n => ?_, ?_, ?_⟩
  · have hreached := State.reached_switchSets (s := s.withPeriod) hp
    exact State.flagsReached_after (FlagsReached.of_same (s := s) hreached rfl rfl rfl) huoe
  · rw [huoe]
    exact State.flags_switchSets (s := s.withPeriod) hp
  · rw [hteq]
    exact (State.fields_publish _ _).2.2.2.2.2.2.2.2.2.2.2
  · rw [hturned.due, hmarks]
  · rw [hturned.a, hu, State.a_periodSwitched]
  · have hfields : u = s.withPeriod.switchSets := hu
    simp only [untouched_cons, untouched_nil, and_true, Part.same]
    rw [hturned.powered, hturned.now, hturned.pending, hturned.table, hturned.inputs, hturned.oe, hturned.pru, hturned.cs,
      hturned.gi, hfields]
    exact ⟨hpow, hnow, hpend, htab, hin, hheldflag, hpru, hcs, hgi⟩

/-- Settles O57: the period expiry in its four steps, the computation, and the publication. -/
theorem periodTurns : Obligations.PeriodTurns := by
  refine ⟨fun s h => periodExpiry_answers h, fun s t a kb needA needB => compute_answers,
    fun s t demand target count m ht htarget hcount => ?_⟩
  subst ht htarget
  refine ⟨(State.fields_publish demand s).2.2.2.2.2.2.2.2.2.2.2, fun hlt h6 hspare hm hmost => ?_, fun hno => ?_⟩
  · rw [hcount, if_pos hlt] at h6
    exact publish_stops hlt (by omega) hspare hm hmost
  · have hpublished : (s.published demand).cp = { s.cp with target := s.targetFor demand, stopCount := count } := by
      rw [hcount]
      rfl
    have hquiet : s.publish demand = (s.published demand).startTest := by
      refine State.publish_keeps (hno.imp_right (Or.imp_left fun hlt => ?_))
      rw [hpublished]
      exact Nat.ne_of_lt hlt
    obtain ⟨hframe, hidle, hstarts⟩ := publish_quiet (m := m) hquiet
    rw [hpublished] at hidle hstarts
    exact ⟨hframe, hidle, hstarts⟩

end Sys2Proof.Machine

/-! Support for the obligations about the Grid Interface: grid words and their assembly, staleness, and what the shed line does to
the grant sets and to the notices of the berths. -/

namespace Sys2Proof.Machine

/-- An event on a part that is supplied, with nothing to follow it. -/
theorem quiet_next {f : State → State} {s : State} (h : s.powered = true) : quiet f s = .next (f s) := by
  simp [quiet, h]

/-! ### The ceiling in force (R93) -/

namespace State

/-- A CEILING notice is the latest of its class at port T (R179, R181). -/
theorem ceiling_notifyCeiling (k : CeilingCode) (v : Nat) {s : State} (h : (s.port .t).isOpen = true) :
    ((s.notifyCeiling k v).port .t).notices.ceiling = { (s.port .t).notices.ceiling with
      flag := true, latest := some { berth := none, code := some k.number, value := v, period := s.ge.period } } :=
  s.notices_notify .t .ceiling none k.number v h

@[simp] theorem isOpen_notifyCeiling (k : CeilingCode) (v : Nat) (p : Port) (s : State) :
    ((s.notifyCeiling k v).port p).isOpen = (s.port p).isOpen := s.isOpen_notify .t p .ceiling none k.number v

/-- A CEILING notice goes to no berth. -/
theorem port_notifyCeiling_v (k : CeilingCode) (v : Nat) (n : Ix) (s : State) :
    (s.notifyCeiling k v).port (.v n) = s.port (.v n) := s.link_notify_ne .ceiling none k.number v (by simp)

theorem onlyTouches_notifyCeiling (k : CeilingCode) (v : Nat) (s : State) : OnlyTouches [.link .t] s (s.notifyCeiling k v) :=
  onlyTouches_post _ _ _

/-- A change of the Grid Interface and then a CEILING notice. -/
theorem onlyTouches_notifyCeiling_of_grid {s t : State} (h : OnlyTouches [.grid] s t) (k : CeilingCode) (v : Nat) :
    OnlyTouches [.link .t, .grid] s (t.notifyCeiling k v) :=
  onlyTouches_trans (onlyTouches_mono h (by simp)) (onlyTouches_mono (t.onlyTouches_notifyCeiling k v) (by simp))

/-- L is the Grid Interface's own. -/
theorem onlyTouches_reformCeiling_modGi (f : GridUnit → GridUnit) (s : State) :
    OnlyTouches [.grid] s (s.modGi f).reformCeiling :=
  onlyTouches_trans (onlyTouches_modGi f) (onlyTouches_modGi _)

/-! ### Grid words (R90, R91, R92) -/

/-- A good word's ceiling is received, the staleness timer starts again, and L is formed anew (R91, R92, R93). -/
def wordAccepted (received : Nat) (s : State) : State :=
  (s.modGi fun g => { g with received := some received, staleness := some s.stalenessLimit, state := .current }).reformCeiling

theorem takeWord_good {hi lo check : Byte} (s : State) (h : check = ~~~(hi + lo)) : s.takeWord hi lo check =
    if s.gi.state = .stale then
      (s.wordAccepted (min (wordCeiling hi lo) s.feeder)).notifyCeiling .fallbackOff (min (wordCeiling hi lo) s.feeder)
    else s.wordAccepted (min (wordCeiling hi lo) s.feeder) := if_pos (beq_iff_eq.mpr h)

theorem takeWord_bad {hi lo check : Byte} (s : State) (h : check ≠ ~~~(hi + lo)) : s.takeWord hi lo check = s :=
  if_neg (mt beq_iff_eq.mp h)

theorem gi_wordAccepted {received : Nat} {s : State} (h : received ≤ s.feeder) : (s.wordAccepted received).gi = { s.gi with
    received := some received, state := .current, staleness := some s.stalenessLimit, ceiling := received } := by
  rw [wordAccepted, gi_reformCeiling]
  simpa [feeder, param] using h

end State

theorem exec_gridWord {s : State} (hi lo check : Byte) (h : s.powered = true) :
    exec (.gridWord hi lo check) s = .next (s.dropWord.takeWord hi lo check) :=
  quiet_next (f := fun t => t.dropWord.takeWord hi lo check) h

theorem exec_gridByteReceived {s : State} (b : Byte) (h : s.powered = true) :
    exec (.gridByteReceived b) s = .next (s.gridByte b) := quiet_next h

/-- A good word is accepted (R91 to R93). -/
theorem gridWord_accepted {s : State} {hi lo check : Byte} (h : s.powered = true) (hgood : check = ~~~(hi + lo)) :
    ∃ t : State, exec (.gridWord hi lo check) s = .next t ∧
      t.gi = { s.gi with
        assembly := .hunt, received := some (min (wordCeiling hi lo) s.feeder), state := .current
        staleness := some s.stalenessLimit, ceiling := min (wordCeiling hi lo) s.feeder } ∧
      (s.gi.state = .stale → (s.port .t).isOpen = true → (t.port .t).notices.ceiling = { (s.port .t).notices.ceiling with
        flag := true
        latest := some { berth := none, code := some 2, period := s.ge.period
                         value := min (wordCeiling hi lo) s.feeder } }) ∧
      (s.gi.state ≠ .stale → t.port .t = s.port .t) ∧ OnlyTouches [.link .t, .grid] s t := by
  obtain ⟨r, hr⟩ : ∃ r, r = min (wordCeiling hi lo) s.feeder := ⟨_, rfl⟩
  obtain ⟨u, hu⟩ : ∃ u, u = s.dropWord.wordAccepted r := ⟨_, rfl⟩
  have hgi : u.gi = { s.gi with
      assembly := .hunt, received := some r, state := .current, staleness := some s.stalenessLimit, ceiling := r } := by
    rw [hu, State.gi_wordAccepted (by rw [hr]; exact Nat.min_le_right _ _)]
    rfl
  have hframe : OnlyTouches [.grid] s u :=
    hu ▸ onlyTouches_trans (onlyTouches_modGi _) (State.onlyTouches_reformCeiling_modGi _ _)
  have hport : u.port .t = s.port .t := hframe (.link .t) (by simp)
  have hge : u.ge = s.ge := hframe .grants (by simp)
  have hexec : exec (.gridWord hi lo check) s =
      .next (if s.gi.state = .stale then u.notifyCeiling .fallbackOff r else u) := by
    rw [exec_gridWord hi lo check h, s.dropWord.takeWord_good hgood, hu, hr]
    rfl
  rw [hexec, ← hr]
  by_cases hstale : s.gi.state = .stale
  · rw [if_pos hstale]
    refine ⟨_, rfl, ?_, fun _ hopen => ?_, fun hne => absurd hstale hne, State.onlyTouches_notifyCeiling_of_grid hframe _ _⟩
    · simpa using hgi
    · rw [State.ceiling_notifyCeiling _ _ (by rwa [hport]), hport, hge]
      rfl
  · rw [if_neg hstale]
    exact ⟨u, rfl, hgi, fun he => absurd he hstale, fun _ => hport, onlyTouches_mono hframe (by simp)⟩

/-- A bad word is discarded (R91). -/
theorem gridWord_discarded {s : State} {hi lo check : Byte} (h : s.powered = true) (hbad : check ≠ ~~~(hi + lo)) :
    exec (.gridWord hi lo check) s = .next (s.modGi fun g => { g with assembly := .hunt }) := by
  rw [exec_gridWord hi lo check h, s.dropWord.takeWord_bad hbad]
  rfl

/-- The third byte behind the marker completes the word (R90). -/
theorem gridByte_completes {s : State} {b hi lo : Byte} (h : s.powered = true) (ha : s.gi.assembly = .collect [hi, lo]) :
    exec (.gridByteReceived b) s = exec (.gridWord hi lo b) s := by
  have hbyte : s.gridByte b = s.dropWord.takeWord hi lo b := by simp [State.gridByte, ha]
  rw [exec_gridByteReceived b h, exec_gridWord hi lo b h, hbyte]

/-- Settles O45. -/
theorem gridWordAccepted : Obligations.GridWordAccepted := by
  refine ⟨fun s hi lo check h => ⟨gridWord_accepted h, gridWord_discarded h⟩, fun s b hi lo h =>
    ⟨fun ha hb => ?_, fun ha hb => ?_, fun ha => ?_, fun ha => ?_, gridByte_completes h, quiet_next h, quiet_next h⟩⟩ <;>
    rw [exec_gridByteReceived b h]
  · simp [State.gridByte, ha, hb, Config.gridMarker]
  · simpa [State.gridByte, ha, Config.gridMarker] using fun he => absurd he hb
  · simp [State.gridByte, ha]
  · simp [State.gridByte, ha]

/-! ### Staleness (R92) -/

/-- The staleness timer expires: L is formed from F, and FALLBACK_ON goes to T (R92, R93). -/
theorem staleness_expires {s : State} (h : s.powered = true) (hrun : s.gi.staleness.isSome = true) :
    ∃ t : State, exec .stalenessExpiry s = .next t ∧
      t.gi = { s.gi with state := .stale, staleness := none, ceiling := min s.fallback s.feeder } ∧
      ((s.port .t).isOpen = true → (t.port .t).notices.ceiling.latest =
        some { berth := none, code := some 1, value := min s.fallback s.feeder, period := s.ge.period }) ∧
      OnlyTouches [.link .t, .grid] s t := by
  obtain ⟨u, hu⟩ : ∃ u, u = (s.modGi fun g => { g with state := .stale, staleness := none }).reformCeiling := ⟨_, rfl⟩
  have hgi : u.gi = { s.gi with state := .stale, staleness := none, ceiling := min s.fallback s.feeder } := by
    rw [hu, State.gi_reformCeiling]
    rfl
  have hframe : OnlyTouches [.grid] s u := hu ▸ State.onlyTouches_reformCeiling_modGi _ s
  have hport : u.port .t = s.port .t := hframe (.link .t) (by simp)
  have hge : u.ge = s.ge := hframe .grants (by simp)
  have hstale : s.stalenessExpires = u.notifyCeiling .fallbackOn u.gi.ceiling := by
    rw [State.stalenessExpires, if_pos hrun, hu]
    rfl
  refine ⟨_, (quiet_next h).trans (congrArg _ hstale), by simpa using hgi, fun hopen => ?_,
    State.onlyTouches_notifyCeiling_of_grid hframe _ _⟩
  rw [State.ceiling_notifyCeiling _ _ (by rwa [hport]), hgi, hge]
  rfl

end Sys2Proof.Machine

namespace Sys2Proof.Machine

/-! ### GRANT notices, berth by berth -/

namespace State

theorem port_notifyGrant_same (n : Ix) (c v k : Nat) (s : State) : (s.notifyGrant n c v k).port (.v n) =
    if (s.port (.v n)).isOpen then (s.port (.v n)).posted .grant ⟨some n, some c, v, k⟩ else s.port (.v n) := by
  rw [port, notifyGrant, post, link_modPort, PortMap.get_set_same]
  rfl

theorem port_notifyGrant_ne {n m : Ix} (c v k : Nat) (s : State) (h : n ≠ m) :
    (s.notifyGrant m c v k).port (.v n) = s.port (.v n) := s.link_post_ne .grant _ (by simpa using h)

/-- A GRANT notice is the latest of its class at an open port Vn, and the mask stays (R179). -/
theorem grant_notifyGrant {s u : State} {n : Ix} (c v k : Nat) (hopen : (u.port (.v n)).isOpen = true)
    (hmasked : (u.port (.v n)).notices.grant.masked = (s.port (.v n)).notices.grant.masked) :
    ((u.notifyGrant n c v k).port (.v n)).notices.grant = { (s.port (.v n)).notices.grant with
      flag := true, latest := some { berth := some n, code := some c, value := v, period := k } } := by
  rw [port_notifyGrant_same, if_pos hopen]
  simp only [← hmasked]
  rfl

/-- One GRANT notice for each berth that passes a test, with a period that the Grant Engine gives: each berth has its own alone. -/
theorem port_forEach_notifyGrant (test : Ix → Prop) [DecidablePred test] (c : Nat) (v : Ix → Nat) (k : GrantUnit → Nat)
    {l : List Ix} (hl : l.Nodup) (n : Ix) (s : State) :
    (s.forEach l fun m u => if test m then u.notifyGrant m c (v m) (k u.ge) else u).port (.v n) =
      if n ∈ l ∧ test n then (s.notifyGrant n c (v n) (k s.ge)).port (.v n) else s.port (.v n) := by
  induction l generalizing s with
  | nil => simp [forEach]
  | cons m l ih =>
    obtain ⟨hm, hl'⟩ := List.nodup_cons.mp hl
    obtain ⟨u, hu⟩ : ∃ u, u = if test m then s.notifyGrant m c (v m) (k s.ge) else s := ⟨_, rfl⟩
    have hge : u.ge = s.ge := by
      rw [hu]
      split <;> simp
    have hfirst : (s.forEach (m :: l) fun m u => if test m then u.notifyGrant m c (v m) (k u.ge) else u) =
        u.forEach l fun m u => if test m then u.notifyGrant m c (v m) (k u.ge) else u := by
      rw [hu]
      rfl
    rw [hfirst, ih hl' u]
    by_cases hnm : n = m
    · subst hnm
      simp [hm, hu, apply_ite (port · (.v n))]
    · have hport : u.port (.v n) = s.port (.v n) := by
        rw [hu]
        split
        · exact port_notifyGrant_ne _ _ _ s hnm
        · rfl
      simp only [port_notifyGrant_same, hport, hge, List.mem_cons, hnm, false_or]

/-! ### The cut of the two sets (R95, R117, R118, R119) -/

@[simp] theorem recs_noFlexible (g : GrantSet) (n : Ix) :
    g.noFlexible.recs.get n = { g.recs.get n with flexible := 0, share := 0 } := Six.get_map _ _ n

/-- With room 0 the flexible grants that fall are those above 0. -/
theorem reducedFrom_noFlexible (g : GrantSet) (n : Ix) :
    g.reducedFrom g.noFlexible n = decide (0 < (g.recs.get n).flexible) := by
  rw [GrantSet.reducedFrom, recs_noFlexible]

theorem total_noFlexible (g : GrantSet) (n : Ix) : (g.noFlexible.recs.get n).total = (g.recs.get n).firm := by
  rw [recs_noFlexible]
  rfl

/-- GRANT_TRIMMED goes to the berths with a flexible grant in the active set. -/
theorem port_cutActive_noFlexible (n : Ix) (s : State) : (s.cutActive GrantSet.noFlexible).port (.v n) =
    if 0 < (s.ge.active.recs.get n).flexible then
      (s.notifyGrant n 2 (s.ge.active.recs.get n).firm s.ge.period).port (.v n)
    else s.port (.v n) := by
  have h := port_forEach_notifyGrant (fun m => s.ge.active.reducedFrom s.ge.active.noFlexible m = true) 2
    (fun m => (s.ge.active.noFlexible.recs.get m).total) GrantUnit.period (l := Ix.all) (by decide) n
    (s.modGe fun g => { g with active := g.active.noFlexible })
  refine Eq.trans h ?_
  simp only [reducedFrom_noFlexible, total_noFlexible, decide_eq_true_eq, Ix.mem_all, true_and]
  rfl

/-- GRANT_RESTAGED goes to the berths with a flexible grant in a staged set that is pending. -/
theorem port_cutStaged_noFlexible (n : Ix) (s : State) : (s.cutStaged GrantSet.noFlexible).port (.v n) =
    if 0 < (s.ge.staged.recs.get n).flexible ∧ s.ge.staged.pending = true then
      (s.notifyGrant n 3 (s.ge.staged.recs.get n).firm s.ge.staged.effective).port (.v n)
    else s.port (.v n) := by
  have h := port_forEach_notifyGrant (fun m => s.ge.staged.reducedFrom s.ge.staged.noFlexible m = true ∧
      s.ge.staged.noFlexible.pending = true) 3 (fun m => (s.ge.staged.noFlexible.recs.get m).total)
    (fun _ => s.ge.staged.noFlexible.effective) (l := Ix.all) (by decide) n
    (s.modGe fun g => { g with staged := g.staged.noFlexible })
  refine Eq.trans h ?_
  simp only [reducedFrom_noFlexible, total_noFlexible, decide_eq_true_eq, Ix.mem_all, true_and]
  rfl

end State

end Sys2Proof.Machine

namespace Sys2Proof.Machine

namespace State

theorem port_cutAll (n : Ix) (s : State) : s.cutAll.port (.v n) =
    if 0 < (s.ge.staged.recs.get n).flexible ∧ s.ge.staged.pending = true then
      ((s.cutActive GrantSet.noFlexible).notifyGrant n 3 (s.ge.staged.recs.get n).firm s.ge.staged.effective).port (.v n)
    else (s.cutActive GrantSet.noFlexible).port (.v n) := by
  rw [cutAll, port_cutStaged_noFlexible, ge_cutActive]

/-- GRANT_TRIMMED leaves a port open or closed, and its GRANT class masked or not. -/
theorem isOpen_masked_cutActive (n : Ix) (s : State) :
    ((s.cutActive GrantSet.noFlexible).port (.v n)).isOpen = (s.port (.v n)).isOpen ∧
      ((s.cutActive GrantSet.noFlexible).port (.v n)).notices.grant.masked = (s.port (.v n)).notices.grant.masked := by
  rw [port_cutActive_noFlexible]
  split
  · have hnoticed := grantsNoticed_notifyGrant n 2 (s.ge.active.recs.get n).firm s.ge.period (.v n) s
    exact ⟨hnoticed.isOpen, hnoticed.masked .grant⟩
  · exact ⟨rfl, rfl⟩

theorem isOpen_cutAll (n : Ix) (s : State) : (s.cutAll.port (.v n)).isOpen = (s.port (.v n)).isOpen := by
  rw [port_cutAll, ← (s.isOpen_masked_cutActive n).1]
  split
  · exact (grantsNoticed_notifyGrant n 3 _ _ (.v n) _).isOpen
  · rfl

/-- A berth that loses a staged flexible grant has GRANT_RESTAGED as its latest, whatever the cut of the active set gave. -/
theorem grant_cutAll_restaged {s : State} {n : Ix} (hpending : s.ge.staged.pending = true)
    (hflex : 0 < (s.ge.staged.recs.get n).flexible) (hopen : (s.port (.v n)).isOpen = true) :
    (s.cutAll.port (.v n)).notices.grant = { (s.port (.v n)).notices.grant with
      flag := true
      latest := some { berth := some n, code := some 3, value := (s.ge.staged.recs.get n).firm
                       period := s.ge.staged.effective } } := by
  obtain ⟨hsame, hmasked⟩ := s.isOpen_masked_cutActive n
  rw [port_cutAll, if_pos ⟨hflex, hpending⟩]
  exact grant_notifyGrant _ _ _ (hsame.trans hopen) hmasked

/-- A berth that loses an active flexible grant alone has GRANT_TRIMMED. -/
theorem grant_cutAll_trimmed {s : State} {n : Ix}
    (hstaged : ¬ (0 < (s.ge.staged.recs.get n).flexible ∧ s.ge.staged.pending = true))
    (hflex : 0 < (s.ge.active.recs.get n).flexible) (hopen : (s.port (.v n)).isOpen = true) :
    (s.cutAll.port (.v n)).notices.grant = { (s.port (.v n)).notices.grant with
      flag := true
      latest := some { berth := some n, code := some 2, value := (s.ge.active.recs.get n).firm, period := s.ge.period } } := by
  rw [port_cutAll, if_neg hstaged, port_cutActive_noFlexible, if_pos hflex]
  exact grant_notifyGrant _ _ _ hopen rfl

/-- A berth that loses no flexible grant has no notice. -/
theorem port_cutAll_kept {s : State} {n : Ix}
    (hstaged : ¬ (0 < (s.ge.staged.recs.get n).flexible ∧ s.ge.staged.pending = true))
    (hactive : ¬ 0 < (s.ge.active.recs.get n).flexible) : s.cutAll.port (.v n) = s.port (.v n) := by
  rw [port_cutAll, if_neg hstaged, port_cutActive_noFlexible, if_neg hactive]

/-- The AT_SWITCH cut: firm grants stay, and a record left without a grant has no bus (R96, R100; log entry 15). -/
theorem recs_firmOnly (g : GrantSet) (n : Ix) : g.firmOnly.recs.get n = { g.recs.get n with
    flexible := 0, share := 0, bus := if (g.recs.get n).firm = 0 then .none else (g.recs.get n).bus } := by
  simp [GrantSet.firmOnly, mkGrant]

theorem zeroStaged_pending {s : State} (h : s.ge.staged.pending = true) :
    s.zeroStaged = s.modGe fun g => { g with staged := g.staged.firmOnly } := if_pos h

theorem zeroStaged_idle {s : State} (h : s.ge.staged.pending = false) : s.zeroStaged = s := by
  rw [zeroStaged, if_neg (by simp [h])]

/-! ### The shed line (R94 to R97) -/

/-- What a shed does to the grants gives port T no notice (R119). -/
theorem port_shedGrants_t (m : ShedMode) (s : State) : (s.shedGrants m).port .t = s.port .t := by
  cases m with
  | immediate => exact ((s.cutActive _).link_cutStaged_t _).trans (s.link_cutActive_t _)
  | atSwitch =>
    obtain ⟨-, -, -, -, hlink, -⟩ := s.fields_zeroStaged
    exact congrArg (·.get .t) hlink

@[simp] theorem period_shedGrants (m : ShedMode) (s : State) : (s.shedGrants m).ge.period = s.ge.period := by
  cases m with
  | immediate => simp [shedGrants]
  | atSwitch =>
    rw [shedGrants, zeroStaged]
    split <;> rfl

/-- The shed line is asserted and the mode is taken (R94). -/
def shedTaken (s : State) : State :=
  (s.modInputs fun i => { i with shed := true }).modGi fun g => { g with shedLine := true, shed := some s.shedParam }

/-- An assertion without a shed in effect: the mode, the grants, SHED_ON. -/
def shedBegun (s : State) : State := (s.shedTaken.shedGrants s.shedParam).notifyCeiling .shedOn s.shedParam.number

theorem shedAsserts_none {s : State} (h : s.gi.shed = none) : s.shedAsserts = s.shedBegun := by
  simp only [shedAsserts, h]
  rfl

theorem shedParam_immediate {s : State} (h : s.param 17 = 0) : s.shedParam = .immediate := if_pos h

theorem shedParam_atSwitch {s : State} (h : s.param 17 ≠ 0) : s.shedParam = .atSwitch := if_neg h

theorem number_shedParam (s : State) : s.shedParam.number = if s.param 17 = 0 then 0 else 1 := by
  rw [shedParam, apply_ite ShedMode.number]
  rfl

theorem gi_shedBegun (s : State) : s.shedBegun.gi = { s.gi with shedLine := true, shed := some s.shedParam } := by
  simp [shedBegun, shedTaken]

theorem ge_shedBegun (s : State) : s.shedBegun.ge = (s.shedTaken.shedGrants s.shedParam).ge := by simp [shedBegun]

theorem port_shedBegun_v (n : Ix) (s : State) :
    s.shedBegun.port (.v n) = (s.shedTaken.shedGrants s.shedParam).port (.v n) := port_notifyCeiling_v _ _ n _

/-- SHED_ON with the mode goes to T (R181). -/
theorem noticed_shedBegun (s : State) : Noticed s s.shedBegun .t .ceiling none 3 (if s.param 17 = 0 then 0 else 1) := by
  intro hopen
  rw [shedBegun, isOpen_notifyCeiling] at hopen
  refine (ceiling_notifyCeiling .shedOn s.shedParam.number hopen).trans ?_
  rw [port_shedGrants_t, period_shedGrants, number_shedParam]
  rfl

theorem onlyTouches_shedBegun (s : State) : OnlyTouches ([.inputs, .grid, .grants] ++ allLinks) s s.shedBegun := by
  apply onlyTouches_allLinks <;> simp [shedBegun, shedTaken]

/-- A shed in mode IMMEDIATE cuts both sets (R95). -/
theorem ge_shedBegun_immediate {s : State} (h : s.param 17 = 0) : s.shedBegun.ge =
    { s.ge with active := s.ge.active.noFlexible, staged := s.ge.staged.noFlexible } := by
  rw [ge_shedBegun, shedParam_immediate h]
  exact s.shedTaken.ge_cutAll

theorem port_shedBegun_immediate {s : State} (h : s.param 17 = 0) (n : Ix) :
    s.shedBegun.port (.v n) = s.shedTaken.cutAll.port (.v n) := by
  rw [port_shedBegun_v, shedParam_immediate h]
  rfl

/-- A shed in mode AT_SWITCH gives no berth a notice (R96). -/
theorem port_shedBegun_atSwitch {s : State} (h : s.param 17 ≠ 0) (n : Ix) : s.shedBegun.port (.v n) = s.port (.v n) := by
  obtain ⟨-, -, -, -, hlink, -⟩ := s.shedTaken.fields_zeroStaged
  rw [port_shedBegun_v, shedParam_atSwitch h]
  exact congrArg (·.get (.v n)) hlink

/-- A shed in mode AT_SWITCH cuts a staged set that is pending (R96). -/
theorem ge_shedBegun_pending {s : State} (h : s.param 17 ≠ 0) (hp : s.ge.staged.pending = true) :
    s.shedBegun.ge = { s.ge with staged := s.ge.staged.firmOnly } := by
  rw [ge_shedBegun, shedParam_atSwitch h, shedGrants, zeroStaged_pending (s := s.shedTaken) hp]
  rfl

theorem ge_shedBegun_idle {s : State} (h : s.param 17 ≠ 0) (hp : s.ge.staged.pending = false) : s.shedBegun.ge = s.ge := by
  rw [ge_shedBegun, shedParam_atSwitch h, shedGrants, zeroStaged_idle (s := s.shedTaken) hp]
  rfl

end State

/-- A shed in mode IMMEDIATE: a berth that loses a pending flexible grant has GRANT_RESTAGED as its latest, one that loses an active
one alone GRANT_TRIMMED, and the others no notice (R95, R119). -/
theorem notices_shedBegun_immediate {s : State} {n : Ix} {cut restaged : Bool} (himm : s.param 17 = 0)
    (hcut : cut = decide (0 < (s.ge.active.recs.get n).flexible))
    (hrestaged : restaged = (s.ge.staged.pending && decide (0 < (s.ge.staged.recs.get n).flexible))) :
    (restaged = true → (s.shedBegun.port (.v n)).isOpen = true →
      (s.shedBegun.port (.v n)).notices.grant = { (s.port (.v n)).notices.grant with
        flag := true
        latest := some { berth := some n, code := some 3, value := (s.ge.staged.recs.get n).firm
                         period := s.ge.staged.effective } }) ∧
    (restaged = false → cut = true → Noticed s s.shedBegun (.v n) .grant (some n) 2 (s.ge.active.recs.get n).firm) ∧
    (restaged = false → cut = false → s.shedBegun.port (.v n) = s.port (.v n)) := by
  have hport := State.port_shedBegun_immediate himm n
  have hopen_of : (s.shedBegun.port (.v n)).isOpen = true → (s.port (.v n)).isOpen = true := fun hopen => by
    rwa [hport, State.isOpen_cutAll] at hopen
  have hrestaged_iff : restaged = true ↔ 0 < (s.ge.staged.recs.get n).flexible ∧ s.ge.staged.pending = true := by
    simp [hrestaged, and_comm]
  have hcut_iff : cut = true ↔ 0 < (s.ge.active.recs.get n).flexible := by simp [hcut]
  rw [← Bool.not_eq_true, ← Bool.not_eq_true, hrestaged_iff, hcut_iff]
  refine ⟨fun hr hopen => ?_, fun hr hc hopen => ?_, fun hr hc => ?_⟩
  · rw [hport]
    exact State.grant_cutAll_restaged (s := s.shedTaken) hr.2 hr.1 (hopen_of hopen)
  · rw [hport]
    exact State.grant_cutAll_trimmed (s := s.shedTaken) hr hc (hopen_of hopen)
  · rw [hport]
    exact State.port_cutAll_kept (s := s.shedTaken) hr hc

/-- A shed in mode AT_SWITCH leaves the active set. -/
theorem active_shedBegun_atSwitch {s : State} (h : s.param 17 ≠ 0) : s.shedBegun.ge.active = s.ge.active := by
  cases hp : s.ge.staged.pending
  · rw [State.ge_shedBegun_idle h hp]
  · rw [State.ge_shedBegun_pending h hp]

theorem exec_shedAsserted {s : State} (h : s.powered = true) (hnone : s.gi.shed = none) :
    exec .shedAsserted s = .next s.shedBegun := (quiet_next h).trans (congrArg _ (State.shedAsserts_none hnone))

/-- The shed line is released: no grant changes (R94, R97). -/
theorem shed_released {s : State} {mode : ShedMode} (h : s.powered = true) (hmode : s.gi.shed = some mode) :
    ∃ t : State, exec .shedReleased s = .next t ∧ t.gi = { s.gi with shedLine := false, shed := none } ∧
      ((s.port .t).isOpen = true → (t.port .t).notices.ceiling.latest =
        some { berth := none, code := some 4, value := 0, period := s.ge.period }) ∧
      OnlyTouches [.inputs, .link .t, .grid] s t := by
  obtain ⟨u, hu⟩ : ∃ u, u = (s.modInputs fun i => { i with shed := false }).modGi fun g =>
    { g with shedLine := false, shed := none } := ⟨_, rfl⟩
  have hframe : OnlyTouches [.inputs, .grid] s u := hu ▸ onlyTouches_trans
    (onlyTouches_mono (onlyTouches_modInputs _) (by simp)) (onlyTouches_mono (onlyTouches_modGi _) (by simp))
  have hport : u.port .t = s.port .t := hframe (.link .t) (by simp)
  have hge : u.ge = s.ge := hframe .grants (by simp)
  have hrelease : s.shedReleases = u.notifyCeiling .shedOff 0 := by
    simp only [State.shedReleases, hmode, hu]
  refine ⟨_, (quiet_next h).trans (congrArg _ hrelease), by simp [hu], fun hopen => ?_,
    onlyTouches_trans (onlyTouches_mono hframe (by simp)) (onlyTouches_mono (u.onlyTouches_notifyCeiling _ _) (by simp))⟩
  rw [State.ceiling_notifyCeiling _ _ (by rwa [hport]), hge]
  rfl

/-- Settles O46. -/
theorem ceilingFallsBack : Obligations.CeilingFallsBack := by
  refine ⟨fun s => staleness_expires, fun s h => ⟨fun hnone => ⟨s.shedBegun, exec_shedAsserted h hnone, s.gi_shedBegun,
    s.noticed_shedBegun, fun himm n => ?_, fun hsw => ?_, s.onlyTouches_shedBegun⟩, fun _ => shed_released h⟩⟩
  · rw [State.ge_shedBegun_immediate himm]
    exact ⟨State.recs_noFlexible _ n, State.recs_noFlexible _ n, fun cut restaged => notices_shedBegun_immediate himm⟩
  · refine ⟨active_shedBegun_atSwitch hsw, State.port_shedBegun_atSwitch hsw, State.ge_shedBegun_idle hsw, fun hp n => ?_⟩
    rw [State.ge_shedBegun_pending hsw hp]
    exact State.recs_firmOnly _ n

end Sys2Proof.Machine

namespace Sys2Proof.Machine

/-! ### The two steps of a trim (R117) -/

/-- An amount cut in proportion to a room within the total does not grow. -/
theorem mul_div_le_self_of_le {x room total : Nat} (h : room ≤ total) : x * room / total ≤ x :=
  Nat.div_le_of_le_mul (by rw [Nat.mul_comm total]; exact Nat.mul_le_mul_left x h)

/-- Room is left below the grants that share it when the firm part and they do not fit. -/
theorem sub_le_of_exceeds {room firm grants : Nat} (h : room < firm + grants) : room - firm ≤ grants := by omega

theorem cutImport_eq (eta room total : Nat) (r : GrantRec) : GrantSet.cutImport eta room total r = { r with
    share := r.share * room / total
    flexible := if r.bus = .b then min r.flexible (r.share * room / total * eta / 1000) else r.share * room / total } := by
  unfold GrantSet.cutImport
  cases r.bus <;> rfl

namespace GrantSet

/-- The bus B step of a set whose bus-B grants exceed KB. -/
theorem recs_trimB_short {g : GrantSet} {kb : Nat} (n : Ix) (hflex : 0 < g.sumOn .b GrantRec.flexible)
    (hshort : kb < g.sumOn .b GrantRec.firm + g.sumOn .b GrantRec.flexible) : (g.trimB kb).recs.get n =
      cutOnB g.eta (kb - g.sumOn .b GrantRec.firm) (g.sumOn .b GrantRec.flexible) (g.recs.get n) := by
  simp only [trimB, if_pos (And.intro hflex hshort), Six.get_map]

/-- The bus B step of a set whose bus-B grants fit, or that has no flexible one. -/
theorem trimB_fits {g : GrantSet} {kb : Nat} (h : g.sumOn .b GrantRec.flexible = 0 ∨
    g.sumOn .b GrantRec.firm + g.sumOn .b GrantRec.flexible ≤ kb) : g.trimB kb = g := if_neg (by omega)

/-- The import step of a set whose import exceeds its A. -/
theorem recs_trimImport_short {g : GrantSet} (n : Ix) (hshares : 0 < g.shares) (hshort : g.a < g.firmImport + g.shares) :
    g.trimImport.recs.get n = cutImport g.eta (g.a - g.firmImport) g.shares (g.recs.get n) := by
  simp only [trimImport, if_pos (And.intro hshares hshort), Six.get_map]

/-- The import step of a set whose import fits, or that has no share. -/
theorem trimImport_fits {g : GrantSet} (h : g.shares = 0 ∨ g.firmImport + g.shares ≤ g.a) : g.trimImport = g :=
  if_neg (by omega)

/-- The bus B step leaves the records off bus B. -/
theorem recs_trimB_offB {g : GrantSet} {n : Ix} (kb : Nat) (h : (g.recs.get n).bus ≠ .b) :
    (g.trimB kb).recs.get n = g.recs.get n := by
  by_cases hshort : 0 < g.sumOn .b GrantRec.flexible ∧ kb < g.sumOn .b GrantRec.firm + g.sumOn .b GrantRec.flexible
  · rw [recs_trimB_short n hshort.1 hshort.2, cutOnB, if_neg h]
  · rw [trimB_fits (by omega)]

/-- The bus B step lowers flexible grants alone. -/
theorem trimB_lowers (g : GrantSet) (kb : Nat) (n : Ix) : ((g.trimB kb).recs.get n).firm = (g.recs.get n).firm ∧
    ((g.trimB kb).recs.get n).bus = (g.recs.get n).bus ∧ ((g.trimB kb).recs.get n).flexible ≤ (g.recs.get n).flexible := by
  by_cases hshort : 0 < g.sumOn .b GrantRec.flexible ∧ kb < g.sumOn .b GrantRec.firm + g.sumOn .b GrantRec.flexible
  · rw [recs_trimB_short n hshort.1 hshort.2, cutOnB]
    split
    · exact ⟨rfl, rfl, mul_div_le_self_of_le (sub_le_of_exceeds hshort.2)⟩
    · exact ⟨rfl, rfl, le_rfl⟩
  · rw [trimB_fits (by omega)]
    exact ⟨rfl, rfl, le_rfl⟩

/-- The import step lowers flexible grants alone, where a share off bus B is the flexible grant (R100). -/
theorem trimImport_lowers {g : GrantSet} {n : Ix}
    (h : (g.recs.get n).bus ≠ .b → (g.recs.get n).share = (g.recs.get n).flexible) :
    (g.trimImport.recs.get n).firm = (g.recs.get n).firm ∧ (g.trimImport.recs.get n).bus = (g.recs.get n).bus ∧
      (g.trimImport.recs.get n).flexible ≤ (g.recs.get n).flexible := by
  by_cases hshort : 0 < g.shares ∧ g.a < g.firmImport + g.shares
  · rw [recs_trimImport_short n hshort.1 hshort.2, cutImport_eq]
    refine ⟨rfl, rfl, ?_⟩
    simp only
    split
    · exact Nat.min_le_left _ _
    · rename_i hbus
      exact (mul_div_le_self_of_le (sub_le_of_exceeds hshort.2)).trans (h hbus).le
  · rw [trimImport_fits (by omega)]
    exact ⟨rfl, rfl, le_rfl⟩

/-- A trim lowers flexible grants alone (R117). -/
theorem trim_lowers {g : GrantSet} {n : Ix} (kb : Nat)
    (h : (g.recs.get n).bus ≠ .b → (g.recs.get n).share = (g.recs.get n).flexible) :
    ((g.trim kb).recs.get n).firm = (g.recs.get n).firm ∧ ((g.trim kb).recs.get n).bus = (g.recs.get n).bus ∧
      ((g.trim kb).recs.get n).flexible ≤ (g.recs.get n).flexible := by
  obtain ⟨hfirm, hbus, hflex⟩ := g.trimB_lowers kb n
  obtain ⟨hfirm', hbus', hflex'⟩ := (g.trimB kb).trimImport_lowers (n := n) fun hoff => by
    rw [hbus] at hoff
    rw [recs_trimB_offB kb hoff]
    exact h hoff
  exact ⟨hfirm'.trans hfirm, hbus'.trans hbus, hflex'.trans hflex⟩

@[simp] theorem pending_trim (kb : Nat) (g : GrantSet) : (g.trim kb).pending = g.pending := by
  unfold trim trimImport trimB
  split <;> simp only <;> split <;> rfl

@[simp] theorem effective_trim (kb : Nat) (g : GrantSet) : (g.trim kb).effective = g.effective := by
  unfold trim trimImport trimB
  split <;> simp only <;> split <;> rfl

end GrantSet

end Sys2Proof.Machine

namespace Sys2Proof.Machine

/-! ### What an event's trim gives (R102, R118, R119, R125) -/

namespace State

/-- GRANT_TRIMMED goes to the berths whose active flexible grant the cut has reduced (R119). -/
theorem port_cutActive (f : GrantSet → GrantSet) (n : Ix) (s : State) : (s.cutActive f).port (.v n) =
    if s.ge.active.reducedFrom (f s.ge.active) n = true then
      (s.notifyGrant n 2 ((f s.ge.active).recs.get n).total s.ge.period).port (.v n)
    else s.port (.v n) := by
  refine (port_forEach_notifyGrant (fun m => s.ge.active.reducedFrom (f s.ge.active) m = true) 2
    (fun m => ((f s.ge.active).recs.get m).total) GrantUnit.period (l := Ix.all) (by decide) n
    (s.modGe fun g => { g with active := f g.active })).trans ?_
  simp only [Ix.mem_all, true_and]
  rfl

/-- GRANT_RESTAGED goes to the berths whose flexible grant in a pending staged set the cut has reduced (R119). -/
theorem port_cutStaged (f : GrantSet → GrantSet) (n : Ix) (s : State) : (s.cutStaged f).port (.v n) =
    if s.ge.staged.reducedFrom (f s.ge.staged) n = true ∧ (f s.ge.staged).pending = true then
      (s.notifyGrant n 3 ((f s.ge.staged).recs.get n).total (f s.ge.staged).effective).port (.v n)
    else s.port (.v n) := by
  refine (port_forEach_notifyGrant (fun m => s.ge.staged.reducedFrom (f s.ge.staged) m = true ∧ (f s.ge.staged).pending = true) 3
    (fun m => ((f s.ge.staged).recs.get m).total) (fun _ => (f s.ge.staged).effective) (l := Ix.all) (by decide) n
    (s.modGe fun g => { g with staged := f g.staged })).trans ?_
  simp only [Ix.mem_all, true_and]
  rfl

/-- After the active set's trim, that of the staged set gives its own notice (R119). -/
theorem port_trimBoth (n : Ix) (s : State) : s.trimBoth.port (.v n) =
    if s.ge.staged.reducedFrom (s.ge.staged.trim s.busBCapacity) n = true ∧ s.ge.staged.pending = true then
      (s.trimActive.notifyGrant n 3 ((s.ge.staged.trim s.busBCapacity).recs.get n).total s.ge.staged.effective).port (.v n)
    else s.trimActive.port (.v n) := by
  rw [trimBoth, port_cutStaged, ge_trimActive, GrantSet.pending_trim, GrantSet.effective_trim]

end State

/-- A trim of both sets at an open port: GRANT_RESTAGED is the latest where a pending staged grant fell, GRANT_TRIMMED where an
active one alone fell, and nothing is posted where neither did (R119). -/
theorem notices_trimBoth {s : State} {n : Ix} {cut restaged : Bool}
    (hcut : cut = s.ge.active.reducedFrom (s.ge.active.trim s.busBCapacity) n)
    (hrestaged : restaged = (s.ge.staged.pending && s.ge.staged.reducedFrom (s.ge.staged.trim s.busBCapacity) n))
    (hopen : (s.port (.v n)).isOpen = true) :
    (restaged = true → (s.trimBoth.port (.v n)).notices.grant = { (s.port (.v n)).notices.grant with
      flag := true
      latest := some { berth := some n, code := some 3, value := ((s.ge.staged.trim s.busBCapacity).recs.get n).total
                       period := s.ge.staged.effective } }) ∧
    (restaged = false → cut = true → s.trimBoth.port (.v n) = (s.port (.v n)).posted .grant
      { berth := some n, code := some 2, value := ((s.ge.active.trim s.busBCapacity).recs.get n).total, period := s.ge.period }) ∧
    (restaged = false → cut = false → s.trimBoth.port (.v n) = s.port (.v n)) := by
  have hrestaged_iff : restaged = true ↔
      s.ge.staged.reducedFrom (s.ge.staged.trim s.busBCapacity) n = true ∧ s.ge.staged.pending = true := by
    rw [hrestaged, Bool.and_eq_true, and_comm]
  have hactive : s.trimActive.port (.v n) = if cut = true then
      (s.notifyGrant n 2 ((s.ge.active.trim s.busBCapacity).recs.get n).total s.ge.period).port (.v n)
      else s.port (.v n) := by
    rw [hcut]
    exact State.port_cutActive _ n s
  rw [State.port_trimBoth, ← Bool.not_eq_true, ← Bool.not_eq_true, hrestaged_iff]
  refine ⟨fun hr => ?_, fun hr hc => ?_, fun hr hc => ?_⟩
  · rw [if_pos hr]
    have hnoticed := State.grantsNoticed_trimActive (.v n) s
    exact State.grant_notifyGrant _ _ _ (hnoticed.isOpen.trans hopen) (hnoticed.masked .grant)
  · rw [if_neg hr, hactive, if_pos hc, State.port_notifyGrant_same, if_pos hopen]
  · rw [if_neg hr, hactive, if_neg hc]

theorem onlyTouches_trimBoth (s : State) : OnlyTouches (.grants :: Ix.all.map fun n => .link (.v n)) s s.trimBoth := by
  apply onlyTouches_of_fields
  case link =>
    intro p hp
    cases p with
    | v n => exact absurd (List.mem_cons_of_mem _ (List.mem_map_of_mem (Ix.mem_all n))) hp
    | t => exact s.link_trimBoth_t
  all_goals simp

/-- What an admission and an entry to ADOPTED do to the sets: a record of the berth in both, its firm figure held, and the trim of
both against KB (R102, R118, R125; log entry 50). -/
structure Granted (s : State) (n : Ix) (r : GrantRec) (t : State) : Prop where
  active : t.ge.active = (s.ge.active.put n r).trim s.busBCapacity
  staged : t.ge.staged = (s.ge.staged.put n r).trim s.busBCapacity
  firm : (t.grantBerth n).firm = r.firm
  others : ∀ m, m ≠ n → t.grantBerth m = s.grantBerth m

/-- A record of the berth is put into both sets, and both are trimmed. -/
theorem granted_putBoth {s u : State} {n : Ix} {r : GrantRec} (hactive : u.ge.active.put n r = s.ge.active.put n r)
    (hstaged : u.ge.staged.put n r = s.ge.staged.put n r) (hcp : u.cp = s.cp)
    (hothers : ∀ m, m ≠ n → u.grantBerth m = s.grantBerth m) : Granted s n r (u.putBoth n r).trimBoth := by
  have hput : (u.putBoth n r).cp = s.cp := by simp [hcp]
  have hkb : (u.putBoth n r).busBCapacity = s.busBCapacity :=
    congrArg (Config.moduleKw * ·) (State.online_of_modules (congrArg Pool.modules hput))
  constructor
  case active => rw [State.ge_trimBoth, hkb, ← hactive]; rfl
  case staged => rw [State.ge_trimBoth, hkb, ← hstaged]; rfl
  case firm => simp [State.grantBerth, State.putBoth]
  case others =>
    intro m hm
    rw [← hothers m hm]
    simp [State.grantBerth, State.putBoth, hm]

theorem granted_admission (n : Ix) (s : State) :
    Granted s n (mkGrant (s.berth n).declaredFirm 0 0 (s.berth n).declaredBus) (s.admission n) := by
  refine granted_putBoth rfl rfl rfl fun m hm => ?_
  simp [State.grantBerth, State.leaveQueue, hm]

/-- The grants that an entry to ADOPTED zeroes first are written anew. -/
theorem granted_enterAdopted (n : Ix) (s : State) :
    Granted s n (mkGrant (s.berth n).rating 0 0 (s.berth n).bus) (s.enterAdopted n) := by
  obtain ⟨u, hu⟩ : ∃ u, u = s.modBerth n fun b =>
    { b with state := .adopted, declarationAwaited := true, authorizationAwaited := true, adoptOnClose := false } := ⟨_, rfl⟩
  obtain ⟨v, hv⟩ : ∃ v, v = (u.endAdmission n).modGrantBerth n fun g =>
    { g with sinceAdoption := false, adoptionUnread := true } := ⟨_, rfl⟩
  obtain ⟨hrating, hbus⟩ : (u.berth n).rating = (s.berth n).rating ∧ (u.berth n).bus = (s.berth n).bus := by
    rw [hu]
    simp [State.berth]
  have heq : s.enterAdopted n = (v.putBoth n (mkGrant (u.berth n).rating 0 0 (u.berth n).bus)).trimBoth := by
    rw [hv, hu]
    rfl
  rw [heq, hrating, hbus]
  apply granted_putBoth <;> rw [hv, hu]
  case hothers => intro m hm; simp [State.grantBerth, State.endAdmission, State.zeroGrants, State.putBoth, State.leaveQueue, hm]
  all_goals simp [State.endAdmission, State.zeroGrants, State.putBoth, State.leaveQueue, GrantSet.put]

end Sys2Proof.Machine

namespace Sys2Proof.Machine

/-! ### The bounds of a computation (R112 to R115) -/

/-- Amounts cut in proportion sum to no more than the sum cut in proportion. -/
theorem sum_map_mul_div_le (room total : Nat) (l : List Nat) :
    (l.map fun x => x * room / total).sum ≤ l.sum * room / total := by
  induction l with
  | nil => simp
  | cons x l ih =>
    rw [List.map_cons, List.sum_cons, List.sum_cons, Nat.add_mul]
    exact (Nat.add_le_add_left ih _).trans (Nat.div_add_div_le_add_div)

/-- No more than the leftover is handed out. -/
theorem sum_handOut_le (left : Nat) (l : List (Nat × Nat)) : (handOut left l).sum ≤ (l.map Prod.snd).sum + left := by
  induction l generalizing left with
  | nil => simp [handOut]
  | cons x l ih =>
    obtain ⟨before, x⟩ := x
    unfold handOut
    split
    · have := ih (left - 1)
      simp only [List.sum_cons, List.map_cons]
      omega
    · have := ih left
      simp only [List.sum_cons, List.map_cons]
      omega

/-- Scaled amounts fit the room (R113, R114). -/
theorem sum_scaleTo_le (room : Nat) (amounts : List Nat) : (scaleTo room amounts).sum ≤ room := by
  unfold scaleTo
  split
  · assumption
  · obtain ⟨scaled, hscaled⟩ : ∃ scaled, scaled = amounts.map fun x => x * room / amounts.sum := ⟨_, rfl⟩
    have hfit : scaled.sum ≤ room := by
      rw [hscaled]
      exact (sum_map_mul_div_le room amounts.sum amounts).trans (Nat.div_le_of_le_mul le_rfl)
    have hhand := sum_handOut_le (room - scaled.sum) (amounts.zip scaled)
    rw [List.map_snd_zip (by simp [hscaled])] at hhand
    simp only [← hscaled]
    omega

/-- What a bus-B share carries has an import within the share (R108, R115). -/
theorem importB_le {eta x share : Nat} (heta : 1 ≤ eta) (h : x ≤ share * eta / 1000) : importB eta x ≤ share := by
  have hx : x * 1000 ≤ share * eta := (Nat.le_div_iff_mul_le (by decide)).mp h
  refine Nat.le_of_lt_succ ((Nat.div_lt_iff_lt_mul heta).mpr ?_)
  rw [Nat.succ_mul]
  omega

theorem Claim.fill_le_cap (eta r2 rb2 : Nat) (c : Claim) : c.fill eta r2 rb2 ≤ c.cap := by
  unfold Claim.fill
  split <;> exact Nat.min_le_left _ _

/-- The import of a fill is within the share and the room that tier two has left (R115). -/
theorem Claim.import_fill_le {eta : Nat} {c : Claim} (r2 rb2 : Nat) (heta : 1 ≤ eta) (hg : c.onB = false → c.g = c.share) :
    importOn c.bus eta (c.fill eta r2 rb2) ≤ c.share + r2 := by
  unfold Claim.fill Claim.bus importOn
  cases hb : c.onB
  · simp [hg hb]
  · simp only [if_true]
    exact importB_le heta ((Nat.min_le_right _ _).trans (Nat.min_le_right _ _))

/-- Tier two keeps the import shares within those of tier one and the room left on import (R115). -/
theorem sum_tierTwo_le {eta : Nat} (heta : 1 ≤ eta) (r2 rb2 : Nat) {l : List Claim}
    (hg : ∀ c ∈ l, c.onB = false → c.g = c.share) :
    ((tierTwo eta r2 rb2 l).map fun x => x.2.2).sum ≤ r2 + (l.map Claim.share).sum := by
  induction l generalizing r2 rb2 with
  | nil => simp [tierTwo]
  | cons c l ih =>
    obtain ⟨hhead, htail⟩ := List.forall_mem_cons.mp hg
    have hfill := c.import_fill_le r2 rb2 heta hhead
    simp only [tierTwo, List.map_cons, List.sum_cons]
    have hrest := ih (r2 + c.share - importOn c.bus eta (c.fill eta r2 rb2))
      (if c.onB then rb2 - (c.fill eta r2 rb2 - c.g) else rb2) htail
    omega

/-- Tier two gives to each berth that claims, and no more than its cap (R115). -/
theorem le_cap_of_mem_tierTwo {eta r2 rb2 : Nat} {l : List Claim} {x : Ix × Nat × Nat} (h : x ∈ tierTwo eta r2 rb2 l) :
    ∃ c ∈ l, c.berth = x.1 ∧ x.2.1 ≤ c.cap := by
  induction l generalizing r2 rb2 with
  | nil => simp [tierTwo] at h
  | cons c l ih =>
    rcases List.mem_cons.mp h with rfl | hrest
    · exact ⟨c, List.mem_cons_self, rfl, c.fill_le_cap eta r2 rb2⟩
    · obtain ⟨d, hd, hx⟩ := ih hrest
      exact ⟨d, List.mem_cons_of_mem c hd, hx⟩

/-- A claim of a list zipped with amounts comes from a claim and an amount. -/
theorem exists_of_mem_zipWith {f : Claim → Nat → Claim} {l : List Claim} {xs : List Nat} {d : Claim}
    (h : d ∈ List.zipWith f l xs) : ∃ c ∈ l, ∃ x, d = f c x := by
  rw [← List.map_uncurry_zip_eq_zipWith] at h
  obtain ⟨⟨c, x⟩, hmem, rfl⟩ := List.mem_map.mp h
  obtain ⟨hc, -⟩ := List.of_mem_zip hmem
  exact ⟨c, hc, x, rfl⟩

/-- Tier one leaves the berth and the cap of a claim. -/
theorem exists_of_mem_tierOne {eta r rb : Nat} {l : List Claim} {d : Claim} (h : d ∈ tierOne eta r (tierOneB rb l)) :
    ∃ c ∈ l, c.berth = d.berth ∧ c.cap = d.cap := by
  obtain ⟨e, he, x, rfl⟩ := exists_of_mem_zipWith h
  obtain ⟨c, hc, y, rfl⟩ := exists_of_mem_zipWith he
  refine ⟨c, hc, ?_⟩
  simp only
  split <;> exact ⟨rfl, rfl⟩

/-- The tier-one grant of a bus-A berth is its share (R114). -/
theorem g_of_mem_tierOne {eta r : Nat} {l : List Claim} {d : Claim} (h : d ∈ tierOne eta r l) (hb : d.onB = false) :
    d.g = d.share := by
  obtain ⟨c, -, x, rfl⟩ := exists_of_mem_zipWith h
  simp only at hb
  simp [hb]

/-- Shares dealt out to a list of claims sum to no more than was dealt. -/
theorem sum_share_zipWith_le {f : Claim → Nat → Claim} (hf : ∀ c x, (f c x).share = x) (l : List Claim) (xs : List Nat) :
    ((List.zipWith f l xs).map Claim.share).sum ≤ xs.sum := by
  induction l generalizing xs with
  | nil => simp
  | cons c l ih =>
    cases xs with
    | nil => simp
    | cons x xs =>
      rw [List.zipWith_cons_cons, List.map_cons, List.sum_cons, List.sum_cons, hf]
      exact Nat.add_le_add_left (ih xs) x

/-- The shares of tier one fit the room on import (R114). -/
theorem sum_tierOne_le (eta r : Nat) (l : List Claim) : ((tierOne eta r l).map Claim.share).sum ≤ r :=
  (sum_share_zipWith_le (fun _ _ => rfl) _ _).trans (sum_scaleTo_le r _)

/-- The import shares of a computation fit the room on import (R114, R115). -/
theorem sum_flexibleGrants_le {eta : Nat} (heta : 1 ≤ eta) (r rb : Nat) (l : List Claim) :
    ((flexibleGrants eta r rb l).map fun x => x.2.2).sum ≤ r := by
  obtain ⟨one, hone⟩ : ∃ one, one = tierOne eta r (tierOneB rb l) := ⟨_, rfl⟩
  have hfit : (one.map Claim.share).sum ≤ r := hone ▸ sum_tierOne_le eta r _
  have hg : ∀ c ∈ one, c.onB = false → c.g = c.share := hone ▸ fun _ hc => g_of_mem_tierOne hc
  have htwo := sum_tierTwo_le heta (r - (one.map Claim.share).sum) (rb - ((one.filter Claim.onB).map Claim.g).sum) hg
  rw [Nat.sub_add_cancel hfit, hone] at htwo
  exact htwo

/-- No grant of a computation exceeds the cap of its berth (R112, R115). -/
theorem le_cap_of_mem_flexibleGrants {eta r rb : Nat} {l : List Claim} {x : Ix × Nat × Nat}
    (h : x ∈ flexibleGrants eta r rb l) :
    ∃ c ∈ l, c.berth = x.1 ∧ x.2.1 ≤ c.cap := by
  obtain ⟨d, hd, hberth, hcap⟩ := le_cap_of_mem_tierTwo h
  obtain ⟨c, hc, hsame, hsameCap⟩ := exists_of_mem_tierOne hd
  exact ⟨c, hc, hsame.trans hberth, hcap.trans hsameCap.ge⟩

end Sys2Proof.Machine

namespace Sys2Proof.Machine

/-! ### The admission test (R123) -/

theorem declaredFirm_of_declaration {b : Berth} {d : Declaration} (h : b.declaration = some d) :
    b.declaredFirm = min d.h b.rating := by rw [Berth.declaredFirm, h]

theorem declaredBus_of_declaration {b : Berth} {d : Declaration} (h : b.declaration = some d) : b.declaredBus = d.freq.bus := by
  rw [Berth.declaredBus, h]

/-- A candidate for bus A passes where its firm fits as import (R123). -/
theorem admissionTest_busA {s : State} {n : Ix} (hbus : (s.berth n).declaredBus = .a) : s.admissionTest n = true ↔
    s.firmOnBut .a (some n) + (s.berth n).declaredFirm + importB s.efficiency (s.firmOnBut .b (some n)) ≤
      min s.ge.active.a (s.gi.ceiling - s.ge.reserve) ∧ s.ge.overCeiling = false := by
  have hoff : (Bus.a == Bus.b) = false := rfl
  simp [State.admissionTest, hbus, hoff, State.admissionCeiling, State.importAvailable]

/-- A candidate for bus B passes where its firm fits through the converters as import, and the available modules (R123). -/
theorem admissionTest_busB {s : State} {n : Ix} (hbus : (s.berth n).declaredBus = .b) : s.admissionTest n = true ↔
    (s.firmOnBut .a (some n) + importB s.efficiency (s.firmOnBut .b (some n) + (s.berth n).declaredFirm) ≤
      min s.ge.active.a (s.gi.ceiling - s.ge.reserve) ∧ s.ge.overCeiling = false) ∧
    s.firmOnBut .b (some n) + (s.berth n).declaredFirm ≤ 800 * s.available ∧ s.ge.overCapacity = false := by
  simp [State.admissionTest, hbus, State.admissionCeiling, State.importAvailable, Config.moduleKw]

end Sys2Proof.Machine

namespace Sys2Proof.Machine

/-- Settles O58: the trims record by record, the notices and frame of a trim of both sets, the bounds of tier one and tier two, and
the admission test by the bus of the candidate. -/
theorem grantsStayInBounds : Obligations.GrantsStayInBounds := by
  refine ⟨fun g kb n h => GrantSet.trim_lowers kb (h n), ⟨?_, ?_, fun g kb => rfl, ?_, ?_⟩,
    fun eta r rb l heta _ => ⟨sum_flexibleGrants_le heta r rb l, fun x => le_cap_of_mem_flexibleGrants⟩, ?_⟩
  · rintro g kb n fb gb rfl rfl
    exact ⟨GrantSet.recs_trimB_short n, GrantSet.trimB_fits⟩
  · rintro g n fi sh rfl rfl
    refine ⟨fun hshares hshort share hshare => ?_, GrantSet.trimImport_fits⟩
    rw [GrantSet.recs_trimImport_short n hshares hshort, cutImport_eq, hshare]
    rfl
  · rintro s t rfl
    refine ⟨s.ge_trimBoth, fun n cut restaged hcut hrestaged hopen => ?_, onlyTouches_trimBoth s⟩
    rw [State.ge_trimBoth] at hcut hrestaged ⊢
    obtain ⟨hnoticed, htrimmed, hkept⟩ := notices_trimBoth hcut hrestaged hopen
    refine ⟨fun hr => ?_, htrimmed, hkept⟩
    rw [hnoticed hr]
    exact ⟨rfl, rfl⟩
  · rintro s t n r kb rfl (⟨rfl, rfl⟩ | ⟨rfl, rfl⟩)
    · obtain ⟨hactive, hstaged, hfirm, hothers⟩ := granted_admission n s
      exact ⟨hactive, hstaged, hfirm, hothers⟩
    · obtain ⟨hactive, hstaged, hfirm, hothers⟩ := granted_enterAdopted n s
      exact ⟨hactive, hstaged, hfirm, hothers⟩
  · intro s n d hd hpass
    have hbus := declaredBus_of_declaration hd
    have hfirm := declaredFirm_of_declaration hd
    cases hfreq : d.freq
    · rw [hfreq] at hbus
      obtain ⟨hceiling, hover⟩ := (admissionTest_busA hbus).mp hpass
      rw [hfirm] at hceiling
      exact ⟨fun _ => hceiling, nofun, hover⟩
    · rw [hfreq] at hbus
      obtain ⟨⟨hceiling, hover⟩, hmodules, hcapacity⟩ := (admissionTest_busB hbus).mp hpass
      rw [hfirm] at hceiling hmodules
      exact ⟨nofun, fun _ => ⟨hceiling, hmodules, hcapacity⟩, hover⟩

end Sys2Proof.Machine

/-! Support for the obligation about minute ticks, meter readings and charge accounts (R128 to R134). -/

namespace Sys2Proof.Machine

/-! ### Notices to Vn and to T -/

namespace State

theorem notify_v_then_t (n : Ix) (c : NoticeClass) (k v : Nat) (s : State) :
    (s.notify (.v n) c (some n) k v).notify .t c (some n) k v = s.notifyBoth n c k v := rfl

/-- Each of the two ports that is open has the notice posted (R179). -/
theorem port_notifyBoth {n : Ix} {p : Port} {s : State} (c : NoticeClass) (k v : Nat) (hp : p = .t ∨ p = .v n)
    (hopen : (s.port p).isOpen = true) : (s.notifyBoth n c k v).port p =
      (s.port p).posted c { berth := some n, code := some k, value := v, period := s.ge.period } := by
  have hopen' : (s.link.get p).isOpen = true := hopen
  rcases hp with rfl | rfl <;> simp [port, notifyBoth, notify, post, hopen']

theorem noticesOnly_notifyBoth (n : Ix) (c : NoticeClass) (k v : Nat) (s : State) : NoticesOnly s (s.notifyBoth n c k v) :=
  (noticesOnly_notify _ _ _ _ _ s).trans (noticesOnly_notify _ _ _ _ _ _)

end State

/-- What leaves all but the Grant Engine and the Link Unit, as a frame. -/
theorem onlyTouches_of_onlyGeLink {s t : State} (h : OnlyGeLink s t) : OnlyTouches (.grants :: allLinks) s t := by
  obtain ⟨h1, h2, h3, h4, h5, h6, h7, h8, h9, h10, h11⟩ := h
  refine onlyTouches_allLinks (l := [.grants]) ?_ ?_ ?_ ?_ ?_ ?_ ?_ ?_ ?_ ?_ ?_ ?_ ?_ ?_ <;> simp [*]

namespace State

/-! ### The minute of one berth (R133) -/

theorem grantBerth_modGrantBerth (n m : Ix) (f : GrantBerth → GrantBerth) (s : State) :
    (s.modGrantBerth n f).grantBerth m = if m = n then f (s.grantBerth n) else s.grantBerth m := by
  rw [grantBerth, ge_modGrantBerth, Six.get_set]
  rfl

theorem modGrantBerth_twice (n : Ix) (f g : GrantBerth → GrantBerth) (s : State) :
    (s.modGrantBerth n f).modGrantBerth n g = s.modGrantBerth n fun b => g (f b) := by
  cases n <;> rfl

/-- Two changes that agree on the record of the berth are one. -/
theorem modGrantBerth_congr {n : Ix} {f g : GrantBerth → GrantBerth} {s : State} (h : f (s.grantBerth n) = g (s.grantBerth n)) :
    s.modGrantBerth n f = s.modGrantBerth n g := by
  unfold grantBerth at h
  rw [modGrantBerth, modGrantBerth, modGe, modGe, h]

theorem modGrantBerth_same {n : Ix} {f : GrantBerth → GrantBerth} {s : State} (h : f (s.grantBerth n) = s.grantBerth n) :
    s.modGrantBerth n f = s := by
  rw [modGrantBerth_congr (g := fun g => g) h, modGrantBerth, modGe, Six.set_get]

/-- The minute tick at one berth. -/
def minuteBerth (n : Ix) (s : State) : State :=
  if (s.berth n).plug = .present then
    (s.modGrantBerth n fun g => { g with charge := { g.charge with d := g.charge.d - 1 } }).warnShort n
  else s

/-- The minute starts anew. -/
def minuteStarted (s : State) : State := s.modGe fun g => { g with minuteLeft := 60 }

theorem minuteTick_eq (s : State) : s.minuteTick = s.minuteStarted.forEach Ix.all minuteBerth := rfl

/-- The next minute tick leaves a berth with its departure reached and energy wanted, and says so for the first time. -/
def FallsShort (s : State) (n : Ix) : Prop :=
  (s.berth n).plug = .present ∧ (s.grantBerth n).charge.d ≤ 1 ∧ 0 < (s.grantBerth n).charge.e ∧
    (s.grantBerth n).charge.warned = false

/-- The charge record of a berth after a minute tick. -/
def chargeAtMinute (s : State) (n : Ix) : Charge :=
  if (s.berth n).plug = .present then
    { (s.grantBerth n).charge with
      d := (s.grantBerth n).charge.d - 1
      warned := (s.grantBerth n).charge.warned ||
        (decide ((s.grantBerth n).charge.d ≤ 1) && decide (0 < (s.grantBerth n).charge.e)) }
  else (s.grantBerth n).charge

/-- The minute of a berth without its notices. -/
def minuteCharged (n : Ix) (s : State) : State := s.modGrantBerth n fun g => { g with charge := s.chargeAtMinute n }

theorem minuteBerth_short {n : Ix} {s : State} (h : s.FallsShort n) :
    s.minuteBerth n = (s.minuteCharged n).notifyBoth n .grant 4 (s.grantBerth n).charge.e := by
  obtain ⟨hplug, hd, he, hwarned⟩ := h
  rw [minuteBerth, if_pos hplug, warnShort_due (e := (s.grantBerth n).charge.e), notify_v_then_t, modGrantBerth_twice,
    minuteCharged, modGrantBerth_congr]
  · simp only [chargeAtMinute, if_pos hplug, hd, he, decide_true, Bool.and_self, Bool.or_true]
  · rw [grantBerth_modGrantBerth, if_pos rfl]
    exact Nat.sub_eq_zero_of_le hd
  · rw [grantBerth_modGrantBerth, if_pos rfl]
  · exact he
  · rw [grantBerth_modGrantBerth, if_pos rfl]
    exact hwarned

theorem minuteBerth_quiet {n : Ix} {s : State} (h : ¬ s.FallsShort n) : s.minuteBerth n = s.minuteCharged n := by
  by_cases hplug : (s.berth n).plug = .present
  · have hrest : ¬ ((s.grantBerth n).charge.d ≤ 1 ∧ 0 < (s.grantBerth n).charge.e ∧
        (s.grantBerth n).charge.warned = false) := fun hs => h ⟨hplug, hs⟩
    rw [minuteBerth, if_pos hplug, minuteCharged]
    refine (if_neg ?_).trans (modGrantBerth_congr ?_)
    · rw [grantBerth_modGrantBerth, if_pos rfl]
      exact fun hs => hrest ⟨Nat.le_of_sub_eq_zero hs.1, hs.2.1, by simpa using hs.2.2⟩
    · have hwarned : ((s.grantBerth n).charge.warned ||
          (decide ((s.grantBerth n).charge.d ≤ 1) && decide (0 < (s.grantBerth n).charge.e))) =
          (s.grantBerth n).charge.warned := by
        cases hw : (s.grantBerth n).charge.warned
        · rw [Bool.false_or, ← Bool.decide_and, decide_eq_false fun hde => hrest ⟨hde.1, hde.2, hw⟩]
        · rfl
      rw [chargeAtMinute, if_pos hplug, hwarned]
  · rw [minuteBerth, if_neg hplug, minuteCharged, modGrantBerth_same]
    rw [chargeAtMinute, if_neg hplug]

/-- Only the charge of the berth changes in the Grant Engine. -/
theorem ge_minuteBerth (n : Ix) (s : State) : (s.minuteBerth n).ge = (s.minuteCharged n).ge := by
  by_cases h : s.FallsShort n
  · rw [minuteBerth_short h]
    exact (fields_notifyBoth _ _ _ _ _).2.2.2.2.2.2.2.2.2.2.1
  · rw [minuteBerth_quiet h]

theorem grantBerth_minuteBerth (n m : Ix) (s : State) : (s.minuteBerth n).grantBerth m =
    if m = n then { s.grantBerth n with charge := s.chargeAtMinute n } else s.grantBerth m := by
  rw [grantBerth, ge_minuteBerth, ← grantBerth, minuteCharged, grantBerth_modGrantBerth]

theorem noticesOnly_minuteBerth (n : Ix) (s : State) : NoticesOnly (s.minuteCharged n) (s.minuteBerth n) := by
  by_cases h : s.FallsShort n
  · rw [minuteBerth_short h]
    exact noticesOnly_notifyBoth _ _ _ _ _
  · rw [minuteBerth_quiet h]
    exact .refl _

/-- A berth that falls short has CHARGE_SHORT posted to T and to its port. -/
theorem port_minuteBerth_short {n : Ix} {p : Port} {s : State} (h : s.FallsShort n) (hp : p = .t ∨ p = .v n)
    (hopen : (s.port p).isOpen = true) : (s.minuteBerth n).port p = (s.port p).posted .grant
      { berth := some n, code := some 4, value := (s.grantBerth n).charge.e, period := s.ge.period } := by
  rw [minuteBerth_short h]
  exact port_notifyBoth _ _ _ hp hopen

theorem port_minuteBerth_quiet {n : Ix} {s : State} (p : Port) (h : ¬ s.FallsShort n) : (s.minuteBerth n).port p = s.port p := by
  rw [minuteBerth_quiet h]
  rfl

theorem port_minuteBerth_ne {n m : Ix} (s : State) (h : m ≠ n) : (s.minuteBerth n).port (.v m) = s.port (.v m) := by
  by_cases hs : s.FallsShort n
  · rw [minuteBerth_short hs]
    exact link_notifyBoth_ne _ _ _ _ (by simp) (by simpa using h)
  · exact port_minuteBerth_quiet _ hs

end State

/-! ### The minutes of several berths -/

/-- What the minutes of several berths leave: the Grant Engine but for its berths, everything but the Link Unit besides, and at a
port all but what notices change. -/
structure MinuteStep (s t : State) : Prop where
  fields : OnlyGeLink s t
  ge : t.ge = { s.ge with berths := t.ge.berths }
  isOpen : ∀ p, (t.port p).isOpen = (s.port p).isOpen
  masked : ∀ p c, ((t.port p).notices.get c).masked = ((s.port p).notices.get c).masked

theorem MinuteStep.refl (s : State) : MinuteStep s s := ⟨by simp [OnlyGeLink], rfl, fun _ => rfl, fun _ _ => rfl⟩

theorem MinuteStep.trans {s t u : State} (h : MinuteStep s t) (h' : MinuteStep t u) : MinuteStep s u := by
  refine ⟨?_, ?_, fun p => (h'.isOpen p).trans (h.isOpen p), fun p c => (h'.masked p c).trans (h.masked p c)⟩
  · have hfields := h'.fields
    obtain ⟨h1, h2, h3, h4, h5, h6, h7, h8, h9, h10, h11⟩ := h.fields
    simpa only [OnlyGeLink, h1, h2, h3, h4, h5, h6, h7, h8, h9, h10, h11] using hfields
  · rw [h'.ge, h.ge]

theorem MinuteStep.period {s t : State} (h : MinuteStep s t) : t.ge.period = s.ge.period := by rw [h.ge]

theorem MinuteStep.berth {s t : State} (h : MinuteStep s t) (n : Ix) : t.berth n = s.berth n := by
  obtain ⟨-, -, -, -, -, hberths, -⟩ := h.fields
  rw [State.berth, hberths, State.berth]

theorem minuteStep_minuteBerth (n : Ix) (s : State) : MinuteStep s (s.minuteBerth n) := by
  have h := State.noticesOnly_minuteBerth n s
  refine ⟨?_, ?_, h.isOpen, h.masked⟩
  · rw [h.rest]
    simp [OnlyGeLink, State.withLink, State.minuteCharged]
  · rw [State.ge_minuteBerth]
    rfl

theorem minuteStep_forEach (l : List Ix) (s : State) : MinuteStep s (s.forEach l State.minuteBerth) :=
  keep_forEach (P := MinuteStep s) (fun n _ ht => ht.trans (minuteStep_minuteBerth n _)) l (.refl s)

/-- What the minutes of other berths leave of berth `n`. -/
structure MinuteElsewhere (n : Ix) (s t : State) : Prop where
  step : MinuteStep s t
  grantBerth : t.grantBerth n = s.grantBerth n
  port : t.port (.v n) = s.port (.v n)

theorem MinuteElsewhere.fallsShort {n : Ix} {s t : State} (h : MinuteElsewhere n s t) : t.FallsShort n ↔ s.FallsShort n := by
  rw [State.FallsShort, State.FallsShort, h.step.berth, h.grantBerth]

theorem MinuteElsewhere.chargeAtMinute {n : Ix} {s t : State} (h : MinuteElsewhere n s t) :
    t.chargeAtMinute n = s.chargeAtMinute n := by
  rw [State.chargeAtMinute, State.chargeAtMinute, h.step.berth, h.grantBerth]

theorem MinuteElsewhere.trans {n : Ix} {s t u : State} (h : MinuteElsewhere n s t) (h' : MinuteElsewhere n t u) :
    MinuteElsewhere n s u := ⟨h.step.trans h'.step, h'.grantBerth.trans h.grantBerth, h'.port.trans h.port⟩

theorem minuteElsewhere_minuteBerth {n m : Ix} (s : State) (h : n ≠ m) : MinuteElsewhere n s (s.minuteBerth m) :=
  ⟨minuteStep_minuteBerth m s, by rw [State.grantBerth_minuteBerth, if_neg h], State.port_minuteBerth_ne s h⟩

theorem minuteElsewhere_forEach {n : Ix} {l : List Ix} (s : State) (h : n ∉ l) :
    MinuteElsewhere n s (s.forEach l State.minuteBerth) :=
  keep_forEach_mem (P := MinuteElsewhere n s)
    (fun _ hm t ht => ht.trans (minuteElsewhere_minuteBerth t (ne_of_mem_of_not_mem hm h).symm)) ⟨.refl s, rfl, rfl⟩

/-- Port T hears nothing of berths that do not fall short. -/
theorem port_t_minutes {l : List Ix} (hl : l.Nodup) {s : State} (h : ∀ m ∈ l, ¬ s.FallsShort m) :
    (s.forEach l State.minuteBerth).port .t = s.port .t := by
  induction l generalizing s with
  | nil => rfl
  | cons m l ih =>
    obtain ⟨hm, hl'⟩ := List.nodup_cons.mp hl
    obtain ⟨hhead, htail⟩ := List.forall_mem_cons.mp h
    have hrest := ih hl' (s := s.minuteBerth m) fun k hk hs =>
      htail k hk ((minuteElsewhere_minuteBerth s (ne_of_mem_of_not_mem hk hm)).fallsShort.mp hs)
    exact hrest.trans (State.port_minuteBerth_quiet .t hhead)

/-- The berths behind a berth, in the order of the tick. -/
def berthsBehind (n : Ix) : List Ix := Ix.all.drop (n.toNat + 1)

theorem all_split (n : Ix) : Ix.all = Ix.all.take n.toNat ++ n :: berthsBehind n := by cases n <;> rfl

theorem not_mem_take (n : Ix) : n ∉ Ix.all.take n.toNat := by cases n <;> decide

theorem nodup_berthsBehind (n : Ix) : (berthsBehind n).Nodup := by cases n <;> decide

theorem lt_of_mem_berthsBehind {n m : Ix} (h : m ∈ berthsBehind n) : n.toNat < m.toNat := by
  revert h; cases n <;> cases m <;> decide

theorem not_mem_berthsBehind (n : Ix) : n ∉ berthsBehind n := fun h => Nat.lt_irrefl _ (lt_of_mem_berthsBehind h)

/-- The tick comes to a berth behind others and before others, which leave it alone. -/
theorem minutes_split (n : Ix) (s : State) : ∃ u, MinuteElsewhere n s u ∧
    s.forEach Ix.all State.minuteBerth = (u.minuteBerth n).forEach (berthsBehind n) State.minuteBerth ∧
    ∀ m ∈ berthsBehind n, MinuteElsewhere m s (u.minuteBerth n) := by
  refine ⟨s.forEach (Ix.all.take n.toNat) State.minuteBerth, minuteElsewhere_forEach s (not_mem_take n), ?_, fun m hm => ?_⟩
  · conv_lhs => rw [all_split n, State.forEach, List.foldl_append]
    rfl
  · have hlt := lt_of_mem_berthsBehind hm
    refine (minuteElsewhere_forEach s ?_).trans (minuteElsewhere_minuteBerth _ ?_)
    · revert hlt; cases n <;> cases m <;> decide
    · rintro rfl
      exact Nat.lt_irrefl _ hlt

/-- After the tick a berth has the charge of its own minute. -/
theorem grantBerth_minutes (n : Ix) (s : State) : (s.forEach Ix.all State.minuteBerth).grantBerth n =
    { s.grantBerth n with charge := s.chargeAtMinute n } := by
  obtain ⟨u, hu, hsplit, -⟩ := minutes_split n s
  rw [hsplit, (minuteElsewhere_forEach _ (not_mem_berthsBehind n)).grantBerth, State.grantBerth_minuteBerth, if_pos rfl,
    hu.chargeAtMinute, hu.grantBerth]

/-- After the tick Vn has the notice of its own berth, or none. -/
theorem port_v_minutes (n : Ix) (s : State) :
    (s.FallsShort n → (s.port (.v n)).isOpen = true → (s.forEach Ix.all State.minuteBerth).port (.v n) =
      (s.port (.v n)).posted .grant
        { berth := some n, code := some 4, value := (s.grantBerth n).charge.e, period := s.ge.period }) ∧
    (¬ s.FallsShort n → (s.forEach Ix.all State.minuteBerth).port (.v n) = s.port (.v n)) := by
  obtain ⟨u, hu, hsplit, -⟩ := minutes_split n s
  rw [hsplit, (minuteElsewhere_forEach _ (not_mem_berthsBehind n)).port, ← hu.port, ← hu.step.period, ← hu.grantBerth,
    ← hu.fallsShort]
  exact ⟨fun hshort hopen => State.port_minuteBerth_short hshort (.inr rfl) hopen, State.port_minuteBerth_quiet _⟩

/-- After the tick port T is left with the notice of the highest berth that falls short (log entry 46). -/
theorem grant_t_minutes {n : Ix} {s : State} (hshort : s.FallsShort n) (hlast : ∀ m, s.FallsShort m → m.toNat ≤ n.toNat)
    (hopen : (s.port .t).isOpen = true) : ((s.forEach Ix.all State.minuteBerth).port .t).notices.grant =
      { (s.port .t).notices.grant with
        flag := true
        latest := some { berth := some n, code := some 4, value := (s.grantBerth n).charge.e, period := s.ge.period } } := by
  obtain ⟨u, hu, hsplit, hlater⟩ := minutes_split n s
  have hquiet : ∀ m ∈ berthsBehind n, ¬ (u.minuteBerth n).FallsShort m := fun m hm hs =>
    absurd (hlast m ((hlater m hm).fallsShort.mp hs)) (Nat.not_le.mpr (lt_of_mem_berthsBehind hm))
  rw [hsplit, port_t_minutes (nodup_berthsBehind n) hquiet,
    State.port_minuteBerth_short (hu.fallsShort.mpr hshort) (.inl rfl) ((hu.step.isOpen .t).trans hopen), hu.grantBerth,
    hu.step.period]
  exact congrArg (fun masked => NoticeSlot.mk true masked _) (hu.step.masked .t .grant)

/-- MINUTE_TICK (R133). -/
theorem minuteTick_answers {s : State} (h : s.powered = true) :
    ∃ t : State, exec .minuteTick s = .next t.settle ∧ t.ge.minuteLeft = 60 ∧
      (∀ n, (t.grantBerth n).charge = s.chargeAtMinute n) ∧
      (∀ n, s.FallsShort n → (s.port (.v n)).isOpen = true → t.port (.v n) = (s.port (.v n)).posted .grant
        { berth := some n, code := some 4, value := (s.grantBerth n).charge.e, period := s.ge.period }) ∧
      (∀ n, ¬ s.FallsShort n → t.port (.v n) = s.port (.v n)) ∧
      (∀ n, s.FallsShort n → (∀ m, s.FallsShort m → m.toNat ≤ n.toNat) → (s.port .t).isOpen = true →
        (t.port .t).notices.grant = { (s.port .t).notices.grant with
          flag := true
          latest := some { berth := some n, code := some 4, value := (s.grantBerth n).charge.e, period := s.ge.period } }) ∧
      ((∀ n, ¬ s.FallsShort n) → t.port .t = s.port .t) ∧
      t.ge.active = s.ge.active ∧ t.ge.staged = s.ge.staged ∧ OnlyTouches (.grants :: allLinks) s t := by
  obtain ⟨t, ht⟩ : ∃ t, t = s.minuteStarted.forEach Ix.all State.minuteBerth := ⟨_, rfl⟩
  have hstep : MinuteStep s.minuteStarted t := ht ▸ minuteStep_forEach Ix.all _
  have hge := hstep.ge
  have hcharge : ∀ n, t.grantBerth n = { s.grantBerth n with charge := s.chargeAtMinute n } := fun n =>
    ht ▸ grantBerth_minutes n s.minuteStarted
  have hv := fun n => ht ▸ port_v_minutes n s.minuteStarted
  have htop := fun n => ht ▸ grant_t_minutes (n := n) (s := s.minuteStarted)
  have hnone := ht ▸ port_t_minutes (l := Ix.all) (by decide) (s := s.minuteStarted)
  refine ⟨t, event_next_eq h ht.symm, by rw [hge]; rfl, fun n => by rw [hcharge], fun n => (hv n).1, fun n => (hv n).2,
    htop, fun h => hnone fun m _ => h m, by rw [hge]; rfl, by rw [hge]; rfl, ?_⟩
  exact onlyTouches_trans (onlyTouches_mono (onlyTouches_modGe _) (by simp)) (onlyTouches_of_onlyGeLink hstep.fields)

end Sys2Proof.Machine

namespace Sys2Proof.Machine

/-! ### A meter reading and its mark (R128, R129) -/

theorem clampReading_of {reading : Int} {r : Nat} (h : (r : Int) = max 0 (min reading 9999)) : clampReading reading = r := by
  unfold clampReading
  omega

/-- After a reading no adoption is unread, and an adoption that was has had its reading (log entry 14). -/
theorem GrantBerth.readSince_eq (g : GrantBerth) :
    g.readSince = { g with sinceAdoption := g.adoptionUnread || g.sinceAdoption, adoptionUnread := false } := by
  obtain ⟨_, _, _, _, unread, _, _, _, _, _⟩ := g
  cases unread <;> rfl

namespace State

variable {s : State} {n : Ix}

/-- The period mark of a berth has had its answer. -/
def markAnswered (n : Ix) (s : State) : State := s.modGrantBerth n fun g => { g with due := false }

/-- The Grant Engine's record of a berth with a reading stored in answer to the mark. -/
def readingRecord (s : State) (n : Ix) (r : Nat) : GrantBerth :=
  { s.grantBerth n with
    due := false, reading := some (r, lastPeriod s.ge.period)
    sinceAdoption := (s.grantBerth n).adoptionUnread || (s.grantBerth n).sinceAdoption, adoptionUnread := false }

/-- A reading is stored in answer to the mark (R128, R129). -/
def readingStored (n : Ix) (r : Nat) (s : State) : State := s.modGrantBerth n fun _ => s.readingRecord n r

/-- The record with the power above the firm grant charged as well (R132). -/
def chargedRecord (s : State) (n : Ix) (r : Nat) : GrantBerth :=
  { s.readingRecord n r with
    charge := (s.grantBerth n).charge.account ((r - (s.ge.active.recs.get n).firm) * s.ge.lastLength) }

/-- A reading is stored and charged. -/
def readingCharged (n : Ix) (r : Nat) (s : State) : State := s.modGrantBerth n fun _ => s.chargedRecord n r

theorem takeReading_unmarked (x : Option Int) (h : (s.grantBerth n).due = false) : s.takeReading n x = s :=
  if_neg (by rw [h]; exact Bool.false_ne_true)

theorem takeReading_invalid (h : (s.grantBerth n).due = true) : s.takeReading n none = s.markAnswered n := if_pos h

theorem takeReading_absent (x : Int) (h : (s.grantBerth n).due = true) (hplug : (s.berth n).plug = .absent) :
    s.takeReading n (some x) = s.markAnswered n :=
  (if_pos h).trans (if_neg (by rw [hplug]; decide))

theorem takeReading_present (x : Int) (h : (s.grantBerth n).due = true) (hplug : (s.berth n).plug = .present) :
    s.takeReading n (some x) = if s.isLive n then (s.readingStored n (clampReading x)).liveReading n (clampReading x)
      else s.readingStored n (clampReading x) := by
  have hstored : ((s.markAnswered n).modGrantBerth n fun g =>
      { g.readSince with reading := some (clampReading x, lastPeriod s.ge.period) }) = s.readingStored n (clampReading x) := by
    rw [markAnswered, modGrantBerth_twice]
    exact modGrantBerth_congr (by rw [GrantBerth.readSince_eq]; rfl)
  rw [← hstored]
  exact (if_pos h).trans (if_pos hplug)

/-- A reading of a live berth is charged, and then tested against its grant and against its rating (R132, R134). -/
theorem liveReading_readingStored (n : Ix) (r : Nat) (s : State) : (s.readingStored n r).liveReading n r =
    ((s.readingCharged n r).overGrantTest n r).overRatingTest n r := by
  have hcharged : ((s.readingStored n r).modGrantBerth n fun g =>
      { g with charge := g.charge.account ((r - (s.ge.active.recs.get n).firm) * s.ge.lastLength) }) = s.readingCharged n r :=
    modGrantBerth_twice n _ _ s
  rw [← hcharged]
  rfl

theorem onlyTouches_modGrantBerth (n : Ix) (f : GrantBerth → GrantBerth) (s : State) :
    OnlyTouches [.grants] s (s.modGrantBerth n f) := onlyTouches_modGe _

/-! ### The two tests of a live berth (R134) -/

/-- A reading is above 110 % of the total grant of a berth whose firm figure does not come from its meter. -/
def AboveGrant (s : State) (n : Ix) (r : Nat) : Prop :=
  (s.berth n).firmFromMeter = false ∧ (s.ge.active.recs.get n).total * 110 < r * 100

/-- The overdraw count that the over-grant test leaves. -/
def overGrantAfter (s : State) (n : Ix) (r : Nat) : Nat :=
  if (s.berth n).firmFromMeter then (s.grantBerth n).overGrant
  else if (s.ge.active.recs.get n).total * 110 < r * 100 ∧ (s.grantBerth n).overGrant < 2 then (s.grantBerth n).overGrant + 1
  else 0

theorem overGrantAfter_meter (r : Nat) (h : (s.berth n).firmFromMeter = true) :
    s.overGrantAfter n r = (s.grantBerth n).overGrant := if_pos h

theorem overGrantAfter_below {r : Nat} (hfirm : (s.berth n).firmFromMeter = false) (h : ¬ s.AboveGrant n r) :
    s.overGrantAfter n r = 0 :=
  (if_neg (by rw [hfirm]; exact Bool.false_ne_true)).trans (if_neg fun hc => h ⟨hfirm, hc.1⟩)

theorem overGrantAfter_counts {r : Nat} (h : s.AboveGrant n r) (hc : (s.grantBerth n).overGrant < 2) :
    s.overGrantAfter n r = (s.grantBerth n).overGrant + 1 :=
  (if_neg (by rw [h.1]; exact Bool.false_ne_true)).trans (if_pos ⟨h.2, hc⟩)

theorem overGrantAfter_third {r : Nat} (h : s.AboveGrant n r) (hc : 2 ≤ (s.grantBerth n).overGrant) : s.overGrantAfter n r = 0 :=
  (if_neg (by rw [h.1]; exact Bool.false_ne_true)).trans (if_neg fun hlt => absurd hlt.2 (by omega))

/-- The overdraw count without the notice. -/
def overGrantCounted (n : Ix) (r : Nat) (s : State) : State :=
  s.modGrantBerth n fun g => { g with overGrant := s.overGrantAfter n r }

/-- The third reading above in a row is posted. -/
theorem overGrantTest_third {r : Nat} (h : s.AboveGrant n r) (hc : 2 ≤ (s.grantBerth n).overGrant) :
    s.overGrantTest n r = (s.overGrantCounted n r).notifyBoth n .overdraw 1 r := by
  rw [overGrantTest, if_neg (by rw [h.1]; exact Bool.false_ne_true), if_pos h.2, if_pos hc, notify_v_then_t, overGrantCounted,
    overGrantAfter_third h hc]

/-- Any other reading is counted, or ends the row. -/
theorem overGrantTest_quiet {r : Nat} (h : ¬ s.AboveGrant n r ∨ (s.grantBerth n).overGrant < 2) :
    s.overGrantTest n r = s.overGrantCounted n r := by
  unfold overGrantTest overGrantCounted
  cases hfirm : (s.berth n).firmFromMeter
  · by_cases habove : s.AboveGrant n r
    · have hc : (s.grantBerth n).overGrant < 2 := h.resolve_left (not_not_intro habove)
      rw [if_neg Bool.false_ne_true, if_pos habove.2, if_neg (by omega), overGrantAfter_counts habove hc]
      exact modGrantBerth_congr rfl
    · rw [if_neg Bool.false_ne_true, if_neg fun hc => habove ⟨hfirm, hc⟩, overGrantAfter_below hfirm habove]
  · rw [if_pos rfl, overGrantAfter_meter r hfirm]
    exact (modGrantBerth_same rfl).symm

end State

/-- What the over-grant test does, whatever it finds. -/
structure OverGrantTested (n : Ix) (r : Nat) (s t : State) : Prop where
  notices : NoticesOnly (s.overGrantCounted n r) t
  trip : ∀ p, NoticeKept p .trip s t
  frame : OnlyTouches [.grants, .link .t, .link (.v n)] s t

theorem overGrantTested (n : Ix) (r : Nat) (s : State) : OverGrantTested n r s (s.overGrantTest n r) := by
  have hcount : OnlyTouches [.grants, .link .t, .link (.v n)] s (s.overGrantCounted n r) :=
    onlyTouches_mono (State.onlyTouches_modGrantBerth _ _ _) (by simp)
  by_cases h : s.AboveGrant n r ∧ 2 ≤ (s.grantBerth n).overGrant
  · obtain ⟨habove, hc⟩ := h
    rw [State.overGrantTest_third habove hc]
    refine ⟨State.noticesOnly_notifyBoth _ _ _ _ _, fun p => State.notifyBoth_other_class (by decide), onlyTouches_trans hcount ?_⟩
    exact onlyTouches_trans (onlyTouches_mono (onlyTouches_post _ _ _) (by simp))
      (onlyTouches_mono (onlyTouches_post _ _ _) (by simp))
  · rw [State.overGrantTest_quiet (by rw [not_and_or, Nat.not_le] at h; exact h)]
    exact ⟨.refl _, fun p => rfl, hcount⟩

theorem OverGrantTested.fields {n : Ix} {r : Nat} {s t : State} (h : OverGrantTested n r s t) : OnlyGeLink s t := by
  rw [h.notices.rest]
  simp [OnlyGeLink, State.withLink, State.overGrantCounted]

theorem OverGrantTested.berth {n : Ix} {r : Nat} {s t : State} (h : OverGrantTested n r s t) (m : Ix) : t.berth m = s.berth m := by
  rw [h.notices.rest]
  rfl

theorem OverGrantTested.grantBerth {n : Ix} {r : Nat} {s t : State} (h : OverGrantTested n r s t) :
    t.grantBerth n = { s.grantBerth n with overGrant := s.overGrantAfter n r } := by
  rw [State.grantBerth, h.notices.ge, ← State.grantBerth, State.overGrantCounted, State.grantBerth_modGrantBerth, if_pos rfl]

namespace State

variable {s : State} {n : Ix}

theorem overRatingTest_within {r : Nat} (h : r ≤ (s.berth n).rating) :
    s.overRatingTest n r = s.modGrantBerth n fun g => { g with overRating := 0 } := if_neg (by omega)

theorem overRatingTest_first {r : Nat} (h : (s.berth n).rating < r) (hc : (s.grantBerth n).overRating = 0) :
    s.overRatingTest n r = s.modGrantBerth n fun g => { g with overRating := g.overRating + 1 } :=
  (if_pos h).trans (if_neg (by omega))

theorem overRatingTest_second {r : Nat} (h : (s.berth n).rating < r) (hc : 1 ≤ (s.grantBerth n).overRating) :
    s.overRatingTest n r = s.trip n .overload := (if_pos h).trans (if_pos hc)

theorem trip_live {n : Ix} (why : TripCause) (h : s.isLive n = true) : s.trip n why = s.tripTo n why 0 .tripped none := by
  obtain ⟨htripped, hopening⟩ := BerthState.live_of_isLive h
  exact trip_eq s htripped fun ho => absurd ho hopening

/-- A trip leaves of a berth's record its charge, its readings and its mark (R125, R134). -/
theorem grantBerth_tripTo (n : Ix) (why : TripCause) (v : Nat) (d : BerthState) (p : Option Purpose) (s : State) :
    (s.tripTo n why v d p).grantBerth n =
      { s.grantBerth n with admitted := false, firm := 0, overGrant := 0, overRating := 0 } := by
  simp [grantBerth]

/-- What no test of a live berth changes of the record that its reading leaves. -/
theorem grantBerth_overRatingTest (n : Ix) (r : Nat) (hlive : s.isLive n = true) : ∃ admitted firm overGrant overRating,
    (s.overRatingTest n r).grantBerth n = { s.grantBerth n with admitted, firm, overGrant, overRating } := by
  by_cases hr : (s.berth n).rating < r
  · by_cases hc : 1 ≤ (s.grantBerth n).overRating
    · rw [overRatingTest_second hr hc, trip_live _ hlive, grantBerth_tripTo]
      exact ⟨_, _, _, _, rfl⟩
    · rw [overRatingTest_first hr (by omega), grantBerth_modGrantBerth, if_pos rfl]
      exact ⟨_, _, _, _, rfl⟩
  · rw [overRatingTest_within (by omega), grantBerth_modGrantBerth, if_pos rfl]
    exact ⟨_, _, _, _, rfl⟩

end State

/-- A trip that follows notices of other classes and changes of the Grant Engine is one from the state before them. -/
theorem Tripped.behind {s u t : State} {n : Ix} {why : TripCause} (hu : OnlyGeLink s u) (hper : u.ge.period = s.ge.period)
    (hk : ∀ p, NoticeKept p .trip s u) (h : Tripped u n why t) : Tripped s n why t := by
  obtain ⟨-, hnow, htab, -, hoe, hberths, -⟩ := hu
  refine { h with notices := fun p hp hopen => ?_, flags := fun hw => ?_ }
  · have hn := h.notices p hp hopen
    rwa [hk p, hper] at hn
  · exact sourceReached_of_waiters (by rw [hoe]) htab hnow
      (fun m c hc => by rwa [State.berth, hberths] at hc) (fun _ _ _ _ => by rw [State.orders, hoe, State.orders]) (h.flags hw)

theorem Consented.behind {s u t : State} {n : Ix} {v : Verdict} {c : Code} {d : Nat} (hu : OnlyGeLink s u)
    (h : Consented u n v c d t) : Consented s n v c d t := by
  obtain ⟨-, hnow, -, -, hoe, hberths, -⟩ := hu
  exact h.of_steps (by rw [State.berth, hberths, State.berth]) hnow (fun r _ => State.slot_of_ports (by rw [hoe]) r)
    (fun _ _ hs _ => hs) h.1

/-! ### METER_READING (R128, R129, R132, R134) -/

/-- What a reading leaves in the record of its berth, live or not: the mark is answered, and the reading stored with its period. -/
structure ReadingStands (s : State) (n : Ix) (r : Nat) (t : State) : Prop where
  due : (t.grantBerth n).due = false
  reading : (t.grantBerth n).reading = some (r, if s.ge.period = 0 then 65535 else s.ge.period - 1)
  adopted : (s.grantBerth n).adoptionUnread = true →
    (t.grantBerth n).sinceAdoption = true ∧ (t.grantBerth n).adoptionUnread = false
  kept : (s.grantBerth n).adoptionUnread = false → (t.grantBerth n).sinceAdoption = (s.grantBerth n).sinceAdoption

theorem readingStands_of_record {s t : State} {n : Ix} {r : Nat} {charge : Charge} {admitted : Bool}
    {overGrant overRating firm : Nat} (h : t.grantBerth n = { s.readingRecord n r with
      charge, admitted, overGrant, overRating, firm }) : ReadingStands s n r t := by
  refine ⟨?_, ?_, fun hunread => ?_, fun hread => ?_⟩ <;> rw [h]
  · rfl
  · rfl
  · exact ⟨by simp [State.readingRecord, hunread], rfl⟩
  · simp [State.readingRecord, hread]

/-- A reading of a berth that is not live is stored, and that is all. -/
theorem reading_notLive {s : State} {n : Ix} (r : Nat) : ReadingStands s n r (s.readingStored n r) ∧
    ((s.readingStored n r).grantBerth n).charge = (s.grantBerth n).charge ∧
    ((s.readingStored n r).grantBerth n).firm = (s.grantBerth n).firm ∧ OnlyTouches [.grants] s (s.readingStored n r) := by
  have hrecord : (s.readingStored n r).grantBerth n = s.readingRecord n r := by
    rw [State.readingStored, State.grantBerth_modGrantBerth, if_pos rfl]
  exact ⟨readingStands_of_record hrecord, by rw [hrecord]; rfl, by rw [hrecord]; rfl, State.onlyTouches_modGrantBerth _ _ _⟩

/-- The state between the two tests of a live berth's reading. -/
def State.grantTested (n : Ix) (r : Nat) (s : State) : State := (s.readingCharged n r).overGrantTest n r

theorem State.grantBerth_readingCharged (n : Ix) (r : Nat) (s : State) :
    (s.readingCharged n r).grantBerth n = s.chargedRecord n r := by
  rw [readingCharged, grantBerth_modGrantBerth, if_pos rfl]

theorem State.overGrantAfter_readingCharged (n : Ix) (r : Nat) (s : State) :
    (s.readingCharged n r).overGrantAfter n r = s.overGrantAfter n r := by
  rw [overGrantAfter, grantBerth_readingCharged]
  rfl

/-- What the charge and the over-grant test leave for the over-rating test. -/
structure GrantTested (s : State) (n : Ix) (r : Nat) (u : State) : Prop where
  grantBerth : u.grantBerth n = { s.chargedRecord n r with overGrant := s.overGrantAfter n r }
  berth : ∀ m, u.berth m = s.berth m
  period : u.ge.period = s.ge.period
  fields : OnlyGeLink s u
  trip : ∀ p, NoticeKept p .trip s u
  frame : OnlyTouches [.grants, .link .t, .link (.v n)] s u

theorem grantTested (s : State) (n : Ix) (r : Nat) : GrantTested s n r (s.grantTested n r) := by
  have h := overGrantTested n r (s.readingCharged n r)
  have hframe : OnlyTouches [.grants, .link .t, .link (.v n)] s (s.readingCharged n r) :=
    onlyTouches_mono (State.onlyTouches_modGrantBerth _ _ _) (by simp)
  exact ⟨h.grantBerth.trans (by rw [State.grantBerth_readingCharged, State.overGrantAfter_readingCharged]), h.berth,
    (congrArg GrantUnit.period h.notices.ge).trans rfl, h.fields, h.trip, onlyTouches_trans hframe h.frame⟩

/-- The third reading in a row above the grant is posted to Vn and to T. -/
theorem grantTested_third {s : State} {n : Ix} {r : Nat} (h : s.AboveGrant n r) (hc : 2 ≤ (s.grantBerth n).overGrant) {p : Port}
    (hp : p = .t ∨ p = .v n) (hopen : (s.port p).isOpen = true) : (s.grantTested n r).port p =
      (s.port p).posted .overdraw { berth := some n, code := some 1, value := r, period := s.ge.period } := by
  rw [State.grantTested, State.overGrantTest_third (s := s.readingCharged n r) h
    (by rw [State.grantBerth_readingCharged]; exact hc)]
  exact State.port_notifyBoth _ _ _ hp hopen

/-- Any other reading stays within the Grant Engine. -/
theorem grantTested_quiet {s : State} {n : Ix} {r : Nat} (h : ¬ s.AboveGrant n r ∨ (s.grantBerth n).overGrant < 2) :
    OnlyTouches [.grants] s (s.grantTested n r) := by
  rw [State.grantTested, State.overGrantTest_quiet (s := s.readingCharged n r)
    (by rw [State.grantBerth_readingCharged]; exact h)]
  exact onlyTouches_trans (State.onlyTouches_modGrantBerth _ _ _) (State.onlyTouches_modGrantBerth _ _ _)

/-- A reading of a live berth, within its rating or above it: stored and charged (R132). -/
theorem reading_charged {s t : State} {n : Ix} {r : Nat} (hlive : s.isLive n = true)
    (ht : t = (s.grantTested n r).overRatingTest n r) : ReadingStands s n r t ∧ (t.grantBerth n).charge =
      (s.grantBerth n).charge.account ((r - (s.ge.active.recs.get n).firm) * s.ge.lastLength) := by
  have hu := grantTested s n r
  obtain ⟨admitted, firm, overGrant, overRating, hrecord⟩ := State.grantBerth_overRatingTest (s := s.grantTested n r) n r
    (by rw [State.isLive, hu.berth]; exact hlive)
  rw [← ht, hu.grantBerth] at hrecord
  exact ⟨readingStands_of_record hrecord, by rw [hrecord]; rfl⟩

/-- A reading within the rating ends the row of those above it, and leaves what the over-grant test has done (R134). -/
theorem reading_within {s t : State} {n : Ix} {r : Nat} (ht : t = (s.grantTested n r).overRatingTest n r)
    (hr : r ≤ (s.berth n).rating) : (t.grantBerth n).overRating = 0 ∧ t.berth n = s.berth n ∧
      (t.grantBerth n).firm = (s.grantBerth n).firm ∧
      ((s.berth n).firmFromMeter = true → (t.grantBerth n).overGrant = (s.grantBerth n).overGrant) ∧
      ((s.berth n).firmFromMeter = false → ¬ s.AboveGrant n r → (t.grantBerth n).overGrant = 0) ∧
      (s.AboveGrant n r → (s.grantBerth n).overGrant < 2 → (t.grantBerth n).overGrant = (s.grantBerth n).overGrant + 1) ∧
      (s.AboveGrant n r → 2 ≤ (s.grantBerth n).overGrant → (t.grantBerth n).overGrant = 0 ∧
        ∀ p, p = .t ∨ p = .v n → (s.port p).isOpen = true → t.port p = (s.port p).posted .overdraw
          { berth := some n, code := some 1, value := r, period := s.ge.period }) ∧
      (¬ s.AboveGrant n r ∨ (s.grantBerth n).overGrant < 2 → OnlyTouches [.grants] s t) ∧
      OnlyTouches [.grants, .link .t, .link (.v n)] s t := by
  have hu := grantTested s n r
  rw [State.overRatingTest_within (by rw [hu.berth]; exact hr)] at ht
  have hrecord : t.grantBerth n = { s.chargedRecord n r with overGrant := s.overGrantAfter n r, overRating := 0 } := by
    rw [ht, State.grantBerth_modGrantBerth, if_pos rfl, hu.grantBerth]
  have hcount : (t.grantBerth n).overGrant = s.overGrantAfter n r := by rw [hrecord]
  have hlast : OnlyTouches [.grants] (s.grantTested n r) t := ht ▸ State.onlyTouches_modGrantBerth _ _ _
  have hport : ∀ p, t.port p = (s.grantTested n r).port p := fun p => hlast (.link p) (by simp)
  rw [hcount]
  refine ⟨by rw [hrecord], ?_, by rw [hrecord]; rfl, State.overGrantAfter_meter r, State.overGrantAfter_below,
    State.overGrantAfter_counts, fun habove hc => ⟨State.overGrantAfter_third habove hc, fun p hp hopen => ?_⟩,
    fun h => onlyTouches_trans (grantTested_quiet h) hlast, onlyTouches_trans hu.frame (onlyTouches_mono hlast (by simp))⟩
  · rw [ht]
    exact hu.berth n
  · rw [hport, grantTested_third habove hc hp hopen]

/-- The first reading above the rating is counted (R134). -/
theorem reading_overRating {s t : State} {n : Ix} {r : Nat} (ht : t = (s.grantTested n r).overRatingTest n r)
    (hr : (s.berth n).rating < r) (hc : (s.grantBerth n).overRating = 0) :
    (t.grantBerth n).overRating = 1 ∧ t.berth n = s.berth n := by
  have hu := grantTested s n r
  have hcount : ((s.grantTested n r).grantBerth n).overRating = 0 := by rw [hu.grantBerth]; exact hc
  rw [State.overRatingTest_first (by rw [hu.berth]; exact hr) hcount] at ht
  rw [ht, State.grantBerth_modGrantBerth, if_pos rfl, hcount]
  exact ⟨rfl, hu.berth n⟩

/-- The second reading in a row above the rating trips the berth (R22, R134). -/
theorem reading_overload {s t : State} {n : Ix} {r : Nat} (hlive : s.isLive n = true)
    (ht : t = (s.grantTested n r).overRatingTest n r) (hr : (s.berth n).rating < r) (hc : 1 ≤ (s.grantBerth n).overRating)
    (hb : (s.berth n).breaker = .closed) : Tripped s n .overload t ∧ Consented s n .failed .tripped 0 t := by
  have hu := grantTested s n r
  rw [State.overRatingTest_second (by rw [hu.berth]; exact hr) (by rw [hu.grantBerth]; exact hc),
    State.trip_live _ (by rw [State.isLive, hu.berth]; exact hlive)] at ht
  rw [ht]
  have htrip := tripped_tripTo (s := s.grantTested n r) (n := n) (c := .overload) (by rw [hu.berth, hb]; decide)
  exact ⟨htrip.behind hu.fields hu.period hu.trip, (State.consented_tripTo _ n .overload 0 .tripped none).behind hu.fields⟩

/-- Settles O59: the minute of each berth in turn, and a reading without its mark, invalid, without its plug, of a berth that is not
live, and of a live one by the two tests. -/
theorem chargeAccounts : Obligations.ChargeAccounts := by
  refine ⟨fun s h => ?_, fun s n reading r total h hr htotal => ⟨fun hdue => ?_, fun hdue => ?_, fun hdue hplug => ?_,
    fun hdue hplug => ?_⟩⟩
  · obtain ⟨t, hexec, hleft, hcharge, hshort, hquiet, htop, hnone, hactive, hstaged, hframe⟩ := minuteTick_answers h
    refine ⟨t, hexec, hleft, hcharge, fun short hiff => ?_, hactive, hstaged, hframe⟩
    obtain rfl : short = s.FallsShort := funext fun n => propext (hiff n)
    exact ⟨hshort, hquiet, htop, hnone⟩
  · exact ⟨s, event_next_eq h (State.takeReading_unmarked _ hdue), rfl⟩
  · exact ⟨_, event_next_eq h (State.takeReading_invalid hdue), rfl, State.onlyTouches_modGrantBerth _ _ _⟩
  · exact ⟨_, event_next_eq h (State.takeReading_absent reading hdue hplug), rfl, State.onlyTouches_modGrantBerth _ _ _⟩
  · have htake := State.takeReading_present reading hdue hplug
    rw [clampReading_of hr] at htake
    cases hlive : s.isLive n
    · rw [hlive, if_neg Bool.false_ne_true] at htake
      obtain ⟨hstands, hcharge, hfirm, hframe⟩ := reading_notLive (s := s) (n := n) r
      exact ⟨_, event_next_eq h htake, hstands.due, hstands.reading, hstands.adopted, hstands.kept,
        fun _ => ⟨hcharge, hfirm, hframe⟩, nofun⟩
    · rw [hlive, if_pos rfl, State.liveReading_readingStored] at htake
      obtain ⟨t, ht⟩ : ∃ t, t = (s.grantTested n r).overRatingTest n r := ⟨_, rfl⟩
      obtain ⟨hstands, hcharge⟩ := reading_charged hlive ht
      refine ⟨t, event_next_eq h (htake.trans ht.symm), hstands.due, hstands.reading, hstands.adopted, hstands.kept, nofun,
        fun _ => ⟨by rw [hcharge, htotal]; rfl, fun hwithin => ?_, reading_overRating ht, reading_overload hlive ht⟩⟩
      obtain ⟨hcount, hberth, hfirm, hgrant⟩ := reading_within ht hwithin
      refine ⟨hcount, hberth, hfirm, fun above habove => ?_⟩
      obtain rfl : above = s.AboveGrant n r := propext habove
      exact hgrant

end Sys2Proof.Machine

namespace Sys2Proof.Machine

/-- Settles O6: the queues and the Order Store are what the primitive updates of a step keep. -/
theorem stepKeepsStoreInv : Obligations.StepKeepsStoreInv := fun _ _ hs ht => stable_storeInv.step hs ht

end Sys2Proof.Machine

namespace Sys2Proof.Machine

/-! ### The common checks of an order (R142, R156) -/

/-- An order of an unknown kind fails the first check, whatever port it comes from. -/
theorem commonCheck_unknown {p : Port} {o : OrderRec} {k : Byte} (h : o.order = .unknown k) :
    o.commonCheck p = some .badArgument := by
  simp [OrderRec.commonCheck, h, Order.class?]

/-- Port T may submit every order that is not a vessel's. -/
theorem notPermitted_terminal {o : OrderRec} (h : o.order.class? ≠ some .vessel) : o.notPermitted .t = false := by
  unfold OrderRec.notPermitted
  cases hc : o.order.class? with
  | none => rfl
  | some c =>
    cases c with
    | vessel => exact absurd hc h
    | terminal | common => rfl

/-- A known order at a port that may not submit it fails the second check. -/
theorem commonCheck_notPermitted {p : Port} {o : OrderRec} (hc : o.order.class? ≠ none) (hp : o.notPermitted p = true) :
    o.commonCheck p = some .notPermitted := by
  simp [OrderRec.commonCheck, hc, hp]

/-- A known order that port T may submit fails the third check when it names no berth of the part. -/
theorem commonCheck_noBerth {o : OrderRec} (hc : o.order.class? ≠ none) (hp : o.notPermitted .t = false)
    (hn : o.order.namesBerth = true) (hb : 5 < o.berth.toNat) : o.commonCheck .t = some .badArgument := by
  simp [OrderRec.commonCheck, hc, hp, hn, hb]

/-- A known order whose port and berth are right is judged by the ranges of its arguments alone. -/
theorem commonCheck_rightful {p : Port} {o : OrderRec} (hc : o.order.class? ≠ none) (hp : o.notPermitted p = false)
    (hb : p = .t → o.order.namesBerth = false ∨ o.berth.toNat ≤ 5) {inRange : Prop} [Decidable inRange]
    (hok : o.order.badArgument = true ↔ ¬ inRange) :
    o.commonCheck p = if inRange then none else some .badArgument := by
  have hberth : ¬ (p = .t ∧ o.order.namesBerth = true ∧ 5 < o.berth.toNat) := fun ⟨ht, hn, h5⟩ =>
    (hb ht).elim (by simp [hn]) (Nat.not_le_of_lt h5)
  unfold OrderRec.commonCheck
  simp only [Option.isNone_iff_eq_none, hc, hp, if_false, Bool.false_eq_true, if_neg hberth, hok]
  exact ite_not ..

/-- The ranges of a vessel order's arguments at its port. -/
theorem commonCheck_vessel_ranges {n : Ix} {x : Order} {stop : Bool} {b : Byte} (hc : x.class? = some .vessel)
    {inRange : Prop} [Decidable inRange] (hok : x.badArgument = true ↔ ¬ inRange) :
    (OrderRec.mk x stop b).commonCheck (.v n) = if inRange then none else some .badArgument :=
  commonCheck_rightful (p := .v n) (by simp [hc]) (by simp [OrderRec.notPermitted, hc]) nofun hok

/-- The ranges of a terminal order's arguments at port T. -/
theorem commonCheck_terminal_ranges {x : Order} {stop : Bool} {b : Byte} (hc : x.class? = some .terminal)
    (hb : x.namesBerth = false ∨ b.toNat ≤ 5) {inRange : Prop} [Decidable inRange]
    (hok : x.badArgument = true ↔ ¬ inRange) :
    (OrderRec.mk x stop b).commonCheck .t = if inRange then none else some .badArgument :=
  commonCheck_rightful (by simp [hc]) (notPermitted_terminal (by simp [hc])) (fun _ => hb) hok

/-- The ranges of a common order's arguments at the port of the berth it names, if it names one. -/
theorem commonCheck_common_ranges {n : Ix} {x : Order} {stop : Bool} {b : Byte} (hc : x.class? = some .common)
    (hb : x.namesBerth = false ∨ b.toNat = n.toNat) {inRange : Prop} [Decidable inRange]
    (hok : x.badArgument = true ↔ ¬ inRange) :
    (OrderRec.mk x stop b).commonCheck (.v n) = if inRange then none else some .badArgument :=
  commonCheck_rightful (p := .v n) (by simp [hc]) (by
    rcases hb with hb | hb <;> simp [OrderRec.notPermitted, hc, hb]) nofun hok

/-- Settles O11: the take of an order that fails a common check is a refusal. -/
theorem commonChecksRefuse : Obligations.CommonChecksRefuse := by
  have refuses : ∀ (c : Instr) (p : Port) (o : OrderRec) (code : Code) (s : State), orderRow c = some (p, o) →
      PortReady s p → o.commonCheck p = some code → Refuses c s code := fun _ _ _ _ _ hc h hk =>
    order_refused hc h (by simp only [State.takeRunning, State.nextRef, hk])
  exact ⟨refuses, fun _ _ _ _ _ h => refuses _ _ _ _ _ rfl h (commonCheck_unknown rfl)⟩

/-- Settles O12: the checks in their order, then the ranges kind by kind. -/
theorem argumentRanges : Obligations.ArgumentRanges := by
  refine ⟨fun p o => ⟨fun ⟨k, hk⟩ => commonCheck_unknown hk, fun hc hp => ?_, fun hc hp => ?_, fun n hc hn hp hb => ?_,
    fun hc hv hn hp hb => ?_⟩, ?_⟩
  · subst hp
    exact commonCheck_notPermitted (by simp [hc]) (by simp [OrderRec.notPermitted, hc])
  · cases p with
    | t => exact absurd rfl hp
    | v n => exact commonCheck_notPermitted (by simp [hc]) (by simp [OrderRec.notPermitted, hc])
  · subst hp
    exact commonCheck_notPermitted (by simp [hc]) (by simp [OrderRec.notPermitted, hc, hn, hb])
  · subst hp
    exact commonCheck_noBerth hc (notPermitted_terminal hv) hn hb
  · intro n stop berth freq cls tr prio force start count module direction on flag h e c d wait cap value v1 v2 v3 v4 v5 limit
      duration hberth
    have hle : berth.toNat ≤ 5 := hberth ▸ Ix.toNat_le n
    refine ⟨?declare, ?connect, ?disconnect, ?authorize, ?withdraw, ?setReserve, ?setParameter, ?moduleService, ?lockout,
      ?raiseFlag, ?waitFlag, ?delay⟩
    case declare =>
      rintro _ rfl
      refine commonCheck_vessel_ranges rfl ?_
      simp only [Order.badArgument, Bool.or_eq_true, Bool.and_eq_true, bne_iff_ne, decide_eq_true_eq, ne_eq, ← Nat.not_le]
      tauto
    case connect => exact commonCheck_vessel_ranges rfl (by simp [Order.badArgument])
    case disconnect => exact commonCheck_vessel_ranges rfl (by simp [Order.badArgument])
    case authorize => exact commonCheck_terminal_ranges rfl (.inr hle) (by simp [Order.badArgument])
    case withdraw => exact commonCheck_terminal_ranges rfl (.inr hle) (by simp [Order.badArgument])
    case setReserve => exact commonCheck_terminal_ranges (inRange := True) rfl (.inl rfl) (by simp [Order.badArgument])
    case setParameter =>
      refine commonCheck_terminal_ranges rfl (.inl rfl) ?_
      simp only [Order.badArgument, Bool.or_eq_true, decide_eq_true_eq]
      omega
    case moduleService =>
      refine commonCheck_terminal_ranges rfl (.inl rfl) ?_
      simp only [Order.badArgument, Bool.or_eq_true, decide_eq_true_eq]
      omega
    case lockout => exact commonCheck_terminal_ranges rfl (.inr hle) (by simp [Order.badArgument])
    case raiseFlag => exact commonCheck_common_ranges rfl (.inr hberth) (by simp [Order.badArgument])
    case waitFlag =>
      refine commonCheck_common_ranges rfl (.inr hberth) ?_
      simp only [Order.badArgument, Bool.or_eq_true, decide_eq_true_eq]
      omega
    case delay =>
      refine commonCheck_common_ranges rfl (.inl rfl) ?_
      simp only [Order.badArgument, decide_eq_true_eq]
      omega

end Sys2Proof.Machine

namespace Sys2Proof.Machine

/-! ### The sixteen bytes of an order record (section 10.6) -/

/-- A two-byte number is its high byte followed by its low byte. -/
@[simp] theorem Word.ofBytes_hi_lo (w : Word) : Word.ofBytes (Word.hi w) (Word.lo w) = w :=
  (BitVec.extractLsb'_append_extractLsb'_eq_extractLsb' (by decide)).trans BitVec.extractLsb'_eq_self

/-- An order's arguments leave room in the thirteen argument bytes. -/
theorem Order.length_argBytes (x : Order) : x.argBytes.length ≤ 13 := by
  cases x <;> simp [Order.argBytes]

theorem OrderRec.length_toBytes (o : OrderRec) : o.toBytes.length = 16 := by
  have := o.order.length_argBytes
  simp only [OrderRec.toBytes, List.length_append, List.length_replicate, List.length_cons, List.length_nil]
  omega

/-- A kind byte that is not in the catalogue reads as an unknown kind (R156). -/
theorem Order.ofBytes_unknown {kind : Byte} (h : kind = 0 ∨ 20 < kind.toNat) (arg : Nat → Byte) :
    Order.ofBytes kind arg = .unknown kind := by
  have hk : kind.toNat = 0 ∨ 20 < kind.toNat := h.imp_left fun h0 => by rw [h0]; rfl
  unfold Order.ofBytes
  split
  case h_21 => rfl
  all_goals omega

/-- An order is read back from its kind byte and from bytes that begin with its arguments. -/
theorem Order.ofBytes_argBytes {x : Order} (h : ∀ k, x = .unknown k → k = 0 ∨ 20 < k.toNat) (rest : List Byte) :
    (Order.ofBytes x.kindByte fun i => (x.argBytes ++ rest).getD i 0) = x := by
  cases x
  case unknown k => exact Order.ofBytes_unknown (h k rfl) _
  all_goals simp [Order.ofBytes, Order.kindByte, Order.argBytes]

/-- An order record is read back from its sixteen bytes. -/
theorem OrderRec.ofBytes_toBytes {o : OrderRec} (h : ∀ k, o.order = .unknown k → k = 0 ∨ 20 < k.toNat) :
    OrderRec.ofBytes o.toBytes = o := by
  obtain ⟨x, stop, berth⟩ := o
  have hx : Order.ofBytes x.kindByte (fun i => (OrderRec.mk x stop berth).toBytes.getD (3 + i) 0) = x := by
    have harg : (fun i => (OrderRec.mk x stop berth).toBytes.getD (3 + i) 0) =
        fun i => (x.argBytes ++ List.replicate (13 - x.argBytes.length) 0).getD i 0 := by
      funext i
      simp [OrderRec.toBytes, Nat.add_comm 3 i]
    rw [harg]
    exact Order.ofBytes_argBytes h _
  have hstop : (if stop then (1 : Byte) else 0).getLsbD 0 = stop := by cases stop <;> rfl
  show OrderRec.mk (Order.ofBytes x.kindByte fun i => (OrderRec.mk x stop berth).toBytes.getD (3 + i) 0)
    ((if stop then (1 : Byte) else 0).getLsbD 0) berth = ⟨x, stop, berth⟩
  rw [hx, hstop]

/-! ### CHAIN frames (R138, R139) -/

theorem length_recordsOf (k : Nat) (bytes : List Byte) : (recordsOf k bytes).length = k := by
  induction k generalizing bytes with
  | zero => rfl
  | succ k ih => simp [recordsOf, ih]

namespace State

/-- An accepted chain stands in its queue and is answered with its tag and the slots left free (R138, R139). -/
def chainQueued (p : Port) (recs : List OrderRec) (s : State) : State :=
  (s.queueChain p recs).send p (.accept (s.orders p).rolling (s.queueChain p recs).freeSlots)

theorem freeSlots_queueChain (p : Port) (recs : List OrderRec) (s : State) :
    (s.queueChain p recs).freeSlots = s.freeSlots - recs.length := by
  unfold freeSlots
  rw [slotsInUse_queueChain]
  omega

theorem orders_chainQueued (p : Port) (recs : List OrderRec) (s : State) : (s.chainQueued p recs).orders p =
    { s.orders p with
      rolling := if 255 ≤ (s.orders p).rolling then 0 else (s.orders p).rolling + 1
      accepted := (s.orders p).accepted + 1
      queue := (s.orders p).queue ++
        [⟨(s.orders p).accepted, (s.orders p).rolling, recs.map fun o => ⟨o, .notTaken⟩⟩] } := by
  simp [chainQueued, queueChain, orders]

theorem port_chainQueued {p : Port} (recs : List OrderRec) {s : State} (h : (s.port p).isOpen = true) :
    (s.chainQueued p recs).port p = { s.port p with
      transmit := (s.port p).transmit ++ [.accept (s.orders p).rolling (s.freeSlots - recs.length)] } := by
  unfold port at h
  unfold chainQueued
  rw [freeSlots_queueChain]
  simp [send, queueChain, port, h]

theorem onlyTouches_chainQueued (p : Port) (recs : List OrderRec) (s : State) :
    OnlyTouches [.link p, .orders p] s (s.chainQueued p recs) := by
  apply onlyTouches_of_fields <;> simp +contextual [chainQueued, send, queueChain]

/-- Behind another chain an accepted chain waits. -/
theorem acceptChain_behind {p : Port} {s : State} (recs : List OrderRec) (h : (s.orders p).queue ≠ []) :
    s.acceptChain p recs = s.chainQueued p recs := by
  unfold acceptChain
  split
  · contradiction
  · rfl

/-- At an empty queue the first order of an accepted chain is taken at once. -/
theorem acceptChain_first {p : Port} {s : State} (first : OrderRec) (more : List OrderRec) (h : (s.orders p).queue = []) :
    s.acceptChain p (first :: more) =
      (s.chainQueued p (first :: more)).takeOrder { port := p, serial := (s.orders p).accepted, pos := 1 } first := by
  unfold acceptChain
  rw [h]
  rfl

theorem offerChain_queueFull {p : Port} {s : State} (recs : List OrderRec) (h : 4 ≤ (s.orders p).queue.length) :
    s.offerChain p recs = s.send p (.reject 1 .queueFull) := if_pos h

theorem offerChain_storeFull {p : Port} {s : State} {recs : List OrderRec} (hq : (s.orders p).queue.length < 4)
    (h : s.freeSlots < recs.length) : s.offerChain p recs = s.send p (.reject 1 .storeFull) := by
  unfold offerChain
  rw [if_neg (Nat.not_le_of_lt hq), if_pos h]

theorem offerChain_accepts {p : Port} {s : State} {recs : List OrderRec} (hq : (s.orders p).queue.length < 4)
    (h : recs.length ≤ s.freeSlots) : s.offerChain p recs = s.acceptChain p recs := by
  unfold offerChain
  rw [if_neg (Nat.not_le_of_lt hq), if_neg (Nat.not_lt_of_le h)]

theorem handleChain_badFrame {p : Port} {s : State} {payload : List Byte}
    (h : (payload.getD 0 0).toNat = 0 ∨ 8 < (payload.getD 0 0).toNat ∨ payload.length ≠ 1 + 16 * (payload.getD 0 0).toNat) :
    s.handleChain p payload = s.send p (.reject 1 .badFrame) := if_pos h

theorem handleChain_offers {p : Port} {s : State} {payload : List Byte} {count : Nat} (hc : count = (payload.getD 0 0).toNat)
    (h1 : 1 ≤ count) (h8 : count ≤ 8) (hl : payload.length = 1 + 16 * count) :
    s.handleChain p payload = s.offerChain p (recordsOf count payload.tail) := by
  unfold handleChain
  rw [← hc]
  exact if_neg (by omega)

/-- The CHAIN frame of one order offers that order (log entry 1). -/
theorem handleChain_single {o : OrderRec} (h : ∀ k, o.order = .unknown k → k = 0 ∨ 20 < k.toNat) (p : Port) (s : State) :
    s.handleChain p (1 :: o.toBytes) = s.offerChain p [o] := by
  have hl := o.length_toBytes
  have hrec : recordsOf 1 o.toBytes = [o] := by
    simp [recordsOf, List.take_of_length_le (le_of_eq hl), OrderRec.ofBytes_toBytes h]
  rw [handleChain_offers (count := 1) rfl le_rfl (by decide) (by simp [hl])]
  exact congrArg (s.offerChain p) hrec

end State

/-- A well-formed order row carries a kind of the catalogue, or a kind byte outside it. -/
theorem kind_of_wf {c : Instr} {p : Port} {o : OrderRec} (hwf : c.wf = true) (hc : orderRow c = some (p, o)) (k : Byte)
    (hk : o.order = .unknown k) : k = 0 ∨ 20 < k.toNat := by
  cases c <;> cases hc <;> cases hk
  simpa [Instr.wf] using hwf

/-- Settles O13: both rows are the handling of a frame that offers the one order. -/
theorem orderRowIsItsChain : Obligations.OrderRowIsItsChain := by
  intro c p o s hwf hc
  have hact : State.handleChain p (1 :: o.toBytes) = State.offerChain p [o] :=
    funext (State.handleChain_single (kind_of_wf hwf hc) p)
  calc exec c s = event (State.offerOrder p o.order o.stop o.berth) s := exec_orderRow hc
    _ = event (State.handling p (State.offerChain p [o])) s := rfl
    _ = event (State.handling p (State.handleChain p (1 :: o.toBytes))) s := by rw [hact]

/-- Settles O40: the checks of R139 in their order, then the accepted chain behind another chain and at an empty queue. -/
theorem chainIsCheckedAndQueued : Obligations.ChainIsCheckedAndQueued := by
  intro s p payload count h hopen hroom hcount
  obtain ⟨x, hx⟩ : ∃ x, x = s.setReceive p .hunt := ⟨_, rfl⟩
  have hexec : ∀ t, x.handleChain p payload = t → exec (.chain p payload) s = .next t.settle := fun t ht =>
    event_next_eq h ((State.handling_ready _ hopen hroom).trans (hx ▸ ht))
  have hrejects : ∀ f, x.handleChain p payload = x.send p f → ∃ t : State, exec (.chain p payload) s = .next t.settle ∧
      t.port p = { s.port p with receive := .hunt, transmit := (s.port p).transmit ++ [f] } ∧ OnlyTouches [.link p] s t :=
    fun f hf => ⟨_, hexec _ hf, hx ▸ State.port_answer f hopen, hx ▸ State.onlyTouches_answer s p f⟩
  refine ⟨fun hbad => hrejects _ (State.handleChain_badFrame (hcount ▸ hbad)), fun h1 h8 hlen => ?_⟩
  have hoffer := State.handleChain_offers (s := x) (p := p) hcount h1 h8 hlen
  have hrecs := length_recordsOf count payload.tail
  have hxo : x.orders p = s.orders p := by rw [hx]; rfl
  have hxf : x.freeSlots = s.freeSlots := by rw [hx]; rfl
  have hxp : x.port p = { s.port p with receive := .hunt } := by rw [hx]; simp [State.port, State.setReceive]
  have hxopen : (x.port p).isOpen = true := by rw [hxp]; exact hopen
  have hqport := State.port_chainQueued (recordsOf count payload.tail) hxopen
  rw [hxp, hxo, hxf, hrecs] at hqport
  have hqorders := State.orders_chainQueued p (recordsOf count payload.tail) x
  rw [hxo] at hqorders
  have hqframe : OnlyTouches [.link p, .orders p] s (x.chainQueued p (recordsOf count payload.tail)) :=
    onlyTouches_trans (hx ▸ onlyTouches_mono (State.onlyTouches_setReceive s p .hunt) (by simp))
      (State.onlyTouches_chainQueued p _ x)
  refine ⟨fun hfull => ?_, fun hq hfull => ?_, fun hq hfree hbehind => ?_, fun first more hempty hfree hfirst => ?_⟩
  · exact hrejects _ (hoffer.trans (State.offerChain_queueFull _ (hxo ▸ hfull)))
  · exact hrejects _ (hoffer.trans (State.offerChain_storeFull (hxo ▸ hq) (by rwa [hxf, hrecs])))
  · have hacc := hoffer.trans (State.offerChain_accepts (hxo ▸ hq) (by rwa [hxf, hrecs]))
    exact ⟨_, hexec _ (hacc.trans (State.acceptChain_behind _ (hxo ▸ hbehind))), hqorders, hrecs, hqport, hqframe⟩
  · have hacc := hoffer.trans (State.offerChain_accepts (by rw [hxo, hempty]; decide) (by rwa [hxf, hrecs]))
    rw [hfirst] at hacc hqorders hqport hqframe hrecs
    refine ⟨_, x.chainQueued p (first :: more), hexec _ (hacc.trans (State.acceptChain_first _ _ (hxo ▸ hempty))), ?_,
      by simpa using hrecs, ?_, hqport, hqframe⟩
    · rw [hxo]
    · rw [hqorders, hempty]
      rfl

end Sys2Proof.Machine

namespace Sys2Proof.Machine

/-! ### What a port does next (R140, R144, R145) -/

namespace State

theorem portNext_complete {s : State} {p : Port} {c : Chain} {rest : List Chain} (hq : (s.orders p).queue = c :: rest)
    (hc : c.allEnded = true) : s.portNext p = some (s.completeHead p c) := by
  simp [portNext, hq, hc]

theorem portNext_idle {s : State} {p : Port} {c : Chain} {rest : List Chain} (hq : (s.orders p).queue = c :: rest)
    (hc : c.allEnded = false) (hrun : s.running? p = none) :
    s.portNext p = (nextOrder p c).map fun x => s.takeOrder x.1 x.2 := by
  simp [portNext, hq, hc, hrun]

theorem portNext_running {s : State} {p : Port} {c : Chain} {rest : List Chain} {r : OrderRef} {sl : Slot}
    (hq : (s.orders p).queue = c :: rest) (hc : c.allEnded = false) (hrun : s.running? p = some (r, sl)) :
    s.portNext p = (s.earlyReport p r).map fun x => s.takeOrder x.1 x.2 := by
  simp [portNext, hq, hc, hrun]

/-- A report at the head of the second chain is taken early behind the consenting order (R145). -/
theorem earlyReport_second {s : State} {n : Ix} {r : OrderRef} {head second : Chain} {o : OrderRec} {more : List Slot}
    {tail : List Chain} (hq : (s.orders (.v n)).queue = head :: second :: tail)
    (hs : second.orders = { record := o, status := .notTaken } :: more) (hcons : (s.berth n).consenting = some r)
    (ho : o.order = .genOpened ∨ o.order = .genClosed) :
    s.earlyReport (.v n) r = some ({ port := .v n, serial := second.serial, pos := 1 }, o) := by
  have hreport : o.order.isReport = true := by rcases ho with ho | ho <;> rw [ho] <;> rfl
  obtain ⟨serial, count, orders⟩ := second
  subst hs
  simp [earlyReport, hq, hcons, hreport]

theorem orders_completeHead {s : State} {p : Port} {c : Chain} {rest : List Chain} (hq : (s.orders p).queue = c :: rest) :
    (s.completeHead p c).orders p = { s.orders p with queue := rest } := by
  unfold orders at hq
  simp [completeHead, passCompletion, orders, hq]

theorem port_completeHead (s : State) (p : Port) (c : Chain) : (s.completeHead p c).port p =
    if (s.port p).isOpen then
      { s.port p with transmit := (s.port p).transmit ++ [.completion c.count (c.orders.map Slot.statusRecord)] }
    else s.port p := PortMap.get_set_same _ _ _

theorem onlyTouches_completeHead (s : State) (p : Port) (c : Chain) :
    OnlyTouches [.link p, .orders p] s (s.completeHead p c) := by
  apply onlyTouches_of_fields <;> simp +contextual [completeHead, passCompletion, send]

end State

/-- Settles O16: the head chain is complete, or nothing of the port runs, or its consenting order does. -/
theorem portFollowUps : Obligations.PortFollowUps := by
  refine ⟨fun s p c rest hq hc => ?_, fun s p c rest hq hc => ⟨fun pos o hrun hpos hslot => ?_,
    fun n r sl serial count o more tail hp hrun hcons hrest ho => ?_⟩⟩
  · exact ⟨_, State.portNext_complete hq hc, State.orders_completeHead hq, s.port_completeHead p c,
      s.onlyTouches_completeHead p c⟩
  · have hnext : State.nextOrder p c = some ({ port := p, serial := c.serial, pos }, o) := by
      simp [State.nextOrder, hpos, hslot]
    rw [State.portNext_idle hq hc hrun, hnext]
    rfl
  · subst hp
    subst hrest
    rw [State.portNext_running hq hc hrun, State.earlyReport_second hq rfl hcons ho]
    rfl

end Sys2Proof.Machine

namespace Sys2Proof.Machine

/-! ### WAIT_FLAG (R152, R169) -/

/-- The flag argument of 1 names flag 1. -/
theorem decide_flagByte (flag : Byte) : decide (flag = 1) = decide (flag.toNat = 1) := by
  simp [← BitVec.toNat_inj]

namespace State

/-- A SET flag is taken. -/
theorem takeWaitFlag_set {s : State} {n : Ix} {flag : Byte} (p : Port) (limit : Word) {f : SyncFlag}
    (hf : f = s.flag n (decide (flag.toNat = 1))) (h : f.isSet = true) : s.takeWaitFlag n p flag limit =
      (s.setFlag n (decide (flag.toNat = 1)) { f with isSet := false }, some (doneWith 0 0)) := by
  subst hf
  simp only [takeWaitFlag, decide_flagByte, h, if_true]

/-- At a CLEAR flag the order joins the waiters. -/
theorem takeWaitFlag_clear {s : State} {n : Ix} {flag : Byte} (p : Port) (limit : Word) {f : SyncFlag}
    (hf : f = s.flag n (decide (flag.toNat = 1))) (h : f.isSet = false) : s.takeWaitFlag n p flag limit =
      (s.setFlag n (decide (flag.toNat = 1)) { f with waiters := f.waiters ++ [{ port := p, left := limit.toNat }] }, none) := by
  subst hf
  simp only [takeWaitFlag, decide_flagByte, h, Bool.false_eq_true, if_false]

theorem onlyTouches_setFlag (n : Ix) (b : Bool) (f : SyncFlag) (s : State) : OnlyTouches [.flags] s (s.setFlag n b f) := by
  apply onlyTouches_of_fields <;> simp +contextual

/-- The limit of a running WAIT_FLAG ends it FAILED and takes it from the waiters. -/
theorem waitExpires_running {s : State} {p : Port} {r : OrderRef} {o : OrderRec} {k : Nat} {flag : Byte} {limit : Word}
    (hrun : s.running? p = some (r, { record := o, status := .running k })) (ho : o.order = .waitFlag flag limit) :
    s.waitExpires p =
      (s.dropWaiter p).endOrder r { verdict := .failed, code := .waitTimeout, d1 := limit.toNat, d2 := 0 } := by
  simp [waitExpires, hrun, ho, Order.isWait, Order.waitLimit]

end State

/-- A flag of a state in which one flag has been replaced and one order may have ended. -/
theorem flags_replaced {s w u : State} {n : Ix} {b : Bool} {f : SyncFlag} (hw : w.oe.flags = s.oe.flags)
    (hu : u.oe.flags = (w.setFlag n b f).oe.flags) :
    u.flag n b = f ∧ ∀ m second, (m, second) ≠ (n, b) → u.flag m second = s.flag m second := by
  refine ⟨?_, fun m second hne => ?_⟩
  · rw [State.flag_of_flags hu, State.flag_setFlag, if_pos ⟨rfl, rfl⟩]
  · have hno : ¬ (m = n ∧ second = b) := fun ⟨h1, h2⟩ => hne (by rw [h1, h2])
    rw [State.flag_of_flags hu, State.flag_setFlag, if_neg hno, State.flag_of_flags hw]

/-- WAIT_FLAG at its take (R152, R169). -/
theorem waitFlag_taken {s : State} {p : Port} {n : Ix} {stop : Bool} {berth flag : Byte} {limit : Word} {f : SyncFlag}
    (h : PortReady s p) (hp : p = .t ∨ p = .v n) (hb : berth.toNat = n.toNat) (hflag : flag.toNat ≤ 1)
    (hlimit : 1 ≤ limit.toNat) (hf : f = s.flag n (decide (flag.toNat = 1))) :
    (f.isSet = true →
      ∃ t : State, exec (.waitFlag p stop berth flag limit) s = .next t.settle ∧
        OrderEnds (.waitFlag p stop berth flag limit) s (doneWith 0 0) t ∧
        t.flag n (decide (flag.toNat = 1)) = { f with isSet := false } ∧
        (∀ m second, (m, second) ≠ (n, decide (flag.toNat = 1)) → t.flag m second = s.flag m second) ∧
        OnlyTouches [.link p, .orders p, .flags] s t) ∧
    (f.isSet = false →
      ∃ t : State, exec (.waitFlag p stop berth flag limit) s = .next t.settle ∧
        OrderRuns (.waitFlag p stop berth flag limit) s t ∧
        t.flag n (decide (flag.toNat = 1)) = { f with waiters := f.waiters ++ [{ port := p, left := limit.toNat }] } ∧
        (∀ m second, (m, second) ≠ (n, decide (flag.toNat = 1)) → t.flag m second = s.flag m second) ∧
        OnlyTouches [.link p, .orders p, .flags] s t) := by
  obtain ⟨w, hw⟩ : ∃ w, w = s.withRunning p ⟨.waitFlag flag limit, stop, berth⟩ := ⟨_, rfl⟩
  have hwflags : w.oe.flags = s.oe.flags := by rw [hw]; rfl
  have hwf : f = w.flag n (decide (flag.toNat = 1)) := by rw [hf, State.flag_of_flags hwflags]
  have hk : (OrderRec.mk (.waitFlag flag limit) stop berth).commonCheck p = none :=
    commonCheck_named rfl hp hb (by simp [Order.badArgument]; omega)
  have hhand : w.handOrder (s.nextRef p) ⟨.waitFlag flag limit, stop, berth⟩ = w.takeWaitFlag n p flag limit := by
    simp only [State.handOrder, State.nextRef, berthIx_named hp hb]
  have hq : ∀ b g, ((w.setFlag n b g).orders p).queue =
      (runningOrders (s.orders p) ⟨.waitFlag flag limit, stop, berth⟩ s.now).queue := fun b g => by
    unfold State.orders
    rw [State.ports_setFlag, hw]
    exact queue_withRunning
  have hframe : ∀ b g, OnlyTouches [.link p, .orders p, .flags] s (w.setFlag n b g) := fun b g =>
    onlyTouches_taken hw (by simp) (by simp) (onlyTouches_mono (State.onlyTouches_setFlag n b g w) (by simp))
  refine ⟨fun hset => ?_, fun hclear => ?_⟩
  · obtain ⟨he, hends⟩ := order_ends (c := .waitFlag p stop berth flag limit) rfl h hk
      (by rw [← hw, hhand]; exact State.takeWaitFlag_set p limit hwf hset) (hq _ _)
    obtain ⟨hself, hothers⟩ := flags_replaced hwflags (State.flags_endOrder _ (s.nextRef p) (doneWith 0 0))
    exact ⟨_, he, hends, hself, hothers, onlyTouches_trans (hframe _ _)
      (onlyTouches_mono (onlyTouches_endOrder _ _) (by simp [State.nextRef]))⟩
  · obtain ⟨he, hruns⟩ := order_runs (c := .waitFlag p stop berth flag limit) rfl h hk
      (by rw [← hw, hhand]; exact State.takeWaitFlag_clear p limit hwf hclear) (hq _ _)
    obtain ⟨hself, hothers⟩ := flags_replaced hwflags rfl
    exact ⟨_, he, hruns, hself, hothers, hframe _ _⟩

/-- A WAIT_FLAG that waits, at its limit (R152, R169). -/
theorem waitLimit_ends {s : State} {p : Port} {r : OrderRef} {o : OrderRec} {k : Nat} {flag : Byte} {limit : Word}
    (h : s.powered = true) (hrun : s.running? p = some (r, { record := o, status := .running k }))
    (ho : o.order = .waitFlag flag limit) :
    ∃ t : State, exec (.waitLimitExpiry p) s = .next t.settle ∧
      t.slot? r = some ⟨o, .ended { verdict := .failed, code := .waitTimeout, d1 := limit.toNat, d2 := 0 }⟩ ∧
      (∀ n second, t.flag n second = { s.flag n second with
        waiters := (s.flag n second).waiters.filter fun w => decide (w.port ≠ p) }) ∧
      OnlyTouches [.orders p, .flags] s t := by
  obtain ⟨rfl, hslot, -⟩ := State.running_slot hrun
  have hdrop : (s.dropWaiter r.port).slot? r = some { record := o, status := .running k } := by
    rw [State.slot_of_ports (s.ports_dropWaiter r.port)]
    exact hslot
  refine ⟨_, event_next_eq h (State.waitExpires_running hrun ho), State.slot_endOrder_self hdrop rfl, fun n second => ?_, ?_⟩
  · rw [State.flag_of_flags (State.flags_endOrder _ _ _)]
    exact State.flag_dropWaiter r.port n second s
  · exact onlyTouches_trans (onlyTouches_mono (State.onlyTouches_dropWaiter r.port s) (by simp))
      (onlyTouches_mono (onlyTouches_endOrder _ _) (by simp))

/-- Settles O35: the two takes of WAIT_FLAG, and the end of one that waits. -/
theorem waitFlagAnswers : Obligations.WaitFlagAnswers :=
  ⟨fun _ _ _ _ _ _ _ _ _ h hrow hp hb hflag hlimit hf => hrow ▸ waitFlag_taken h hp hb hflag hlimit hf,
    fun _ _ _ _ _ _ _ h hrun _ ho => waitLimit_ends h hrun ho⟩

end Sys2Proof.Machine

/-! Support for the obligations about single orders of the catalogue: SET_RESERVE, CHECK_BERTH, RAISE_FLAG and DELAY
(chapter 9). -/

namespace Sys2Proof.Machine

/-! ### Orders whose block answers at the take (R140) -/

/-- An order row whose order ends at its take touches its port and what the take touches. -/
theorem order_ends_framed {c : Instr} {s u : State} {p : Port} {o : OrderRec} {st : Status} {l : List Part}
    (hc : orderRow c = some (p, o)) (h : PortReady s p) (hk : o.commonCheck p = none)
    (hu : (s.withRunning p o).handOrder (s.nextRef p) o = (u, some st)) (hl : OnlyTouches l (s.withRunning p o) u)
    (hp : Part.orders p ∉ l) :
    exec c s = .next (u.endOrder (s.nextRef p) st).settle ∧ OrderEnds c s st (u.endOrder (s.nextRef p) st) ∧
      OnlyTouches (.link p :: .orders p :: l) s (u.endOrder (s.nextRef p) st) := by
  have horders : u.orders p = (s.withRunning p o).orders p := hl _ hp
  obtain ⟨he, hends⟩ := order_ends hc h hk hu (by rw [horders]; exact queue_withRunning)
  have htake : OnlyTouches (.link p :: .orders p :: l) (s.withRunning p o) u := onlyTouches_mono hl (by simp +contextual)
  have hend : OnlyTouches (.link p :: .orders p :: l) u (u.endOrder (s.nextRef p) st) :=
    onlyTouches_mono (onlyTouches_endOrder _ _) (by simp [State.nextRef])
  exact ⟨he, hends, onlyTouches_taken rfl (by simp) (by simp) (onlyTouches_trans htake hend)⟩

/-! ### SET_RESERVE (R162) -/

/-- One clamped argument is noted in the record (R156). -/
theorem doneClamped_clipped (top a d1 d2 : Nat) : doneClamped (clipped top a) d1 d2 =
    { verdict := .done, code := if top < a then .clamped else .none, d1, d2 } := by
  unfold doneClamped clipped
  split <;> simp

/-- SET_RESERVE stores its value clamped to M, notes the clamp, and tells the value stored. -/
theorem State.takeSetReserve_eq (value : Word) (s : State) : s.takeSetReserve value =
    (s.modGe fun g => { g with reserve := min value.toNat s.feeder },
      some { verdict := .done, code := if s.feeder < value.toNat then .clamped else .none, d1 := min value.toNat s.feeder,
             d2 := 0 }) := by
  simp only [takeSetReserve, clampTop, doneClamped_clipped]

/-- Settles O24: the take stores the clamped value, and the end of the order leaves the Grant Engine. -/
theorem setReserveStores : Obligations.SetReserveStores := by
  intro s stop value h
  have hk : (OrderRec.mk (.setReserve value) stop 0).commonCheck .t = none := commonCheck_terminal (n := .i0) rfl rfl rfl
  obtain ⟨he, hends, hframe⟩ := order_ends_framed (c := .setReserve .t stop value) rfl h hk
    (State.takeSetReserve_eq value _) (onlyTouches_modGe _) (by simp)
  exact ⟨_, he, hends, by simp [State.feeder, State.param], hframe⟩

/-! ### CHECK_BERTH (R60, R165) -/

namespace State

/-- A request for a berth that is queued merges with the one in the queue (R60). -/
theorem filing_queued {s : State} {n : Ix} (h : n ∈ s.cs.queue) : s.filing n = .merged := by
  simp [filing, h]

/-- A request for the berth in flight merges with its check (R60). -/
theorem filing_inFlight {s : State} {n : Ix} {c : InFlight} (hq : n ∉ s.cs.queue) (hc : s.cs.scanner = .running c)
    (hn : c.berth = n) : s.filing n = .inFlight := by
  simp [filing, hq, inFlight_of_running hc, hn]

/-- A request for a berth neither queued nor in flight is appended (R60). -/
theorem filing_new {s : State} {n : Ix} (hq : n ∉ s.cs.queue) (hc : ∀ c, s.cs.scanner = .running c → c.berth ≠ n) :
    s.filing n = .appended := by
  have hno : (s.inFlight.any fun c => decide (c.berth = n)) = false := by
    unfold inFlight
    cases hscan : s.cs.scanner with
    | running c => simpa using hc c hscan
    | idle | faulted => rfl
  simp [filing, hq, hno]

/-- A request that merges changes nothing (R60). -/
theorem fileRequest_merges {s : State} {n : Ix} (h : s.filing n ≠ .appended) : s.fileRequest n = s := by
  unfold fileRequest
  split
  · exact absurd ‹_› h
  · rfl
  · rfl

/-- A new request goes to the end of the queue and the choice follows (R60, R61). -/
theorem fileRequest_new {s : State} {n : Ix} (h : s.filing n = .appended) :
    s.fileRequest n = (s.modCs fun u => { u with queue := u.queue ++ [n] }).chooseCheck := by
  simp only [fileRequest, h]

theorem onlyTouches_fileRequest (n : Ix) (s : State) : OnlyTouches [.scanner] s (s.fileRequest n) := by
  apply onlyTouches_of_fields <;> simp

/-- There is no choice while the scanner is not IDLE (R61). -/
theorem chooseCheck_notIdle {s : State} (h : s.cs.scanner ≠ .idle) : s.chooseCheck = s := by
  rcases s.chooseCheck_cases with e | ⟨hidle, -⟩
  · exact e
  · exact absurd hidle h

end State

/-- What CHECK_BERTH's details say of what its request finds (R165). -/
def Filed.details (queue : List Ix) (n : Ix) : Filed → Status
  | .appended => doneWith (queue.length + 1) 0
  | .merged => doneWith (queue.idxOf n + 1) 1
  | .inFlight => doneWith 0 2

/-- CHECK_BERTH with the plug present files its request and tells what it found. -/
theorem State.takeCheckBerth_present {s : State} {n : Ix} (h : (s.berth n).plug = .present) :
    s.takeCheckBerth n = (s.fileRequest n, some ((s.filing n).details s.cs.queue n)) := by
  have hplug : ¬ (s.berth n).plug = .absent := by rw [h]; decide
  simp only [takeCheckBerth, if_neg hplug]
  cases s.filing n <;> rfl

/-- CHECK_BERTH at its take (R165). -/
theorem checkBerth_ends {s w : State} {n : Ix} {stop : Bool} {berth : Byte} {l : List Part} (h : PortReady s .t)
    (hb : berth.toNat = n.toNat) (hplug : (s.berth n).plug = .present) (hw : w = s.withRunning .t ⟨.checkBerth, stop, berth⟩)
    (hl : OnlyTouches l w (w.fileRequest n)) (hp : Part.orders .t ∉ l) :
    ∃ t : State, t.cs = (w.fileRequest n).cs ∧ exec (.checkBerth .t stop berth) s = .next t.settle ∧
      OrderEnds (.checkBerth .t stop berth) s ((s.filing n).details s.cs.queue n) t ∧
      OnlyTouches (.link .t :: .orders .t :: l) s t := by
  subst hw
  refine ⟨_, ?_, order_ends_framed rfl h (commonCheck_terminal rfl hb rfl) ?_ hl hp⟩
  · exact (State.fields_endOrder ((s.withRunning .t ⟨.checkBerth, stop, berth⟩).fileRequest n) _ _).2.2.2.2.2.2.2.2.1
  · have hplug' : ((s.withRunning .t ⟨.checkBerth, stop, berth⟩).berth n).plug = .present := hplug
    simp only [State.handOrder, State.nextRef, terminal_row stop _ hb, State.takeCheckBerth_present hplug']
    rfl

/-- Settles O27: the request is found in the queue, found in flight, or new. -/
theorem checkBerthDetails : Obligations.CheckBerthDetails := by
  rintro s n stop berth row h rfl hb hplug
  obtain ⟨w, hw⟩ : ∃ w, w = s.withRunning .t ⟨.checkBerth, stop, berth⟩ := ⟨_, rfl⟩
  have hwcs : w.cs = s.cs := by rw [hw]; rfl
  have hwfiling : w.filing n = s.filing n := by rw [hw]; rfl
  have hmerges : s.filing n ≠ .appended → OnlyTouches [] w (w.fileRequest n) := fun hf => by
    rw [State.fileRequest_merges (hwfiling ▸ hf)]
    exact onlyTouches_refl [] w
  refine ⟨fun before after hq hfirst => ?_, fun c hq hc hn => ?_, fun hq hc => ?_⟩
  · have hf := State.filing_queued (s := s) (n := n) (by simp [hq])
    have hpos : s.cs.queue.idxOf n = before.length := by simp [hq, List.idxOf_append, hfirst]
    obtain ⟨t, -, he, hends, hframe⟩ := checkBerth_ends h hb hplug hw (hmerges (by rw [hf]; nofun)) (by simp)
    rw [hf, Filed.details, hpos] at hends
    exact ⟨t, he, hends, hframe⟩
  · have hf := State.filing_inFlight hq hc hn
    obtain ⟨t, -, he, hends, hframe⟩ := checkBerth_ends h hb hplug hw (hmerges (by rw [hf]; nofun)) (by simp)
    rw [hf] at hends
    exact ⟨t, he, hends, hframe⟩
  · have hf := State.filing_new hq hc
    obtain ⟨t, hcs, he, hends, hframe⟩ := checkBerth_ends h hb hplug hw (w.onlyTouches_fileRequest n) (by simp)
    rw [hf] at hends
    rw [State.fileRequest_new (hwfiling.trans hf)] at hcs
    refine ⟨t, he, hends, fun hbusy => ?_, fun hidle hempty => ?_, hframe⟩
    · rw [hcs, State.chooseCheck_notIdle (by simpa [hwcs] using hbusy)]
      simp [hwcs]
    · obtain ⟨hrest, c, hstarts⟩ := State.chooseCheck_takesHead (n := n) (rest := [])
        (s := w.modCs fun u => { u with queue := u.queue ++ [n] }) (by simpa [hwcs] using hidle) (by simp [hwcs, hempty])
      rw [hcs]
      exact ⟨hrest, c, hstarts.scanner, hstarts.berth, hstarts.origin⟩

end Sys2Proof.Machine

namespace Sys2Proof.Machine

/-! ### RAISE_FLAG (R151, R168) -/

section

variable {f : SyncFlag}

theorem SyncFlag.effect_set (h : f.isSet = true) : f.effect = .alreadySet := by simp [effect, h]

theorem SyncFlag.after_set (h : f.isSet = true) : f.after = f := by simp [after, h]

theorem SyncFlag.effect_free (h : f.isSet = false) (hw : f.waiters = []) : f.effect = .becameSet := by simp [effect, h, hw]

theorem SyncFlag.after_free (h : f.isSet = false) (hw : f.waiters = []) : f.after = { f with isSet := true } := by
  simp [after, h, hw]

variable {first : Waiter} {more : List Waiter}

theorem SyncFlag.effect_awaited (h : f.isSet = false) (hw : f.waiters = first :: more) : f.effect = .handedOver first.port := by
  simp [effect, h, hw]

theorem SyncFlag.after_awaited (h : f.isSet = false) (hw : f.waiters = first :: more) :
    f.after = { f with waiters := more } := by
  simp [after, h, hw]

end

namespace State

theorem setFlag_self (n : Ix) (b : Bool) (s : State) : s.setFlag n b (s.flag n b) = s := by
  have hpair : (s.oe.flags.get n).set b (s.flag n b) = s.oe.flags.get n := by cases b <;> rfl
  simp only [setFlag, hpair, Six.set_get, modOe]

/-- An event at a SET flag changes nothing (R151). -/
theorem flagEvent_set {s : State} {n : Ix} {b : Bool} (h : (s.flag n b).isSet = true) : s.flagEvent n b = s := by
  simp only [flagEvent, SyncFlag.effect_set h, SyncFlag.after_set h, setFlag_self]

/-- An event at a CLEAR flag without a waiter sets it (R151). -/
theorem flagEvent_free {s : State} {n : Ix} {b : Bool} (h : (s.flag n b).isSet = false) (hw : (s.flag n b).waiters = []) :
    s.flagEvent n b = s.setFlag n b { s.flag n b with isSet := true } := by
  simp only [flagEvent, SyncFlag.effect_free h hw, SyncFlag.after_free h hw]

theorem onlyTouches_endRunning (p : Port) (v : Verdict) (c : Code) (s : State) :
    OnlyTouches [.orders p] s (s.endRunning p v c) := by
  unfold endRunning
  split
  · exact onlyTouches_refl _ s
  · rename_i r sl hrun
    obtain ⟨rfl, -, -⟩ := running_slot hrun
    exact onlyTouches_endOrder r _

/-- An event that hands a flag over touches the flags and the orders of the earliest waiter's port (R151). -/
theorem onlyTouches_flagEvent {s : State} {n : Ix} {b : Bool} {p : Port} (h : (s.flag n b).effect = .handedOver p) :
    OnlyTouches [.orders p, .flags] s (s.flagEvent n b) := by
  simp only [flagEvent, h]
  exact onlyTouches_trans (onlyTouches_mono (onlyTouches_setFlag n b _ s) (by simp))
    (onlyTouches_mono (onlyTouches_endRunning p _ _ _) (by simp))

end State

/-- What RAISE_FLAG's details say of what it finds at the flag (R168). -/
def FlagEffect.details : FlagEffect → Status
  | .becameSet => doneWith 0 0
  | .handedOver p => doneWith 1 p.code
  | .alreadySet => doneWith 2 0

/-- RAISE_FLAG is an event at its flag, and tells what it found. -/
theorem State.takeRaiseFlag_eq (n : Ix) (flag : Byte) (s : State) : s.takeRaiseFlag n flag =
    (s.flagEvent n (decide (flag.toNat = 1)), some (s.flag n (decide (flag.toNat = 1))).effect.details) := by
  simp only [takeRaiseFlag, decide_flagByte]
  cases (s.flag n (decide (flag.toNat = 1))).effect <;> rfl

/-- RAISE_FLAG at its take (R168). -/
theorem raiseFlag_ends {s w : State} {p : Port} {n : Ix} {stop : Bool} {berth flag : Byte} {b : Bool} {l : List Part}
    (h : PortReady s p) (hp : p = .t ∨ p = .v n) (hb : berth.toNat = n.toNat) (hflag : flag.toNat ≤ 1)
    (hbit : b = decide (flag.toNat = 1)) (hw : w = s.withRunning p ⟨.raiseFlag flag, stop, berth⟩)
    (hl : OnlyTouches l w (w.flagEvent n b)) (hout : Part.orders p ∉ l) :
    ∃ t : State, t.oe.flags = (w.flagEvent n b).oe.flags ∧ KeepsEnded (w.flagEvent n b) t ∧
      exec (.raiseFlag p stop berth flag) s = .next t.settle ∧
      OrderEnds (.raiseFlag p stop berth flag) s (s.flag n b).effect.details t ∧
      OnlyTouches (.link p :: .orders p :: l) s t := by
  subst hw hbit
  have hk : (OrderRec.mk (.raiseFlag flag) stop berth).commonCheck p = none :=
    commonCheck_named rfl hp hb (by simp [Order.badArgument, hflag])
  refine ⟨_, State.flags_endOrder _ _ _, State.keepsEnded_endOrder _ _ _, order_ends_framed rfl h hk ?_ hl hout⟩
  simp only [State.handOrder, State.nextRef, berthIx_named hp hb, State.takeRaiseFlag_eq]
  rfl

/-- An order of another port that ends while an order of a ready port is taken keeps its record. -/
theorem Finished.of_withRunning {s u t : State} {p : Port} {o : OrderRec} {r : OrderRef} {v : Verdict} {c : Code} {d : Nat}
    (h : Finished (s.withRunning p o) r v c d u) (hr : r.port ≠ p) (hk : KeepsEnded u t) : Finished s r v c d t :=
  fun o' k hrun => hk r _ (h o' k ((State.slot_withRunning hr).trans hrun)) rfl

/-- Settles O34: the flag is CLEAR without a waiter, CLEAR with one, or SET. -/
theorem raiseFlagDetails : Obligations.RaiseFlagDetails := by
  rintro s p n stop berth flag f row h rfl hp hb hflag hf
  obtain ⟨b, hbit⟩ : ∃ b, b = decide (flag.toNat = 1) := ⟨_, rfl⟩
  obtain ⟨w, hw⟩ : ∃ w, w = s.withRunning p ⟨.raiseFlag flag, stop, berth⟩ := ⟨_, rfl⟩
  rw [← hbit] at hf ⊢
  have hwflags : w.oe.flags = s.oe.flags := by rw [hw]; rfl
  have hwf : w.flag n b = f := (State.flag_of_flags hwflags n b).trans hf.symm
  refine ⟨fun hclear hfree => ?_, fun first more hclear hwaits => ?_, fun hset => ?_⟩
  · have hevent := State.flagEvent_free (hwf ▸ hclear) (hwf ▸ hfree)
    obtain ⟨t, hflags, -, he, hends, hframe⟩ := raiseFlag_ends h hp hb hflag hbit hw (l := [.flags])
      (hevent ▸ State.onlyTouches_setFlag n b _ w) (by simp)
    rw [← hf, SyncFlag.effect_free hclear hfree] at hends
    obtain ⟨hself, hothers⟩ := flags_replaced hwflags (hflags.trans (by rw [hevent]))
    have hother : decide (flag.toNat = 0) ≠ b := by rw [hbit]; simp; omega
    exact ⟨t, he, hends, by rw [hself, hwf], hothers _ _ (by simp [hother]),
      fun m second hm => hothers _ _ (by simp [hm]), hframe⟩
  · have heffect := SyncFlag.effect_awaited hclear hwaits
    have hother : first.port ≠ p := h.noWait n b first (by rw [← hf, hwaits]; simp)
    obtain ⟨t, hflags, hkeeps, he, hends, hframe⟩ := raiseFlag_ends h hp hb hflag hbit hw
      (State.onlyTouches_flagEvent (hwf ▸ heffect)) (by simp [hother.symm])
    rw [← hf, heffect] at hends
    refine ⟨t, he, hends, ?_, fun r o k hrun => ?_, hframe⟩
    · rw [State.flag_of_flags hflags, State.flag_flagEvent, if_pos ⟨rfl, rfl⟩, hwf, SyncFlag.after_awaited hclear hwaits]
    · have hport : r.port ≠ p := by rw [(State.running_slot hrun).1]; exact hother
      have hwrun : w.running? first.port = some (r, { record := o, status := .running k }) := by
        rw [State.running_of_orders (s := s) (by rw [hw]; simp [State.orders, hother]), hrun]
      have hdone := State.finished_flagEvent (hwf ▸ hclear) (hwf ▸ hwaits) hwrun
      rw [hw] at hdone hkeeps
      exact hdone.of_withRunning hport hkeeps
  · have hevent := State.flagEvent_set (hwf ▸ hset)
    obtain ⟨t, -, -, he, hends, hframe⟩ := raiseFlag_ends h hp hb hflag hbit hw (l := [])
      (by rw [hevent]; exact onlyTouches_refl [] w) (by simp)
    rw [← hf, SyncFlag.effect_set hset] at hends
    exact ⟨t, he, hends, hframe⟩

end Sys2Proof.Machine

namespace Sys2Proof.Machine

/-! ### DELAY (R172) -/

/-- The common checks pass a common order that names no berth, at every port. -/
theorem commonCheck_unnamed {p : Port} {x : Order} {stop : Bool} {b : Byte} (hc : x.class? = some .common)
    (hn : x.namesBerth = false) (hok : x.badArgument = false) : (OrderRec.mk x stop b).commonCheck p = none := by
  cases p <;> simp [OrderRec.commonCheck, OrderRec.notPermitted, hc, hn, hok]

/-- DELAY at its take starts its timer and runs (R172). -/
theorem delay_runs {s : State} {p : Port} {stop : Bool} {duration : Word} (h : PortReady s p) (hd : 1 ≤ duration.toNat) :
    ∃ t : State, exec (.delay p stop duration) s = .next t.settle ∧ OrderRuns (.delay p stop duration) s t ∧
      (t.orders p).timer = some duration.toNat ∧ OnlyTouches [.link p, .orders p] s t := by
  have hk : (OrderRec.mk (.delay duration) stop 0).commonCheck p = none :=
    commonCheck_unnamed rfl rfl (by simp [Order.badArgument]; omega)
  obtain ⟨w, hw⟩ : ∃ w, w = s.withRunning p ⟨.delay duration, stop, 0⟩ := ⟨_, rfl⟩
  obtain ⟨he, hruns⟩ := order_runs (c := .delay p stop duration) (u := (w.takeDelay p duration).1) rfl h hk
    (by rw [hw]; rfl) (by rw [hw]; simp [State.takeDelay, State.orders])
  refine ⟨_, he, hruns, by simp [State.takeDelay, State.orders], onlyTouches_taken hw (by simp) (by simp) ?_⟩
  apply onlyTouches_of_fields <;> simp +contextual [State.takeDelay]

/-- The expiry of a delay ends it (R172). -/
theorem State.delayExpires_running {s : State} {p : Port} {r : OrderRef} {o : OrderRec} {k : Nat} {duration : Word}
    (hrun : s.running? p = some (r, { record := o, status := .running k })) (ho : o.order = .delay duration) :
    s.delayExpires p = s.endOrder r (doneWith 0 0) := by
  simp [delayExpires, hrun, ho, Order.isDelay]

/-- A DELAY at the expiry of its timer (R172). -/
theorem delay_ends {s : State} {p : Port} {r : OrderRef} {o : OrderRec} {k : Nat} {duration : Word} (h : s.powered = true)
    (hrun : s.running? p = some (r, { record := o, status := .running k })) (ho : o.order = .delay duration) :
    ∃ t : State, exec (.delayExpiry p) s = .next t.settle ∧ t.slot? r = some { record := o, status := .ended (doneWith 0 0) } ∧
      (t.orders p).timer = none ∧ OnlyTouches [.orders p] s t := by
  obtain ⟨rfl, hslot, -⟩ := State.running_slot hrun
  exact ⟨_, event_next_eq h (State.delayExpires_running hrun ho), State.slot_endOrder_self hslot rfl,
    by simp [State.endOrder, State.orders], onlyTouches_endOrder r _⟩

/-- Settles O38: the take, and the expiry of the timer. -/
theorem delayRunsAndEnds : Obligations.DelayRunsAndEnds :=
  ⟨fun _ _ _ _ h hd => delay_runs h hd, fun _ _ _ _ _ _ h hrun _ ho => delay_ends h hrun ho⟩

end Sys2Proof.Machine

namespace Sys2Proof.Machine

/-! ### Receiving, byte by byte (R174) -/

/-- A payload that is not yet gathered goes on with the next byte. -/
theorem payloadState_more {kind len : Byte} {got : List Byte} (h : got.length < len.toNat) :
    payloadState kind len got = .payload kind len got := if_pos h

/-- A payload that is gathered goes on with the CRC. -/
theorem payloadState_full {kind len : Byte} {got : List Byte} (h : got.length = len.toNat) :
    payloadState kind len got = .crcHigh kind got := if_neg (by omega)

namespace Receive

/-- The start byte begins a frame. -/
@[simp] theorem next_hunt_start : Receive.next Config.startByte .hunt = .state .kind := rfl

/-- Any other byte is discarded in HUNT. -/
theorem next_hunt_other {b : Byte} (h : b ≠ Config.startByte) : Receive.next b .hunt = .state .hunt :=
  congrArg Received.state (if_neg h)

@[simp] theorem next_kind (b : Byte) : Receive.next b .kind = .state (.length b) := rfl

/-- A length of 0 to 240 begins the payload. -/
theorem next_length {kind b : Byte} (h : b.toNat ≤ Config.maxPayload) :
    Receive.next b (.length kind) = .state (payloadState kind b []) :=
  congrArg Received.state (if_neg (Nat.not_lt_of_le h))

/-- A length above 240 drops the frame. -/
theorem next_length_beyond {kind b : Byte} (h : Config.maxPayload < b.toNat) :
    Receive.next b (.length kind) = .state .hunt := congrArg Received.state (if_pos h)

@[simp] theorem next_payload (kind len b : Byte) (got : List Byte) :
    Receive.next b (.payload kind len got) = .state (payloadState kind len (got ++ [b])) := rfl

@[simp] theorem next_crcHigh (kind b : Byte) (got : List Byte) :
    Receive.next b (.crcHigh kind got) = .state (.crcLow kind got b) := rfl

/-- The second CRC byte completes the frame, which is checked. -/
@[simp] theorem next_crcLow (kind high b : Byte) (got : List Byte) :
    Receive.next b (.crcLow kind got high) = .frame kind got (Word.ofBytes high b == frameCrc kind got) := rfl

end Receive

namespace State

theorem port_modPort (s : State) (p : Port) (f : LinkPort → LinkPort) : (s.modPort p f).port p = f (s.port p) := by
  simp [port]

theorem port_setReceive (s : State) (p : Port) (r : Receive) :
    (s.setReceive p r).port p = { s.port p with receive := r } := s.port_modPort p _

@[simp] theorem receive_setReceive (s : State) (p : Port) (r : Receive) : ((s.setReceive p r).port p).receive = r := by
  rw [port_setReceive]

@[simp] theorem isOpen_setReceive (s : State) (p : Port) (r : Receive) :
    ((s.setReceive p r).port p).isOpen = (s.port p).isOpen := by
  rw [port_setReceive]

@[simp] theorem setReceive_setReceive (s : State) (p : Port) (r r' : Receive) :
    (s.setReceive p r).setReceive p r' = s.setReceive p r' := by
  simp [setReceive, modPort]

@[simp] theorem answersWaiting_setReceive (s : State) (p : Port) (r : Receive) :
    (s.setReceive p r).answersWaiting p = s.answersWaiting p := by
  rw [answersWaiting, port_setReceive, answersWaiting]

/-- Handling does not depend on the receive state, which it sets to HUNT. -/
@[simp] theorem handling_setReceive (s : State) (p : Port) (r : Receive) (act : State → State)
    (hopen : (s.port p).isOpen = true) : (s.setReceive p r).handling p act = s.handling p act := by
  simp [handling, hopen]

/-- A byte that moves the receive state of an open port. -/
theorem frameByte_moves {s : State} {p : Port} {b : Byte} {r : Receive} (hopen : (s.port p).isOpen = true)
    (h : (s.port p).receive.next b = .state r) : s.frameByte p b = s.setReceive p r := by
  simp [frameByte, hopen, h]

/-- A byte that completes a frame: an intact one is handled, and another is dropped. -/
theorem frameByte_completes {s : State} {p : Port} {b kind : Byte} {payload : List Byte} {good : Bool}
    (hopen : (s.port p).isOpen = true) (h : (s.port p).receive.next b = .frame kind payload good) :
    s.frameByte p b = if good then s.handling p (byKind p kind payload) else s.setReceive p .hunt := by
  simp [frameByte, hopen, h]

end State

theorem exec_frameByteReceived {s t : State} {p : Port} {b : Byte} (h : s.powered = true) (ht : s.frameByte p b = t) :
    exec (.frameByteReceived p b) s = .next t.settle := event_next_eq h ht

/-- Settles O44: a byte that does not complete an intact frame moves the receive state as `Receive.next` says, row by row of R174;
one that does is followed by the handling. -/
theorem receiveStateMoves : Obligations.ReceiveStateMoves := by
  intro s p b h hopen
  have moves : ∀ rx r, (s.port p).receive = r → r.next b = .state rx → s.frameByte p b = s.setReceive p rx :=
    fun rx r hr hnext => State.frameByte_moves hopen (hr ▸ hnext)
  have completes : ∀ k got high, (s.port p).receive = .crcLow k got high → s.frameByte p b =
      if Word.ofBytes high b == frameCrc k got then s.handling p (State.byKind p k got) else s.setReceive p .hunt :=
    fun k got high hr => State.frameByte_completes hopen (hr ▸ Receive.next_crcLow k high b got)
  refine ⟨fun rx hrx => ⟨s.setReceive p rx, exec_frameByteReceived h ?_, rfl⟩, fun k got high hr hcrc => ?_⟩
  · rcases hrx with ⟨hr, rfl, rfl⟩ | ⟨hr, hb, rfl⟩ | ⟨hr, rfl⟩ | ⟨k, hr, hb, rfl⟩ | ⟨k, hr, hb, rfl⟩ | ⟨k, hr, hb, hle, rfl⟩ |
      ⟨k, len, got, hr, hb, rfl⟩ | ⟨k, len, got, hr, hb, rfl⟩ | ⟨k, got, hr, rfl⟩ | ⟨k, got, high, hr, hcrc, rfl⟩
    · exact moves _ _ hr Receive.next_hunt_start
    · exact moves _ _ hr (Receive.next_hunt_other hb)
    · exact moves _ _ hr (Receive.next_kind b)
    · exact moves _ _ hr (Receive.next_length_beyond hb)
    · exact moves _ _ hr (by rw [Receive.next_length (by omega), payloadState_full (got := []) hb.symm])
    · exact moves _ _ hr (by rw [Receive.next_length hle, payloadState_more (got := []) hb])
    · exact moves _ _ hr (by rw [Receive.next_payload, payloadState_more (by simpa using hb)])
    · exact moves _ _ hr (by rw [Receive.next_payload, payloadState_full (by simpa using hb)])
    · exact moves _ _ hr (Receive.next_crcHigh k b got)
    · rw [completes k got high hr, if_neg (by simpa using hcrc)]
  · exact exec_frameByteReceived h (by rw [completes k got high hr, if_pos (by simpa using hcrc)])

end Sys2Proof.Machine

namespace Sys2Proof.Machine

/-! ### The bytes of a frame (R174, section 10.6) -/

theorem toNat_byteOf {a : Nat} (h : a < 256) : (byteOf a).toNat = a := by
  simpa [byteOf] using h

namespace State

/-- A byte that moves the receive state, at a port whose receive state is named. -/
theorem frameByte_setReceive {s : State} {p : Port} {b : Byte} {r r' : Receive} (hopen : (s.port p).isOpen = true)
    (h : r.next b = .state r') : (s.setReceive p r).frameByte p b = s.setReceive p r' := by
  rw [frameByte_moves (r := r') (by simpa using hopen) (by simpa using h), setReceive_setReceive]

/-- The rest of a payload is gathered byte by byte, and then the CRC follows. -/
theorem frameBytes_payload {s : State} {p : Port} {kind len : Byte} (hopen : (s.port p).isOpen = true) (rest : List Byte) :
    ∀ got, got.length + rest.length = len.toNat →
      rest.foldl (fun t b => t.frameByte p b) (s.setReceive p (payloadState kind len got)) =
        s.setReceive p (.crcHigh kind (got ++ rest)) := by
  induction rest with
  | nil => intro got h; simp [payloadState_full (by simpa using h)]
  | cons b rest ih =>
    intro got h
    have hlen : got.length + (rest.length + 1) = len.toNat := by simpa using h
    rw [payloadState_more (by omega), List.foldl_cons, frameByte_setReceive hopen (Receive.next_payload kind len b got),
      ih (got ++ [b]) (by simp; omega), List.append_assoc, List.singleton_append]

/-- The two bytes of a frame's CRC, high byte first, are followed by its handling. -/
theorem frameBytes_crc {s : State} {p : Port} (kind : Byte) (payload : List Byte) (hopen : (s.port p).isOpen = true) :
    ((s.setReceive p (.crcHigh kind payload)).frameByte p (Word.hi (frameCrc kind payload))).frameByte p
      (Word.lo (frameCrc kind payload)) = s.handling p (byKind p kind payload) := by
  rw [frameByte_setReceive hopen (Receive.next_crcHigh ..),
    frameByte_completes (by simpa using hopen) ((congrArg _ (receive_setReceive ..)).trans (Receive.next_crcLow ..)),
    Word.ofBytes_hi_lo, if_pos (beq_self_eq_true _), handling_setReceive _ _ _ _ hopen]

end State

/-- Settles O15: the first three bytes lead to the payload, the payload to the CRC, and the CRC to the handling. -/
theorem frameBytesRoundTrip : Obligations.FrameBytesRoundTrip := by
  intro s p kind payload hopen hhunt hlen
  have hlength : (byteOf payload.length).toNat = payload.length := toNat_byteOf (by omega)
  have hheader : [Config.startByte, kind, byteOf payload.length].foldl (fun t b => t.frameByte p b) s =
      s.setReceive p (payloadState kind (byteOf payload.length) []) := by
    simp only [List.foldl_cons, List.foldl_nil]
    rw [State.frameByte_moves hopen (hhunt ▸ Receive.next_hunt_start), State.frameByte_setReceive hopen (Receive.next_kind kind),
      State.frameByte_setReceive hopen (Receive.next_length (by rwa [hlength]))]
  rw [frameBytes, List.foldl_append, List.foldl_append, hheader,
    State.frameBytes_payload hopen payload [] (by simpa using hlength.symm), List.nil_append]
  exact State.frameBytes_crc kind payload hopen

end Sys2Proof.Machine

namespace Sys2Proof.Machine

/-! ### Frames that are not taken, and frames sent (R173 to R176) -/

namespace State

/-- A closed port takes no frame (R173). -/
theorem handling_closed {s : State} {p : Port} (act : State → State) (hclosed : (s.port p).isOpen = false) :
    s.handling p act = s := if_neg (by simp [hclosed])

/-- A frame that arrives behind eight waiting answers is discarded (R175). -/
theorem handling_backlog {s : State} {p : Port} (act : State → State) (hopen : (s.port p).isOpen = true)
    (hfull : 8 ≤ s.answersWaiting p) : s.handling p act = s.setReceive p .hunt := (if_pos hopen).trans (if_pos hfull)

/-- A frame that is answered with one frame at once changes its own port alone. -/
theorem answer_eq {s : State} {p : Port} (f : TxFrame) (hopen : (s.port p).isOpen = true) :
    (s.setReceive p .hunt).send p f =
      s.modPort p fun lp => { lp with receive := .hunt, transmit := lp.transmit ++ [f] } := by
  unfold port at hopen
  simp [send, setReceive, modPort, hopen]

/-- The head of the transmit queue leaves it when it has been sent (R176). -/
theorem frameSent_cons {s : State} {p : Port} {f : TxFrame} {rest : List TxFrame} (h : (s.port p).transmit = f :: rest) :
    s.frameSent p = s.modPort p fun lp => { lp with transmit := rest } := by
  unfold port at h
  simp [frameSent, modPort, h]

/-- A notice frame whose payload is not one byte is answered BAD_FRAME (R175). -/
theorem handleNotices_badFrame {s : State} {p : Port} {kind : Byte} {act : Port → Byte → State → State} {payload : List Byte}
    (h : payload.length ≠ 1) : s.handleNotices p kind act payload = s.send p (.reject kind .badFrame) := by
  unfold handleNotices
  split
  · exact absurd rfl h
  · rfl

end State

/-- Every intact frame is handled, whatever its kind does then. -/
theorem exec_intactFrame {c : Instr} {p : Port} {kind : Byte} {payload : List Byte}
    (hc : c = .chain p payload ∨ c = .cancel p payload ∨ c = .read p payload ∨ c = .noticeClear p payload ∨
      c = .noticeSet p payload ∨ c = .noticeMask p payload ∨ c = .badKindFrame p kind payload) (s : State) :
    ∃ act, exec c s = event (State.handling p act) s ∨ exec c s = quiet (State.handling p act) s := by
  rcases hc with rfl | rfl | rfl | rfl | rfl | rfl | rfl
  · exact ⟨State.handleChain p payload, .inl rfl⟩
  · exact ⟨State.handleCancel p payload, .inl rfl⟩
  · exact ⟨State.handleRead p payload, .inr rfl⟩
  · exact ⟨State.handleNotices p 4 State.noticeClear payload, .inr rfl⟩
  · exact ⟨State.handleNotices p 5 State.noticeSet payload, .inr rfl⟩
  · exact ⟨State.handleNotices p 6 State.noticeMask payload, .inr rfl⟩
  · exact ⟨State.send p (.reject kind .badKind), .inr rfl⟩

/-- An intact frame that is not acted on, in a state that nothing follows. -/
theorem exec_notActedOn {c : Instr} {p : Port} {s t : State} (h : s.powered = true)
    (hc : ∃ act, exec c s = event (State.handling p act) s ∨ exec c s = quiet (State.handling p act) s)
    (hact : ∀ act, s.handling p act = t) (hquiet : t.react = none) : exec c s = .next t := by
  obtain ⟨act, he | he⟩ := hc
  · rw [he, event_next_eq h (hact act), settle_quiet hquiet]
  · rw [he, quiet_next h, hact act]

/-- An intact frame that nothing follows and that is answered with one frame (R175). -/
theorem quiet_answers {s : State} {p : Port} {act : State → State} {f : TxFrame} (h : s.powered = true)
    (hopen : (s.port p).isOpen = true) (hroom : s.answersWaiting p < 8)
    (hact : act (s.setReceive p .hunt) = (s.setReceive p .hunt).send p f) :
    quiet (State.handling p act) s =
      .next (s.modPort p fun lp => { lp with receive := .hunt, transmit := lp.transmit ++ [f] }) := by
  rw [quiet_next h, State.handling_ready act hopen hroom, hact, State.answer_eq f hopen]

/-- Settles O39: what is not handled at all, what is dropped in assembly, what has been sent, and what is handled with a REJECT. -/
theorem otherFrames : Obligations.OtherFrames := by
  refine ⟨fun s c p kind payload h hc => ⟨fun hclosed hquiet => ?_, fun hopen hfull hquiet => ?_⟩,
    fun s p h => ⟨quiet_next h, quiet_next h, quiet_next h, fun f rest hq => ?_, fun hopen hroom => ⟨fun kind payload => ?_,
      fun payload hlen => ?_⟩⟩⟩
  · exact exec_notActedOn h (exec_intactFrame hc s) (fun act => State.handling_closed act hclosed) hquiet
  · exact exec_notActedOn h (exec_intactFrame hc s) (fun act => State.handling_backlog act hopen hfull) hquiet
  · exact (quiet_next h).trans (congrArg _ (State.frameSent_cons hq))
  · exact quiet_answers h hopen hroom rfl
  · have badFrame : ∀ k act, quiet (State.handling p (State.handleNotices p k act payload)) s = .next (s.modPort p fun lp =>
        { lp with receive := .hunt, transmit := lp.transmit ++ [.reject k .badFrame] }) :=
      fun k act => quiet_answers h hopen hroom (State.handleNotices_badFrame hlen)
    exact ⟨badFrame 4 _, badFrame 5 _, badFrame 6 _⟩

end Sys2Proof.Machine

namespace Sys2Proof.Machine

/-! ### The length of every record (section 10.6) -/

@[simp] theorem length_wordBytes (a : Nat) : (wordBytes a).length = 2 := rfl

@[simp] theorem length_longBytes (a : Nat) : (longBytes a).length = 4 := rfl

@[simp] theorem length_optWord (a : Option Nat) : (optWord a).length = 2 := rfl

@[simp] theorem length_berthList (k : Nat) (l : List Ix) : (berthList k l).length = k := by simp [berthList]

theorem length_pad40 {l : List Byte} (h : l.length ≤ 40) : (pad40 l).length = 40 := by
  rw [pad40, List.length_append, List.length_replicate]
  omega

theorem GrantBerth.length_chargeRecord (g : GrantBerth) : g.chargeRecord.length = 14 := rfl

theorem CheckRec.length_record (c : CheckRec) : c.record.length = 8 := rfl

theorem Converter.length_record (c : Converter) : c.record.length = 7 := rfl

theorem NoticeSlot.length_record (x : NoticeSlot) : x.record.length = 9 := rfl

namespace State

theorem length_berthRecord (s : State) (n : Ix) : (s.berthRecord n).length = 33 := by
  cases hc : (s.berth n).consenting <;> simp [berthRecord, hc]

theorem length_grantRecord (s : State) (g : GrantSet) (n : Ix) : (s.grantRecord g n).length = 8 := rfl

theorem length_statusGrid (s : State) : s.statusGrid.length = 15 := rfl

theorem length_statusGrants (s : State) : s.statusGrants.length = 21 := by simp [statusGrants]

theorem length_statusPool (s : State) : s.statusPool.length = 7 := rfl

theorem length_statusScanner (s : State) : s.statusScanner.length = 18 := by simp [statusScanner]

theorem length_statusReference (s : State) : s.statusReference.length = 13 := by simp [statusReference]

/-- The store has one byte, and each of the seven ports five. -/
theorem length_statusOrders (s : State) : s.statusOrders.length = 36 := rfl

/-- Each of the twelve flags has three bytes. -/
theorem length_statusFlags (s : State) : s.statusFlags.length = 36 := rfl

/-- Every record of a table has the length of section 10.6. -/
theorem length_of_mem_tableRecords {s : State} {p : Port} {tb : Table} {x : List Byte} (hx : x ∈ s.tableRecords p tb) :
    x.length = tb.width := by
  cases tb with
  | berth =>
    obtain ⟨n, -, rfl⟩ := List.mem_map.mp hx
    exact s.length_berthRecord n
  | module =>
    obtain ⟨m, -, rfl⟩ := List.mem_map.mp hx
    exact (s.converter m).length_record
  | grant =>
    rcases List.mem_append.mp hx with hx | hx
    · obtain ⟨n, -, rfl⟩ := List.mem_map.mp hx
      exact s.length_grantRecord s.ge.active n
    · obtain ⟨n, -, rfl⟩ := List.mem_map.mp hx
      exact s.length_grantRecord s.ge.staged n
  | charge =>
    obtain ⟨n, -, rfl⟩ := List.mem_map.mp hx
    exact (s.grantBerth n).length_chargeRecord
  | check =>
    obtain ⟨n, -, rfl⟩ := List.mem_map.mp hx
    exact (s.check n).length_record
  | parameter =>
    obtain ⟨v, -, rfl⟩ := List.mem_map.mp hx
    exact length_wordBytes v
  | notice =>
    obtain ⟨cls, -, rfl⟩ := List.mem_map.mp hx
    exact ((s.port p).notices.get cls).length_record
  | status =>
    obtain ⟨l, hl, rfl⟩ := List.mem_map.mp hx
    refine length_pad40 ?_
    simp only [List.mem_cons, List.not_mem_nil, or_false] at hl
    rcases hl with rfl | rfl | rfl | rfl | rfl | rfl | rfl
    · rw [length_statusGrid]; decide
    · rw [length_statusGrants]; decide
    · rw [length_statusPool]; decide
    · rw [length_statusScanner]; decide
    · rw [length_statusReference]; decide
    · rw [length_statusOrders]; decide
    · rw [length_statusFlags]; decide

end State

end Sys2Proof.Machine

namespace Sys2Proof.Machine

/-! ### READ (R177, R178) -/

/-- Every record fits a reply. -/
theorem Table.width_fits (tb : Table) : 1 ≤ 237 / tb.width := by cases tb <;> decide

/-- The number by which a READ names a table (section 10.6). -/
def Table.number : Table → Nat
  | .berth => 0 | .module => 1 | .grant => 2 | .charge => 3 | .check => 4 | .parameter => 5 | .notice => 6 | .status => 7

theorem Table.ofByte_of_number {b : Byte} {tb : Table} (h : b.toNat = tb.number) : Table.ofByte b = some tb := by
  cases tb <;> simp_all [Table.ofByte, Table.number]

theorem Table.ofByte_beyond {b : Byte} (h : 7 < b.toNat) : Table.ofByte b = none := by
  unfold Table.ofByte
  split
  case h_9 => rfl
  all_goals omega

/-- The record of an item is found at its number in the circle of six. -/
theorem getElem_six {α : Type} (f : Ix → α) (n : Ix) : (Ix.all.map f)[n.toNat]? = some (f n) := by cases n <;> rfl

theorem NoticeClass.getElem_all {α : Type} (f : NoticeClass → α) (cls : NoticeClass) :
    (NoticeClass.all.map f)[cls.index]? = some (f cls) := by cases cls <;> rfl

namespace State

/-- The records do not show the receive state. -/
theorem tableRecords_setReceive (s : State) (p : Port) (r : Receive) (tb : Table) :
    (s.setReceive p r).tableRecords p tb = s.tableRecords p tb := by
  cases tb with
  | notice => simp only [tableRecords, port_setReceive]
  | _ => rfl

variable {s : State} {p : Port} {table start count : Byte}

/-- The checks of R177 in their order. -/
theorem readAnswer_badTable (h : Table.ofByte table = none) : s.readAnswer p table start count = .reject 3 .badTable := by
  simp [readAnswer, h]

theorem readAnswer_notPermitted {tb : Table} (h : Table.ofByte table = some tb) (hr : tb.readable p = false) :
    s.readAnswer p table start count = .reject 3 .notPermitted := by
  simp [readAnswer, h, hr]

theorem readAnswer_badIndex {tb : Table} (h : Table.ofByte table = some tb) (hr : tb.readable p = true)
    (hi : (s.tableRecords p tb).length ≤ start.toNat) : s.readAnswer p table start count = .reject 3 .badIndex := by
  simp [readAnswer, h, hr, hi]

/-- A READ that passes its checks is answered with the records that were asked for, that are there, and that fit (R177). -/
theorem readAnswer_reply {tb : Table} {k : Nat} (h : Table.ofByte table = some tb) (hr : tb.readable p = true)
    (hi : start.toNat < (s.tableRecords p tb).length)
    (hk : k = min count.toNat (min ((s.tableRecords p tb).length - start.toNat) (237 / tb.width))) :
    s.readAnswer p table start count =
      .readReply table.toNat start.toNat k (((s.tableRecords p tb).drop start.toNat).take k).flatten := by
  simp [readAnswer, h, hr, hi, hk]

/-- One record is the answer where one was asked for, or where it is the last of its table. -/
theorem readAnswer_record {tb : Table} {i : Nat} {x : List Byte} (h : table.toNat = tb.number) (hr : tb.readable p = true)
    (hi : start.toNat = i) (hx : (s.tableRecords p tb)[i]? = some x) (hc : 1 ≤ count.toNat)
    (hone : count.toNat = 1 ∨ (s.tableRecords p tb).length = i + 1) :
    s.readAnswer p table start count = .readReply tb.number i 1 x := by
  subst hi
  obtain ⟨hlt, hget⟩ := List.getElem?_eq_some_iff.mp hx
  have hfits := tb.width_fits
  rw [readAnswer_reply (Table.ofByte_of_number h) hr hlt (k := 1) (by omega), List.drop_eq_getElem_cons hlt, hget, h]
  simp

/-- The answer is formed of the state before the frame: handling has changed no record. -/
theorem readAnswer_setReceive (r : Receive) : (s.setReceive p r).readAnswer p table start count =
    s.readAnswer p table start count := by
  simp only [readAnswer, tableRecords_setReceive]

theorem handleRead_badFrame {payload : List Byte} (h : payload.length ≠ 3) :
    s.handleRead p payload = s.send p (.reject 3 .badFrame) := by
  unfold handleRead
  split
  · exact absurd rfl h
  · rfl

theorem length_tableRecords_t {tb : Table} (h : tb ∈ [.berth, .module, .charge, .check]) :
    (s.tableRecords .t tb).length = 6 := by
  simp only [List.mem_cons, List.not_mem_nil, or_false] at h
  rcases h with rfl | rfl | rfl | rfl <;> rfl

theorem length_tableRecords_v {n : Ix} {tb : Table} (h : tb ∈ [.berth, .charge, .check]) :
    (s.tableRecords (.v n) tb).length = 1 := by
  simp only [List.mem_cons, List.not_mem_nil, or_false] at h
  rcases h with rfl | rfl | rfl <;> rfl

theorem length_tableRecords_grant : (s.tableRecords p .grant).length = if p = .t then 12 else 2 := by cases p <;> rfl

/-- At port T the staged records of the GRANT table follow the six active ones. -/
theorem tableRecords_staged (n : Ix) : (s.tableRecords .t .grant)[6 + n.toNat]? = some (s.grantRecord s.ge.staged n) := by
  rw [tableRecords, List.getElem?_append_right (Nat.le_add_right 6 _)]
  exact (congrArg _ (Nat.add_sub_cancel_left 6 n.toNat)).trans (getElem_six (s.grantRecord s.ge.staged) n)

theorem tableRecords_active (n : Ix) : (s.tableRecords .t .grant)[n.toNat]? = some (s.grantRecord s.ge.active n) := by
  have hlt : n.toNat < 6 := Nat.lt_succ_of_le (Ix.toNat_le n)
  rw [tableRecords, List.getElem?_append_left hlt]
  exact getElem_six (s.grantRecord s.ge.active) n

/-- An entry of the parameter table is a record of two bytes. -/
theorem tableRecords_parameter {i : Nat} (h : i < s.table.length) :
    (s.tableRecords p .parameter)[i]? = some (wordBytes (s.param i)) := by
  simp [tableRecords, param, h]

end State

/-- A READ frame is answered with one frame at its handling. -/
theorem read_answers {s : State} {p : Port} {payload : List Byte} {f : TxFrame} (h : s.powered = true)
    (hopen : (s.port p).isOpen = true) (hroom : s.answersWaiting p < 8)
    (hf : (s.setReceive p .hunt).handleRead p payload = (s.setReceive p .hunt).send p f) :
    ∃ t : State, exec (.read p payload) s = .next t ∧ OnlyTouches [.link p] s t ∧ t.port p = { s.port p with
      receive := .hunt, transmit := (s.port p).transmit ++ [f] } :=
  ⟨_, quiet_answers h hopen hroom hf, onlyTouches_modPort p _, s.port_modPort p _⟩

/-- Settles O42: the answer is `readAnswer` of the state before the frame; then its checks, the tables, and the single records. -/
theorem readIsAnswered : Obligations.ReadIsAnswered := by
  intro s p payload h hopen hroom
  refine ⟨fun hlen => read_answers h hopen hroom (State.handleRead_badFrame hlen), ?_⟩
  rintro table start count answer rfl rfl
  refine ⟨read_answers h hopen hroom ?handled, ?badTable, ?notPermitted, ?tables, ?vessel, ?beyond, ?terminal, ?staged, ?notice,
    ?status, ?parameter⟩
  case handled => exact congrArg (fun f => State.send p f _) (State.readAnswer_setReceive .hunt)
  case badTable => exact fun h7 => State.readAnswer_badTable (Table.ofByte_beyond h7)
  case notPermitted =>
    rintro n rfl (ht | ht)
    · exact State.readAnswer_notPermitted (Table.ofByte_of_number (tb := .module) ht) rfl
    · exact State.readAnswer_notPermitted (Table.ofByte_of_number (tb := .parameter) ht) rfl
  case tables =>
    rintro tb _ ht hr rfl
    refine ⟨State.readAnswer_badIndex ht hr, fun k hi hk => State.readAnswer_reply ht hr hi hk,
      fun x => State.length_of_mem_tableRecords, ?_, ?_, ?_, ?_, ?_⟩
    · rintro rfl; rfl
    · rintro rfl; rfl
    · rintro n rfl; exact State.length_tableRecords_v
    · rintro rfl; exact State.length_tableRecords_t
    · rintro rfl; exact State.length_tableRecords_grant
  case vessel =>
    rintro n rfl ht hs hc
    exact State.readAnswer_record (tb := .berth) ht rfl hs rfl hc (.inr rfl)
  case beyond =>
    rintro rfl ht hs
    exact State.readAnswer_badIndex (Table.ofByte_of_number (tb := .berth) ht) rfl hs
  case terminal =>
    rintro n rfl hs hc
    have one : ∀ (tb : Table) x, (s.tableRecords .t tb)[n.toNat]? = some x → table.toNat = tb.number →
        s.readAnswer .t table start count = .readReply tb.number n.toNat 1 x := fun tb x hx ht =>
      State.readAnswer_record ht rfl hs hx hc.ge (.inl hc)
    exact ⟨one .berth _ (getElem_six _ n), one .module _ (getElem_six (fun m => (s.converter m).record) n),
      one .grant _ (State.tableRecords_active n), one .charge _ (getElem_six (fun m => (s.grantBerth m).chargeRecord) n),
      one .check _ (getElem_six (fun m => (s.check m).record) n)⟩
  case staged =>
    rintro n rfl ht hs hc
    exact State.readAnswer_record (tb := .grant) ht rfl hs (State.tableRecords_staged n) hc.ge (.inl hc)
  case notice =>
    intro cls ht hs hc
    exact State.readAnswer_record (tb := .notice) ht (by cases p <;> rfl) hs
      (NoticeClass.getElem_all (fun c => ((s.port p).notices.get c).record) cls) hc.ge (.inl hc)
  case status =>
    intro ht hs hc
    exact State.readAnswer_record (tb := .status) ht (by cases p <;> rfl) hs rfl hc.ge (.inl hc)
  case parameter =>
    rintro ⟨hlength, -⟩ rfl ht hs hc
    exact State.readAnswer_record (tb := .parameter) ht rfl rfl (State.tableRecords_parameter (by omega)) hc.ge (.inl hc)

end Sys2Proof.Machine

namespace Sys2Proof.Machine

/-! ### Notice frames (R180) -/

theorem Notices.get_set_same (x : Notices) (cls : NoticeClass) (a : NoticeSlot) : (x.set cls a).get cls = a := by
  cases cls <;> rfl

theorem NoticeClass.mem_all (cls : NoticeClass) : cls ∈ NoticeClass.all := by cases cls <;> decide

/-- A NOTICE frame that is sent waits in the queue, in its own place or in that of an older one (R176). -/
theorem mem_withNotice_self (cls : NoticeClass) (x : Notice) (queue : List TxFrame) :
    TxFrame.notice cls x ∈ withNotice cls x queue := by
  unfold withNotice
  cases queue with
  | nil => simp
  | cons head rest =>
    dsimp only
    split
    · rename_i hany
      obtain ⟨f, hf, hsame⟩ := List.any_eq_true.mp hany
      exact List.mem_cons_of_mem _ (List.mem_map.mpr ⟨f, hf, if_pos hsame⟩)
    · simp

/-- A waiting frame that a later NOTICE does not replace still waits (R176). -/
theorem mem_withNotice_of_mem {cls : NoticeClass} {x : Notice} {f : TxFrame} {queue : List TxFrame} (hf : f ∈ queue)
    (hkept : f.sameNotice cls x.code = false ∨ f = .notice cls x) : f ∈ withNotice cls x queue := by
  have hfixed : (if f.sameNotice cls x.code then .notice cls x else f) = f := by
    rcases hkept with hother | rfl
    · rw [hother]; rfl
    · exact ite_self _
  unfold withNotice
  cases queue with
  | nil => cases hf
  | cons head rest =>
    dsimp only
    rcases List.mem_cons.mp hf with rfl | hrest
    · split <;> exact List.mem_cons_self
    · split
      · exact List.mem_cons_of_mem _ (List.mem_map.mpr ⟨f, hrest, hfixed⟩)
      · exact List.mem_cons_of_mem _ (List.mem_append_left _ hrest)

/-- What a NOTICE_SET that names one class does to its port, with the contents that it sends. -/
def LinkPort.classSet (content : NoticeClass → Notice) (cls : NoticeClass) (lp : LinkPort) : LinkPort :=
  { lp with
    notices := lp.notices.set cls { lp.notices.get cls with flag := true }
    transmit := if (lp.notices.get cls).masked then lp.transmit else withNotice cls (content cls) lp.transmit }

/-- What a NOTICE_SET that names a list of classes does to its port. -/
def LinkPort.classesSet (content : NoticeClass → Notice) (named : List NoticeClass) (lp : LinkPort) : LinkPort :=
  named.foldl (fun x cls => x.classSet content cls) lp

namespace LinkPort

variable {content : NoticeClass → Notice}

/-- The flag of the class becomes SET; its mask and content, and the other classes, are kept. -/
theorem notices_classSet (cls c : NoticeClass) (lp : LinkPort) : (lp.classSet content cls).notices.get c =
    if c = cls then { lp.notices.get c with flag := true } else lp.notices.get c := by
  unfold classSet
  by_cases h : c = cls
  · rw [if_pos h, h, Notices.get_set_same]
  · rw [if_neg h, Notices.get_set_ne _ _ h]

theorem masked_classSet (cls c : NoticeClass) (lp : LinkPort) :
    ((lp.classSet content cls).notices.get c).masked = (lp.notices.get c).masked := by
  rw [notices_classSet]
  split <;> rfl

/-- A frame with the content of its class is not replaced by another. -/
theorem mem_classSet_of_mem {cls c : NoticeClass} {lp : LinkPort} (h : TxFrame.notice c (content c) ∈ lp.transmit) :
    TxFrame.notice c (content c) ∈ (lp.classSet content cls).transmit := by
  unfold classSet
  dsimp only
  split
  · exact h
  · refine mem_withNotice_of_mem h ?_
    by_cases hc : c = cls
    · exact .inr (by rw [hc])
    · exact .inl (by simp [TxFrame.sameNotice, hc])

theorem mem_classSet_self {cls : NoticeClass} {lp : LinkPort} (h : (lp.notices.get cls).masked = false) :
    TxFrame.notice cls (content cls) ∈ (lp.classSet content cls).transmit := by
  simp [classSet, h, mem_withNotice_self]

theorem transmit_classSet_masked {cls : NoticeClass} {lp : LinkPort} (h : (lp.notices.get cls).masked = true) :
    (lp.classSet content cls).transmit = lp.transmit := if_pos h

theorem notices_classesSet (c : NoticeClass) (named : List NoticeClass) (lp : LinkPort) :
    (lp.classesSet content named).notices.get c =
      if c ∈ named then { lp.notices.get c with flag := true } else lp.notices.get c := by
  induction named generalizing lp with
  | nil => simp [classesSet]
  | cons cls rest ih =>
    refine (ih (lp.classSet content cls)).trans ?_
    rw [notices_classSet]
    by_cases hc : c = cls <;> simp [hc]

theorem mem_classesSet_of_mem {c : NoticeClass} (named : List NoticeClass) {lp : LinkPort}
    (h : TxFrame.notice c (content c) ∈ lp.transmit) :
    TxFrame.notice c (content c) ∈ (lp.classesSet content named).transmit := by
  induction named generalizing lp with
  | nil => exact h
  | cons cls rest ih => exact ih (mem_classSet_of_mem h)

/-- The content of every named class that is unmasked is sent. -/
theorem mem_classesSet {c : NoticeClass} {named : List NoticeClass} {lp : LinkPort} (hc : c ∈ named)
    (h : (lp.notices.get c).masked = false) :
    TxFrame.notice c (content c) ∈ (lp.classesSet content named).transmit := by
  induction named generalizing lp with
  | nil => cases hc
  | cons cls rest ih =>
    rcases List.mem_cons.mp hc with rfl | hrest
    · exact mem_classesSet_of_mem rest (mem_classSet_self h)
    · exact ih hrest ((masked_classSet cls c lp).trans h)

/-- Where every named class is masked, nothing is sent. -/
theorem transmit_classesSet_masked {named : List NoticeClass} {lp : LinkPort}
    (h : ∀ c ∈ named, (lp.notices.get c).masked = true) : (lp.classesSet content named).transmit = lp.transmit := by
  induction named generalizing lp with
  | nil => rfl
  | cons cls rest ih =>
    have hrest : ∀ c ∈ rest, ((lp.classSet content cls).notices.get c).masked = true := fun c hc =>
      (masked_classSet cls c lp).trans (h c (List.mem_cons_of_mem _ hc))
    exact (ih hrest).trans (transmit_classSet_masked (h cls List.mem_cons_self))

end LinkPort

/-- The classes that a class-set byte names and that the port's NOTICE_CLEAR and NOTICE_SET act on (R180). -/
def NoticeClass.actedOn (p : Port) (set : Byte) : List NoticeClass :=
  NoticeClass.all.filter fun cls => cls.named set && cls.actsOn p

theorem NoticeClass.mem_actedOn {p : Port} {set : Byte} {cls : NoticeClass} :
    cls ∈ NoticeClass.actedOn p set ↔ set.getLsbD cls.index = true ∧ cls.actsOn p = true := by
  simp [actedOn, mem_all, named]

namespace State

/-- One change of a port after another is one change of it. -/
theorem forEach_modPort {α : Type} (p : Port) (f : α → LinkPort → LinkPort) (l : List α) (s : State) :
    (s.forEach l fun a u => u.modPort p (f a)) = s.modPort p fun lp => l.foldl (fun x a => f a x) lp := by
  induction l generalizing s with
  | nil => simp [forEach, modPort]
  | cons a l ih =>
    refine (ih (s.modPort p (f a))).trans ?_
    simp [modPort]

theorem setContent_setReceive (s : State) (p : Port) (r : Receive) : (s.setReceive p r).setContent p = s.setContent p := by
  funext cls
  rw [setContent, port_setReceive, setContent]
  rfl

theorem noticeSet_eq (p : Port) (set : Byte) (s : State) :
    s.noticeSet p set = s.modPort p (LinkPort.classesSet (s.setContent p) (NoticeClass.actedOn p set)) :=
  forEach_modPort p (fun cls => LinkPort.classSet (s.setContent p) cls) _ s

end State

/-- A notice frame of one byte changes its own port alone. -/
theorem notice_acts {s : State} {p : Port} {kind set : Byte} {act : Port → Byte → State → State} {f : LinkPort → LinkPort}
    (h : s.powered = true) (hopen : (s.port p).isOpen = true) (hroom : s.answersWaiting p < 8)
    (hact : act p set (s.setReceive p .hunt) = (s.setReceive p .hunt).modPort p f) :
    ∃ t : State, quiet (State.handling p (State.handleNotices p kind act [set])) s = .next t ∧ OnlyTouches [.link p] s t ∧
      t.port p = f { s.port p with receive := .hunt } := by
  refine ⟨_, quiet_next h, ?_⟩
  have hnext : s.handling p (State.handleNotices p kind act [set]) = (s.setReceive p .hunt).modPort p f :=
    (State.handling_ready _ hopen hroom).trans hact
  rw [hnext, State.port_modPort, State.port_setReceive]
  exact ⟨onlyTouches_trans (s.onlyTouches_setReceive p .hunt) (onlyTouches_modPort p f), rfl⟩

theorem noticeClear_acts {s : State} {p : Port} {set : Byte} (h : s.powered = true) (hopen : (s.port p).isOpen = true)
    (hroom : s.answersWaiting p < 8) : ∃ t : State, exec (.noticeClear p [set]) s = .next t ∧ OnlyTouches [.link p] s t ∧
      (t.port p).transmit = (s.port p).transmit ∧
      ∀ cls, (t.port p).notices.get cls = if set.getLsbD cls.index = true ∧ cls.actsOn p = true then
        { (s.port p).notices.get cls with flag := false } else (s.port p).notices.get cls := by
  obtain ⟨t, he, hframe, hport⟩ := notice_acts (kind := 4) (act := State.noticeClear) (set := set) h hopen hroom rfl
  refine ⟨t, he, hframe, by rw [hport], fun cls => ?_⟩
  rw [hport, Notices.get_mapAll, NoticeClass.named]
  simp only [Bool.and_eq_true]

theorem noticeMask_acts {s : State} {p : Port} {set : Byte} (h : s.powered = true) (hopen : (s.port p).isOpen = true)
    (hroom : s.answersWaiting p < 8) : ∃ t : State, exec (.noticeMask p [set]) s = .next t ∧ OnlyTouches [.link p] s t ∧
      (t.port p).transmit = (s.port p).transmit ∧
      ∀ cls, (t.port p).notices.get cls = { (s.port p).notices.get cls with masked := set.getLsbD cls.index } := by
  obtain ⟨t, he, hframe, hport⟩ := notice_acts (kind := 6) (act := State.noticeMask) (set := set) h hopen hroom rfl
  refine ⟨t, he, hframe, by rw [hport], fun cls => ?_⟩
  rw [hport, Notices.get_mapAll, NoticeClass.named]

theorem noticeSet_acts {s : State} {p : Port} {set : Byte} (h : s.powered = true) (hopen : (s.port p).isOpen = true)
    (hroom : s.answersWaiting p < 8) : ∃ t : State, exec (.noticeSet p [set]) s = .next t ∧ OnlyTouches [.link p] s t ∧
      t.port p = LinkPort.classesSet (s.setContent p) (NoticeClass.actedOn p set) { s.port p with receive := .hunt } := by
  refine notice_acts h hopen hroom ?_
  rw [State.noticeSet_eq, State.setContent_setReceive]

/-- Settles O43: NOTICE_CLEAR and NOTICE_MASK write the slots, and NOTICE_SET writes them and sends, class by class. -/
theorem noticeFramesAct : Obligations.NoticeFramesAct := by
  intro s p set h hopen hroom
  obtain ⟨t, he, hframe, hport⟩ := noticeSet_acts (set := set) h hopen hroom
  refine ⟨noticeClear_acts h hopen hroom, noticeMask_acts h hopen hroom, t, he, hframe, fun cls => ?_,
    fun cls hn ha hm => ⟨?_, rfl⟩, fun hmasked => ?_⟩
  · rw [hport, LinkPort.notices_classesSet]
    simp only [NoticeClass.mem_actedOn]
  · rw [hport]
    exact LinkPort.mem_classesSet (NoticeClass.mem_actedOn.mpr ⟨hn, ha⟩) hm
  · rw [hport, LinkPort.transmit_classesSet_masked]
    intro c hc
    obtain ⟨hn, ha⟩ := NoticeClass.mem_actedOn.mp hc
    exact hmasked c hn ha

end Sys2Proof.Machine

namespace Sys2Proof.Machine

/-- Settles O5: the table's ranges are among the properties that every primitive update keeps, so every step keeps them. -/
theorem stepKeepsTableInv : Obligations.StepKeepsTableInv := fun _ _ hs ht => stable_tableInv.step hs ht

end Sys2Proof.Machine

namespace Sys2Proof.Machine

/-! ### The failure of the supply (R182) -/

namespace State

/-- A value written to the table stands at its own index, if the table has that index, and every other entry keeps its own. -/
theorem param_modTable_set (i v j : Nat) (s : State) : (s.modTable fun l => l.set i v).param j = s.param j ∨
    j = i ∧ (s.modTable fun l => l.set i v).param j = v := by
  have hset : (s.modTable fun l => l.set i v).param j = (s.table.set i v).getD j 0 := rfl
  rw [hset, param, List.getD_eq_getElem?_getD, List.getElem?_set]
  by_cases hij : i = j
  · subst hij
    by_cases hlen : i < s.table.length <;> simp [hlen]
  · simp [hij]

/-- What a run of writes cut short by the supply leaves: the entries it did not reach, and those it had not yet written, hold their
old values, and the others the value at their place in the run, clamped (R182, R184). -/
theorem param_writeSome (i : Nat) (values : List (Nat × Bool)) (s : State) (j : Nat) :
    (s.writeSome i values).param j = s.param j ∨
      ∃ v, i ≤ j ∧ values[j - i]? = some (v, true) ∧ (s.writeSome i values).param j = entryClamp j v := by
  induction values generalizing i s with
  | nil => exact .inl rfl
  | cons x rest ih =>
    obtain ⟨v, written⟩ := x
    rw [writeSome]
    split
    case isTrue => exact .inl rfl
    case isFalse =>
      rcases ih (i + 1) (if written then s.modTable fun l => l.set i (entryClamp i v) else s) with hkept | ⟨w, hle, hw, hnew⟩
      · rw [hkept]
        cases written
        case false => exact .inl rfl
        case true =>
          refine (s.param_modTable_set i (entryClamp i v) j).imp id fun ⟨hj, hv⟩ => ?_
          subst hj
          exact ⟨v, le_rfl, by rw [Nat.sub_self]; rfl, hv⟩
      · have hplace : j - i = (j - (i + 1)) + 1 := by omega
        exact .inr ⟨w, by omega, by rw [hplace, List.getElem?_cons_succ]; exact hw, hnew⟩

theorem onlyTouches_writeSome (i : Nat) (values : List (Nat × Bool)) (s : State) :
    OnlyTouches [.table] s (s.writeSome i values) := by
  induction values generalizing i s with
  | nil => exact onlyTouches_refl _ s
  | cons x rest ih =>
    rw [writeSome]
    split
    case isTrue => exact onlyTouches_refl _ s
    case isFalse =>
      refine onlyTouches_trans ?_ (ih (i + 1) _)
      split
      · exact onlyTouches_modTable _
      · exact onlyTouches_refl _ s

theorem onlyTouches_powered (b : Bool) (s : State) : OnlyTouches [.power] s { s with powered := b } := by
  intro part hpart
  cases part
  case power => exact absurd (List.mem_singleton_self _) hpart
  all_goals rfl

end State

/-- Settles O10: a run cut short is an induction over its values, and without a run only the supply goes. -/
theorem supplyFailureLeavesEntriesWhole : Obligations.SupplyFailureLeavesEntriesWhole := by
  intro s run h
  have hexec : exec (.supplyFailure run) s = .next (s.powerDown run) := congrArg _ (if_pos h)
  refine ⟨s.powerDown run, hexec, rfl, ?_⟩
  cases run with
  | none =>
    exact ⟨onlyTouches_mono (State.onlyTouches_powered false s) (by simp), fun _ => rfl, fun _ => .inl rfl⟩
  | some run =>
    obtain ⟨start, values⟩ := run
    have htable : OnlyTouches [.power, .table] s (s.writeSome start values) :=
      onlyTouches_mono (s.onlyTouches_writeSome start values) (by simp)
    have hpower := State.onlyTouches_powered false (s.writeSome start values)
    refine ⟨onlyTouches_trans htable (onlyTouches_mono hpower (by simp)), nofun, fun i => ?_⟩
    refine (s.param_writeSome start values i).imp id ?_
    rintro ⟨v, hle, hv, hnew⟩
    exact ⟨start, values, v, rfl, hle, hv, hnew⟩

end Sys2Proof.Machine

namespace Sys2Proof.Machine

/-! ### The state after reset (log entry 6) -/

namespace State

theorem orders_reset (p : Port) : reset.orders p = freshOrders := freshOrders_get p

theorem slotsInUse_reset : reset.slotsInUse = 0 := by
  simp [slotsInUse_eq, portSlots_eq, orders_reset, slotsOf]

theorem storeInv_reset : StoreInv reset := by
  refine ⟨?_, fun p => ?_⟩
  · rw [slotsInUse_reset]
    exact Nat.zero_le _
  · rw [orders_reset]
    exact Nat.zero_le _

theorem rangeInv_reset : RangeInv reset := by
  refine ⟨Nat.zero_le _, ⟨by decide, by decide⟩, fun n => ?_, fun n => ?_⟩
  · cases n <;> exact Nat.zero_le _
  · cases n <;> exact Nat.zero_le _

theorem flag_reset (n : Ix) (second : Bool) : reset.flag n second = freshFlag := by
  cases n <;> cases second <;> rfl

theorem berth_reset (n : Ix) : reset.berth n = vacantBerth := by
  cases n <;> rfl

theorem portReady_reset : PortReady reset .t where
  powered := rfl
  isOpen := rfl
  room := by decide
  idle := congrArg PortOrders.queue (orders_reset .t)
  slot := by
    rw [freeSlots, slotsInUse_reset]
    decide
  noWait n second w hw := by
    rw [flag_reset] at hw
    exact absurd hw List.not_mem_nil
  noConsent n r hr := by
    rw [berth_reset] at hr
    exact absurd hr nofun

end State

/-- Settles O8. -/
theorem resetMeetsInvariants : Obligations.ResetMeetsInvariants :=
  ⟨defaultTable_ok, State.storeInv_reset, State.rangeInv_reset, State.portReady_reset, rfl, rfl⟩

end Sys2Proof.Machine

namespace Sys2Proof.Machine

/-- Settles O14: an order and its unused argument bytes are read back, kind by kind. -/
theorem orderRecordRoundTrip : Obligations.OrderRecordRoundTrip := fun o h =>
  ⟨o.length_toBytes, OrderRec.ofBytes_toBytes h⟩

end Sys2Proof.Machine

namespace Sys2Proof.Machine

/-! ### A step of a waiting queue, a quiet state, a part without supply -/

theorem step_command {s : State} {c : Instr} {rest : List Instr} (h : s.pending = c :: rest) :
    step s = exec c { s with pending := rest } := by
  unfold step
  rw [h]

namespace State

theorem berthReact_eq_none {s : State} (h : ∀ n, s.berthNext n = none) : s.berthReact = none :=
  List.findSome?_eq_none_iff.mpr fun n _ => h n

theorem react_eq_none {s : State} (hb : ∀ n, s.berthNext n = none) (hp : ∀ p, s.portNext p = none) : s.react = none := by
  unfold react
  rw [berthReact_eq_none hb]
  exact List.findSome?_eq_none_iff.mpr fun p _ => hp p

end State

theorem event_unpowered {f : State → State} {s : State} (h : s.powered = false) : event f s = .next s := by
  simp [event, h]

theorem quiet_unpowered {f : State → State} {s : State} (h : s.powered = false) : quiet f s = .next s := by
  simp [quiet, h]

theorem execSupplyFailure_unpowered {run : Option (Nat × List (Nat × Bool))} {s : State} (h : s.powered = false) :
    execSupplyFailure run s = .next s := by
  simp [execSupplyFailure, h]

/-- Settles O1. -/
theorem stepRunsFront : Obligations.StepRunsFront := fun _ _ _ h => step_command h

/-- Settles O3: the search for a follower finds nothing at any berth and then nothing at any port. -/
theorem settledWhenNothingFollows : Obligations.SettledWhenNothingFollows := fun _ hb hp =>
  settle_quiet (State.react_eq_none hb hp)

/-- Settles O4: every command but POWER_ON is an event, a quiet event or the supply failure, and each of these asks for the
supply first. -/
theorem unpoweredTakesNothing : Obligations.UnpoweredTakesNothing := by
  intro c s h hc
  cases c with
  | powerOn i => exact absurd rfl (hc i)
  | supplyFailure run => exact execSupplyFailure_unpowered h
  | read | noticeClear | noticeSet | noticeMask | badKindFrame | corruptFrame | frameReceiveError | frameGapTimeout | frameSent =>
    exact quiet_unpowered h
  | gridWord hi lo check => exact quiet_unpowered (f := fun t => t.dropWord.takeWord hi lo check) h
  | gridReceiveError | gridWordGapTimeout | gridByteReceived | stalenessExpiry | shedAsserted | shedReleased =>
    exact quiet_unpowered h
  | _ => exact event_unpowered h

end Sys2Proof.Machine
